-- ==== Sys2Proof/Word.lean ====
section
/-! DEFINITION. The byte and the index types of the part's like things (00_scope.md, Identifiers). -/

namespace Sys2Proof

/-- One byte of a frame, a record or a retained item. -/
abbrev Byte := BitVec 8

/-- A hose H0..H3; also its reader, its nozzle lines and its valve. -/
abbrev HoseId := Fin 4

/-- A compartment C0, C1; also the pump P0, P1 that serves it. -/
abbrev CompId := Fin 2

/-- A meter channel: 0..3 are M0..M3 of the hoses, 4 is MR of the receipt line. -/
abbrev MeterId := Fin 5

/-- A station 1..16, written as its number less 1. -/
abbrev StationId := Fin 16

/-- A slot 0..255 of the machine table. -/
abbrev SlotId := Fin 256

end Sys2Proof
end

