-- ==== Sys2Proof/Config.lean ====
section
/-! DEFINITION. What the spec leaves open (free values) and the fixed figures of the part. -/

namespace Sys2Proof

/-- The free value: bits the spec does not state. `n` is State.free, which every answered exchange and
every appended record advances; `k` tells apart the uses within one step. No body: nothing can
evaluate it. Used for a reply or record field whose figure does not fit its width (log entry 13) and
for the urgency key over a capacity of 0 (log entry 26). -/
opaque Config.freeBits (w n k : Nat) : BitVec w

/-- Slots of the delivery log's ring (R113: fixed). -/
abbrev Config.logSlots : Nat := 1024

/-- Bytes of a log record (R121: fixed). -/
abbrev Config.recordBytes : Nat := 48

/-- Places of the event queue (R175: fixed). -/
abbrev Config.eventRoom : Nat := 32

/-- Places of the transmit queue (R150: fixed). -/
abbrev Config.subjectRoom : Nat := 16

/-- Length of a meter window, 250 ms, in µs (R90: fixed). -/
abbrev Config.windowMicros : Nat := 250000

/-- Microseconds in a second. -/
abbrev Config.second : Nat := 1000000

end Sys2Proof
end

