-- ==== Sys2Proof/Syntax.lean ====
section
/-! DEFINITION. The commands and events of spec/opcode_table.json, one constructor a row. The operands
of a command of the port are its tag and its parameters at the widths of R172. -/

namespace Sys2Proof

/-- One step of a LOAD_PROFILE frame, six bytes (R174): stage and condition kind; v, or n and r; next. -/
structure RawStep where
  head : Byte
  param : BitVec 32
  next : Byte
  deriving DecidableEq, Repr

/-- The section of a LOAD_METROLOGY frame with its fields (11_configuration_seal_and_start_up.md, the
table of LOAD_METROLOGY). -/
inductive MetroSection where
  /-- METER_HEAD: meter, NF, point count. -/
  | meterHead (meter : Byte) (nf : BitVec 16) (count : BitVec 32)
  /-- METER_POINT: meter, point index, rate, MF. -/
  | meterPoint (meter : Byte) (index : BitVec 32) (rate : BitVec 16) (mf : BitVec 24)
  /-- ALPHA: compartment, α. -/
  | alpha (comp : Byte) (alpha : BitVec 16)
  /-- TCAL: input, TGAIN, TOFFSET. -/
  | tcal (input : Byte) (gain offset : BitVec 16)
  /-- ISSUED_CRC: the CRC issued with the calibration. -/
  | issuedCrc (crc : BitVec 16)
  /-- A section code above 4, which R165 calls unknown. -/
  | unknown (code : Byte)
  deriving DecidableEq, Repr

/-- A command of the port, or an event of a line, a measurement or a timer. -/
inductive Instr where
  -- commands of the port
  | nop (tag : Byte)
  | unknownCommand (code tag : Byte)
  /-- PSEL released after `bytes` whole bytes. -/
  | exchangeCutShort (bytes : Fin 32)
  | setConfig (tag item element : Byte) (value : BitVec 32)
  | loadProfile (tag profile count flag : Byte) (steps : Vector RawStep 4)
  | loadProfileContinuation (tag profile count : Byte) (steps : Vector RawStep 4)
  | loadMetrology (tag : Byte) (sect : MetroSection)
  | sealPart (tag : Byte)
  | restart (tag : Byte)
  | powerUp
  | resetnAssertion
  | putMachine (tag : Byte) (ring : BitVec 24) (number : BitVec 16) (costCentre : Byte)
      (permitted : BitVec 32) (state : Byte) (allowance cap : BitVec 16)
  | barMachine (tag selector : Byte) (key : BitVec 24)
  | unbarMachine (tag selector : Byte) (key : BitVec 24)
  | removeMachine (tag selector : Byte) (key : BitVec 24)
  | getMachine (tag selector : Byte) (key : BitVec 24) (station page : Byte)
  | setDay (tag : Byte) (day : BitVec 16)
  | authorise (tag hose : Byte) (preset : BitVec 32) (number : BitVec 16)
  | stop (tag hose : Byte)
  | setPreset (tag hose : Byte) (preset : BitVec 32)
  | getHose (tag hose page : Byte)
  | estopClear (tag : Byte)
  | readRecord (tag : Byte) (k : BitVec 32) (part drain : Byte)
  | readRecordDrain (tag : Byte) (k : BitVec 32) (part : Byte)
  | release (tag : Byte) (n : BitVec 32)
  | setStock (tag comp : Byte) (book : BitVec 32)
  | receiptBegin (tag comp : Byte)
  | receiptEnd (tag : Byte)
  | setParked (tag value : Byte)
  | getStock (tag page : Byte)
  | getLink (tag station page : Byte)
  | readEvent (tag : Byte)
  | setEventMask (tag : Byte) (mask : BitVec 24)
  -- lines of the hoses and pumps
  | seatEvent (hose : HoseId)
  | unseatEvent (hose : HoseId)
  | deadmanHeld (hose : HoseId)
  | deadmanRelease (hose : HoseId)
  | estopAssertion
  | estopRelease
  | pfltAssertion (pump : CompId)
  | pfltRelease (pump : CompId)
  -- readers, hoses, meters, pumps and the sampler
  | periodExpiry (reader : HoseId)
  | padMeasurement (reader : HoseId) (count : BitVec 16)
  | armExpiry (hose : HoseId)
  | pauseExpiry (hose : HoseId)
  | windowExpiry (meter : MeterId)
  | spinUpExpiry (pump : CompId)
  | runOnExpiry (pump : CompId)
  | pwmPeriodStart (pump : CompId)
  | analogSample (sample : BitVec 12)
  -- the machine table, the log and the stock keeper
  | reservationExpiry (slot : SlotId) (station : StationId)
  | scrubExpiry
  | goHoldExpiry
  | yieldExpiry
  -- the site link
  | carrierEvent
  | carrierRelease
  | linkCharacter (char : Byte)
  | quietExpiry
  | jamExpiry
  | backoffExpiry
  | endOfTransmission
  | stalenessExpiry (station : StationId)
  | machineSweep
  | stockSweep
  -- the metrology scan and the phase lines
  | scanExpiry
  | phaseLineObservation (meter : MeterId) (a b : Bool)
  deriving DecidableEq, Repr

end Sys2Proof
end

