-- ==== Sys2Proof/WellFormed.lean ====
section
/-! DEFINITION. Which operands a row of the table takes: rows that split one command code by a flag or
by its code do not overlap. -/

namespace Sys2Proof

/-- The codes of the command table of 12.2. -/
def knownCodes : List Nat :=
  [0x00, 0x01, 0x02, 0x03, 0x04, 0x05, 0x10, 0x11, 0x12, 0x13, 0x14, 0x15, 0x20, 0x21, 0x22, 0x23,
   0x24, 0x30, 0x31, 0x40, 0x41, 0x42, 0x43, 0x44, 0x50, 0x60, 0x61]

/-- A section of LOAD_METROLOGY is unknown when its code is above 4 (R165, R172). -/
def MetroSection.wellFormed : MetroSection → Bool
  | .unknown code => decide (4 < code.toNat)
  | .meterHead .. | .meterPoint .. | .alpha .. | .tcal .. | .issuedCrc .. => true

/-- UNKNOWN_COMMAND bears a code outside the table (R171); a LOAD_PROFILE with the continuation flag
set is the row LOAD_PROFILE_CONTINUATION (R174); a READ_RECORD with drain mode on is the row
READ_RECORD_DRAIN (R123). -/
def Instr.wellFormed : Instr → Bool
  | .unknownCommand code _ => decide (code.toNat ∉ knownCodes)
  | .loadProfile _ _ _ flag _ => flag != 1
  | .readRecord _ _ _ drain => drain != 1
  | .loadMetrology _ sect => sect.wellFormed
  | .nop .. | .exchangeCutShort .. | .setConfig .. | .loadProfileContinuation .. | .sealPart ..
  | .restart .. | .powerUp | .resetnAssertion | .putMachine .. | .barMachine .. | .unbarMachine ..
  | .removeMachine .. | .getMachine .. | .setDay .. | .authorise .. | .stop .. | .setPreset ..
  | .getHose .. | .estopClear .. | .readRecordDrain .. | .release .. | .setStock ..
  | .receiptBegin .. | .receiptEnd .. | .setParked .. | .getStock .. | .getLink .. | .readEvent ..
  | .setEventMask .. | .seatEvent .. | .unseatEvent .. | .deadmanHeld .. | .deadmanRelease ..
  | .estopAssertion | .estopRelease | .pfltAssertion .. | .pfltRelease .. | .periodExpiry ..
  | .padMeasurement .. | .armExpiry .. | .pauseExpiry .. | .windowExpiry .. | .spinUpExpiry ..
  | .runOnExpiry .. | .pwmPeriodStart .. | .analogSample .. | .reservationExpiry .. | .scrubExpiry
  | .goHoldExpiry | .yieldExpiry | .carrierEvent | .carrierRelease | .linkCharacter ..
  | .quietExpiry | .jamExpiry | .backoffExpiry | .endOfTransmission | .stalenessExpiry ..
  | .machineSweep | .stockSweep | .scanExpiry | .phaseLineObservation .. => true

end Sys2Proof
end

