-- ==== Sys2Proof/Decode.lean ====
section
/-! DEFINITION. Words of the table (none: the table gives no row any bits), and the command frames of
the port with their inverse (R169, R171, R172, R174). -/

namespace Sys2Proof

/-- No row of spec/opcode_table.json has bits, so no word spells a command. -/
def decodeTableWord (_nbits _w : Nat) : Option Instr := none

/-! ## Fields of a frame, most significant byte first (R172) -/

/-- Byte `i` of a frame. -/
def frameByte (f : List Byte) (i : Nat) : Byte := f.getD i 0

/-- The two bytes from `i`. -/
def frame16 (f : List Byte) (i : Nat) : BitVec 16 := frameByte f i ++ frameByte f (i + 1)

/-- The three bytes from `i`. -/
def frame24 (f : List Byte) (i : Nat) : BitVec 24 := frame16 f i ++ frameByte f (i + 2)

/-- The four bytes from `i`. -/
def frame32 (f : List Byte) (i : Nat) : BitVec 32 := frame16 f i ++ frame16 f (i + 2)

/-- The six bytes of a profile step from `i` (R174). -/
def frameStep (f : List Byte) (i : Nat) : RawStep :=
  { head := frameByte f i, param := frame32 f (i + 1), next := frameByte f (i + 5) }

/-- The four step places of a LOAD_PROFILE frame, bytes 5 to 28 (R174). -/
def frameSteps (f : List Byte) : Vector RawStep 4 :=
  #v[frameStep f 5, frameStep f 11, frameStep f 17, frameStep f 23]

/-- The section of a LOAD_METROLOGY frame: byte 2 is its code, the fields follow (R172; a meter and a
temperature input in 1 byte, log entry 10). -/
def frameSection (f : List Byte) : MetroSection :=
  match (frameByte f 2).toNat with
  | 0 => .meterHead (frameByte f 3) (frame16 f 4) (frame32 f 6)
  | 1 => .meterPoint (frameByte f 3) (frame32 f 4) (frame16 f 8) (frame24 f 10)
  | 2 => .alpha (frameByte f 3) (frame16 f 4)
  | 3 => .tcal (frameByte f 3) (frame16 f 4) (frame16 f 6)
  | 4 => .issuedCrc (frame16 f 3)
  | _ => .unknown (frameByte f 2)

/-- The command of a frame by its code (12.2), its parameters from byte 2, its page in byte 31 (R173). -/
def decodeCommand (f : List Byte) : Instr :=
  let tag := frameByte f 1
  match (frameByte f 0).toNat with
  | 0x00 => .nop tag
  | 0x01 => .setConfig tag (frameByte f 2) (frameByte f 3) (frame32 f 4)
  | 0x02 =>
    if frameByte f 4 = 1 then .loadProfileContinuation tag (frameByte f 2) (frameByte f 3) (frameSteps f)
    else .loadProfile tag (frameByte f 2) (frameByte f 3) (frameByte f 4) (frameSteps f)
  | 0x03 => .loadMetrology tag (frameSection f)
  | 0x04 => .sealPart tag
  | 0x05 => .restart tag
  | 0x10 =>
    .putMachine tag (frame24 f 2) (frame16 f 5) (frameByte f 7) (frame32 f 8) (frameByte f 12)
      (frame16 f 13) (frame16 f 15)
  | 0x11 => .barMachine tag (frameByte f 2) (frame24 f 3)
  | 0x12 => .unbarMachine tag (frameByte f 2) (frame24 f 3)
  | 0x13 => .removeMachine tag (frameByte f 2) (frame24 f 3)
  | 0x14 => .getMachine tag (frameByte f 2) (frame24 f 3) (frameByte f 6) (frameByte f 31)
  | 0x15 => .setDay tag (frame16 f 2)
  | 0x20 => .authorise tag (frameByte f 2) (frame32 f 3) (frame16 f 7)
  | 0x21 => .stop tag (frameByte f 2)
  | 0x22 => .setPreset tag (frameByte f 2) (frame32 f 3)
  | 0x23 => .getHose tag (frameByte f 2) (frameByte f 31)
  | 0x24 => .estopClear tag
  | 0x30 =>
    if frameByte f 7 = 1 then .readRecordDrain tag (frame32 f 2) (frameByte f 6)
    else .readRecord tag (frame32 f 2) (frameByte f 6) (frameByte f 7)
  | 0x31 => .release tag (frame32 f 2)
  | 0x40 => .setStock tag (frameByte f 2) (frame32 f 3)
  | 0x41 => .receiptBegin tag (frameByte f 2)
  | 0x42 => .receiptEnd tag
  | 0x43 => .setParked tag (frameByte f 2)
  | 0x44 => .getStock tag (frameByte f 31)
  | 0x50 => .getLink tag (frameByte f 2) (frameByte f 31)
  | 0x60 => .readEvent tag
  | 0x61 => .setEventMask tag (frame24 f 2)
  | _ => .unknownCommand (frameByte f 0) tag

/-- The command of an exchange's bytes: its first 32, the bytes clocked after them being ignored, and none
where it is cut short (R169); every code decodes, an unlisted one to UNKNOWN_COMMAND (R171). -/
def decodeFrame (f : List Byte) : Option Instr :=
  if 32 ≤ f.length then some (decodeCommand (f.take 32)) else none

/-! ## The inverse -/

/-- The bytes of a 16-bit field. -/
def bytes16 (x : BitVec 16) : List Byte := [x.extractLsb' 8 8, x.extractLsb' 0 8]

/-- The bytes of a 24-bit field. -/
def bytes24 (x : BitVec 24) : List Byte := [x.extractLsb' 16 8, x.extractLsb' 8 8, x.extractLsb' 0 8]

/-- The bytes of a 32-bit field. -/
def bytes32 (x : BitVec 32) : List Byte :=
  [x.extractLsb' 24 8, x.extractLsb' 16 8, x.extractLsb' 8 8, x.extractLsb' 0 8]

/-- The six bytes of a step (R174). -/
def bytesStep (r : RawStep) : List Byte := r.head :: (bytes32 r.param ++ [r.next])

/-- The 24 bytes of the four step places. -/
def bytesSteps (v : Vector RawStep 4) : List Byte :=
  bytesStep v[0] ++ bytesStep v[1] ++ bytesStep v[2] ++ bytesStep v[3]

/-- The bytes of a section from byte 2 of its frame. -/
def bytesSection : MetroSection → List Byte
  | .meterHead m nf count => [0, m] ++ bytes16 nf ++ bytes32 count
  | .meterPoint m i rate mf => [1, m] ++ bytes32 i ++ bytes16 rate ++ bytes24 mf
  | .alpha c a => [2, c] ++ bytes16 a
  | .tcal i g o => [3, i] ++ bytes16 g ++ bytes16 o
  | .issuedCrc c => 4 :: bytes16 c
  | .unknown code => [code]

/-- A frame of the given first bytes, its unused bytes 0. -/
def frameOf (l : List Byte) : List Byte := l ++ List.replicate (32 - l.length) 0

/-- A frame of the given first bytes with a page number in byte 31 (R173). -/
def frameOfPage (l : List Byte) (page : Byte) : List Byte :=
  l ++ List.replicate (31 - l.length) 0 ++ [page]

/-- The 32-byte frame of a command of the port; an event and a cut-short exchange have none. -/
def encodeFrame : Instr → Option (List Byte)
  | .nop tag => some (frameOf [0x00, tag])
  | .unknownCommand code tag => some (frameOf [code, tag])
  | .setConfig tag item element value => some (frameOf ([0x01, tag, item, element] ++ bytes32 value))
  | .loadProfile tag profile count flag steps =>
    some (frameOf ([0x02, tag, profile, count, flag] ++ bytesSteps steps))
  | .loadProfileContinuation tag profile count steps =>
    some (frameOf ([0x02, tag, profile, count, 1] ++ bytesSteps steps))
  | .loadMetrology tag sect => some (frameOf ([0x03, tag] ++ bytesSection sect))
  | .sealPart tag => some (frameOf [0x04, tag])
  | .restart tag => some (frameOf [0x05, tag])
  | .putMachine tag ring number costCentre permitted state allowance cap =>
    some (frameOf ([0x10, tag] ++ bytes24 ring ++ bytes16 number ++ [costCentre] ++ bytes32 permitted ++
      [state] ++ bytes16 allowance ++ bytes16 cap))
  | .barMachine tag selector key => some (frameOf ([0x11, tag, selector] ++ bytes24 key))
  | .unbarMachine tag selector key => some (frameOf ([0x12, tag, selector] ++ bytes24 key))
  | .removeMachine tag selector key => some (frameOf ([0x13, tag, selector] ++ bytes24 key))
  | .getMachine tag selector key station page =>
    some (frameOfPage ([0x14, tag, selector] ++ bytes24 key ++ [station]) page)
  | .setDay tag day => some (frameOf ([0x15, tag] ++ bytes16 day))
  | .authorise tag hose preset number =>
    some (frameOf ([0x20, tag, hose] ++ bytes32 preset ++ bytes16 number))
  | .stop tag hose => some (frameOf [0x21, tag, hose])
  | .setPreset tag hose preset => some (frameOf ([0x22, tag, hose] ++ bytes32 preset))
  | .getHose tag hose page => some (frameOfPage [0x23, tag, hose] page)
  | .estopClear tag => some (frameOf [0x24, tag])
  | .readRecord tag k part drain => some (frameOf ([0x30, tag] ++ bytes32 k ++ [part, drain]))
  | .readRecordDrain tag k part => some (frameOf ([0x30, tag] ++ bytes32 k ++ [part, 1]))
  | .release tag n => some (frameOf ([0x31, tag] ++ bytes32 n))
  | .setStock tag comp book => some (frameOf ([0x40, tag, comp] ++ bytes32 book))
  | .receiptBegin tag comp => some (frameOf [0x41, tag, comp])
  | .receiptEnd tag => some (frameOf [0x42, tag])
  | .setParked tag value => some (frameOf [0x43, tag, value])
  | .getStock tag page => some (frameOfPage [0x44, tag] page)
  | .getLink tag station page => some (frameOfPage [0x50, tag, station] page)
  | .readEvent tag => some (frameOf [0x60, tag])
  | .setEventMask tag mask => some (frameOf ([0x61, tag] ++ bytes24 mask))
  | .exchangeCutShort .. | .powerUp | .resetnAssertion | .seatEvent .. | .unseatEvent ..
  | .deadmanHeld .. | .deadmanRelease .. | .estopAssertion | .estopRelease | .pfltAssertion ..
  | .pfltRelease .. | .periodExpiry .. | .padMeasurement .. | .armExpiry .. | .pauseExpiry ..
  | .windowExpiry .. | .spinUpExpiry .. | .runOnExpiry .. | .pwmPeriodStart .. | .analogSample ..
  | .reservationExpiry .. | .scrubExpiry | .goHoldExpiry | .yieldExpiry | .carrierEvent
  | .carrierRelease | .linkCharacter .. | .quietExpiry | .jamExpiry | .backoffExpiry
  | .endOfTransmission | .stalenessExpiry .. | .machineSweep | .stockSweep | .scanExpiry
  | .phaseLineObservation .. => none

end Sys2Proof
end

