-- ==== Sys2Proof/Machine/Sparse.lean ====
section
/-! DEFINITION. Sparse stores: lists of (key, value) with keys strictly rising. The machine table (R16),
the log's slots (R113) and the configuration items (R164) are held so. -/

namespace Sys2Proof.Machine

/-- What is listed under a key. -/
def Sparse.find? {α : Type} : List (Nat × α) → Nat → Option α
  | [], _ => none
  | (j, v) :: rest, k => if j = k then some v else Sparse.find? rest k

/-- The store with the key listed as `v`. -/
def Sparse.insert {α : Type} : List (Nat × α) → Nat → α → List (Nat × α)
  | [], k, v => [(k, v)]
  | (j, w) :: rest, k, v =>
    if k < j then (k, v) :: (j, w) :: rest
    else if k = j then (k, v) :: rest
    else (j, w) :: Sparse.insert rest k v

/-- The store with the key not listed. -/
def Sparse.erase {α : Type} : List (Nat × α) → Nat → List (Nat × α)
  | [], _ => []
  | (j, w) :: rest, k => if j = k then Sparse.erase rest k else (j, w) :: Sparse.erase rest k

/-- What a key reads as where an unlisted key `k` reads as `d k`. -/
def Sparse.getD {α : Type} (d : Nat → α) (m : List (Nat × α)) (k : Nat) : α :=
  (Sparse.find? m k).getD (d k)

/-- The store with key `k` reading as `v`, an unlisted key `k` reading as `d k`: the canonical form
lists no such value. -/
def Sparse.put {α : Type} [DecidableEq α] (d : Nat → α) (m : List (Nat × α)) (k : Nat) (v : α) :
    List (Nat × α) :=
  if v = d k then Sparse.erase m k else Sparse.insert m k v

/-- Every key of the store is above `k`. -/
def Sparse.above {α : Type} (k : Nat) (m : List (Nat × α)) : Bool := m.all fun p => decide (k < p.1)

/-- Keys strictly rise. -/
def Sparse.rising {α : Type} : List (Nat × α) → Bool
  | [] => true
  | p :: rest => Sparse.above p.1 rest && Sparse.rising rest

/-- The canonical form over the reading `d` of unlisted keys: keys strictly rise and no entry equals
what its key would read as unlisted. -/
def Sparse.wf {α : Type} [DecidableEq α] (d : Nat → α) (m : List (Nat × α)) : Bool :=
  Sparse.rising m && m.all fun p => decide (p.2 ≠ d p.1)

end Sys2Proof.Machine
end

