-- ==== Sys2Proof/Machine/Arith.lean ====
section
/-! DEFINITION. Exact arithmetic with its rounding and holding (00_scope.md, Arithmetic terms), byte
order, and the part's one CRC (R148). -/

namespace Sys2Proof.Machine

/-- Floor division by a positive divisor: rounds toward minus infinity. -/
def floorDiv (a b : Int) : Int := a / b

/-- The remainder of floor division by a positive divisor, in 0..b-1. -/
def floorRem (a b : Int) : Int := a % b

/-- trunc(a / b): rounds toward zero. -/
def truncDiv (a b : Int) : Int := a.tdiv b

/-- a / b to the nearest integer, a half away from zero, for positive b. -/
def roundAway (a b : Int) : Int :=
  if 0 ≤ a then (2 * a + b) / (2 * b) else -((2 * -a + b) / (2 * b))

/-- The value held within lo..hi. -/
def clampInt (lo hi x : Int) : Int := if x < lo then lo else if hi < x then hi else x

/-- The value held at `top`. -/
def hold (top x : Nat) : Nat := if top < x then top else x

/-- A counter moved on by 1, holding at 65,535 (counters of R86, R147). -/
def count16 (x : Nat) : Nat := hold 65535 (x + 1)

/-- `n` bytes of a natural number, most significant first; digits above are dropped. -/
def beBytes : Nat → Nat → List Byte
  | 0, _ => []
  | n + 1, v => BitVec.ofNat 8 (v / 256 ^ n) :: beBytes n v

/-- The number whose bytes these are, most significant first. -/
def ofBytes (l : List Byte) : Nat := l.foldl (fun acc b => acc * 256 + b.toNat) 0

/-- `n` bytes of an integer in two's complement, most significant first. -/
def beBytesInt (n : Nat) (v : Int) : List Byte := beBytes n (v % (256 ^ n : Nat)).toNat

/-- One byte that is 1 for true and 0 for false. -/
def boolByte (b : Bool) : Byte := if b then 1 else 0

/-- One bit through the check register: R148. -/
def crcBit (reg : Nat) (bit : Bool) : Nat :=
  let shifted := reg * 2 % 65536
  if reg.testBit 15 != bit then shifted ^^^ 0x1021 else shifted

/-- One byte through the check register, its most significant bit first (R148). -/
def crcByte (reg : Nat) (b : Byte) : Nat :=
  [7, 6, 5, 4, 3, 2, 1, 0].foldl (fun r i => crcBit r (b.toNat.testBit i)) reg

/-- The part's CRC-16 (R148): register all ones, no final inversion. -/
def crc16 (l : List Byte) : BitVec 16 := BitVec.ofNat 16 (l.foldl crcByte 0xFFFF)

/-- `floor((V' - V) × (x - h) / (h' - h))` toward zero, added to V: the interpolation of R94 and R132
between the points (h, V) and (h', V'). -/
def interpolate (h v h' v' x : Int) : Int := v + truncDiv ((v' - v) * (x - h)) (h' - h)

/-- The figure of a curve of points with rising abscissae at x, held at both ends (R94, R132). -/
def curveAt : List (Nat × Nat) → Nat → Int
  | [], _ => 0
  | [p], _ => p.2
  | p :: q :: rest, x =>
    if x ≤ p.1 then p.2
    else if x < q.1 then interpolate p.1 p.2 q.1 q.2 x
    else curveAt (q :: rest) x

end Sys2Proof.Machine
end

