-- ==== Sys2Proof/Machine/Types.lean ====
section
/-! DEFINITION. The pieces of the part's state, block by block (INVENTORY.md, State). Times are µs, ms or
seconds since the seal as each field says. -/

namespace Sys2Proof.Machine

/-! ## Configuration, profiles and metrology (11, 04 R62) -/

/-- Valve stage (R62; coded by position). -/
inductive Stage where
  | closed | slow | full
  deriving DecidableEq, Repr

/-- A step's condition with the parameters its kind uses (R62, R64). -/
inductive Condition where
  | deliveredAtLeast (v : Nat)
  | remainingAtMost (v : Nat)
  | elapsed (n : Nat)
  | stall (n r : Nat)
  | never
  deriving DecidableEq, Repr

/-- A profile step (R62); `next` none is END. -/
structure ProfileStep where
  stage : Stage
  cond : Condition
  next : Option Nat
  deriving DecidableEq, Repr

/-- The staged first half of a load of 5 to 8 steps (R174). -/
structure StagedLoad where
  profile : Nat
  count : Nat
  steps : List ProfileStep
  deriving DecidableEq, Repr

/-- The configuration block (R164): items by index, an unlisted one at its default, and the two
strapping tables of 16 points (mm, litres). -/
structure ConfigBlock where
  items : List (Nat × Int)
  strapCount : Vector Int 2
  strapPoints : Vector (Vector (Nat × Nat) 16) 2
  deriving DecidableEq, Repr

/-- One meter's calibration (R165): NF, point count, six points (rate, MF). -/
structure MeterCal where
  nf : Nat
  count : Nat
  points : Vector (Nat × Nat) 6
  deriving DecidableEq, Repr

/-- The metrology block (R165). -/
structure Metrology where
  meters : Vector MeterCal 5
  alpha : Vector (Option Nat) 2
  tcal : Vector (Option (Nat × Int)) 3
  issued : Option (BitVec 16)
  deriving DecidableEq, Repr

/-! ## Ring readers (01 R1) -/

inductive ReaderState where
  | stopped | waiting | refreshing | reading
  deriving DecidableEq, Repr

/-- Why a hose is UNIDENTIFIED (R35, in its order); the first four are the failures of a read. -/
inductive UnidReason where
  | noBaseline | weight | unreadable | symmetric | unknownMachine | barred | grade | stockUnset
  | logFull | noAllowance | stockShort
  deriving DecidableEq, Repr

/-- The outcome of a completed read (R11, R12). -/
inductive ReadResult where
  | ring (ring : BitVec 24) (orientation tries : Nat)
  | failed (reason : UnidReason) (tries : Nat)
  deriving DecidableEq, Repr

/-- A ring reader. `periodDue` and `slotDue` are µs. -/
structure Reader where
  state : ReaderState
  baseline : Vector (Option Nat) 24
  pad : Nat
  tryNo : Nat
  counts : List Nat
  last : Option ReadResult
  periodDue : Option Nat
  slotDue : Option Nat
  deriving DecidableEq, Repr

/-! ## Machine table (02 R16, R17) -/

inductive EntryState where
  | active | barred
  deriving DecidableEq, Repr

/-- A heard reservation (R16); `expiry` in seconds. -/
structure Heard where
  ml : Nat
  expiry : Nat
  deriving DecidableEq, Repr

/-- A machine entry (R16). Tallies and reservations by station. -/
structure Entry where
  ring : BitVec 24
  number : BitVec 16
  costCentre : Byte
  permitC0 : Bool
  permitC1 : Bool
  state : EntryState
  allowance : BitVec 16
  cap : BitVec 16
  tally : Vector Nat 16
  heard : Vector (Option Heard) 16
  crc : BitVec 16
  deriving DecidableEq, Repr

/-- The machine table: occupied slots, the current day and its CRC. -/
structure MachineTable where
  entries : List (Nat × Entry)
  day : BitVec 16
  dayCrc : BitVec 16
  deriving DecidableEq, Repr

/-! ## Hose channels (03 R35, R59; 04 R65; 07 R107) -/

inductive HoseState where
  | offline | idle | reading | identified | unidentified | armed | priming | flowing | paused
  | settling | finished
  deriving DecidableEq, Repr

inductive Method where
  | ring | keyed
  deriving DecidableEq, Repr

/-- The machine a hose serves (R35). -/
structure Ident where
  method : Method
  slot : Nat
  ring : BitVec 24
  number : BitVec 16
  costCentre : Byte
  deriving DecidableEq, Repr

/-- The accumulators of a delivery or receipt (R35, R107), with the saturated mark of each. -/
structure Accum where
  gross : Int
  gRem : Int
  net : Int
  nRem : Int
  sumGT : Int
  sumG : Int
  satGross : Bool
  satNet : Bool
  satGT : Bool
  satG : Bool
  deriving DecidableEq, Repr

/-- The sticky flags of a delivery or receipt (R35, R135). -/
structure DFlags where
  uncompensated : Bool
  tempHeld : Bool
  overspeed : Bool
  overflow : Bool
  deriving DecidableEq, Repr

/-- End causes, in the order of their codes 1..15 (R121). -/
inductive EndCause where
  | profileEnd | presetReached | hostStop | unseated | pauseTimeout | estop | pumpFault | meterFault
  | overspeed | overflow | metrology | profileLoop | interrupted | hostEnd | highLevel
  deriving DecidableEq, Repr

/-- The step state of a hose (R65). -/
structure StepState where
  index : Nat
  stage : Stage
  handed : Stage
  elapsed : Nat
  stall : Nat
  deriving DecidableEq, Repr

/-- The retained journal of a hose (R59), as its bytes; `lost` is the mark JOURNAL_LOST (R60). End
cause 0 stands for absent. -/
structure Journal where
  hose : Byte
  comp : Byte
  method : Byte
  ring : BitVec 24
  number : BitVec 16
  costCentre : Byte
  preset : BitVec 32
  gross : BitVec 48
  gRem : Byte
  net : BitVec 48
  nRem : BitVec 24
  sumGT : BitVec 80
  sumG : BitVec 64
  flags : BitVec 16
  phaseErrors : BitVec 16
  endCause : Byte
  crc : BitVec 16
  lost : Bool
  deriving DecidableEq, Repr

/-- A hose channel. `armExpiry` and `pauseExpiry` are seconds. `settleFresh`: SETTLING was entered
during the window in flight, before its expiry time (R52; log entry 8). -/
structure Hose where
  state : HoseState
  reason : Option UnidReason
  ident : Option Ident
  lookupLimit : Option Nat
  preset : Option Nat
  pendingPreset : Option Nat
  acc : Option Accum
  flags : DFlags
  phaseErrors : Nat
  endCause : Option EndCause
  beenFlowing : Bool
  settleCount : Nat
  quietRun : Nat
  settleFresh : Bool
  armExpiry : Option Nat
  pauseExpiry : Option Nat
  step : Option StepState
  journal : Option Journal
  deriving DecidableEq, Repr

/-! ## Pump drives (05 R75) -/

inductive PumpState where
  | off | starting | running | runOn | fault
  deriving DecidableEq, Repr

inductive Demand where
  | full | slow | idle
  deriving DecidableEq, Repr

/-- A pump drive. `spinUp` is ms, `runOn` seconds, `duty`, `pwmStart` and `pwmDue` µs. -/
structure Pump where
  state : PumpState
  claims : Vector Bool 4
  grants : Vector Bool 4
  queue : List HoseId
  spinUp : Option Nat
  runOn : Option Nat
  demand : Option Demand
  duty : Nat
  pwmStart : Nat
  pwmDue : Option Nat
  deriving DecidableEq, Repr

/-! ## Meter channels (06 R86, R96, R99) and the analog sampler (07 R100) -/

inductive Attachment where
  | stray | delivery | receipt
  deriving DecidableEq, Repr

/-- A stray accumulator; MR uses only the episode and the quiet run (R99). -/
structure StrayAcc where
  gRem : Int
  nRem : Int
  residue : Int
  episode : Bool
  quiet : Nat
  deriving DecidableEq, Repr

/-- A meter channel. `due` and `obsDue` are µs. -/
structure Meter where
  levels : Option (Bool × Bool)
  count : Int
  sat : Bool
  phaseErr : Nat
  due : Option Nat
  obsDue : Option Nat
  attach : Attachment
  lastRate : Nat
  stray : StrayAcc
  deriving DecidableEq, Repr

/-- One input's pair of blocks (R100). -/
structure SamplerInput where
  first : List Nat
  second : List Nat
  fillSecond : Bool
  value : Option Nat
  deriving DecidableEq, Repr

/-- A temperature with its status (R100): absent exactly while NONE. -/
inductive Temperature where
  | none
  | good (t : Int)
  | held (t : Int)
  deriving DecidableEq, Repr

/-- The analog sampler; inputs in the order L0, L1, T0, T1, TR, temperatures T0, T1, TR. -/
structure Sampler where
  pos : Fin 5
  inputs : Vector SamplerInput 5
  temps : Vector Temperature 3
  due : Option Nat
  deriving DecidableEq, Repr

/-! ## Delivery log (08 R113) -/

/-- A slot of the ring: marker and contents. -/
structure LogSlot where
  stored : Bool
  bytes : List Byte
  deriving DecidableEq, Repr

/-- The delivery log. Reservations of H0..H3 and the receipt; `corrupt` in rising order. -/
structure Log where
  slots : List (Nat × LogSlot)
  oldest : Nat
  count : Nat
  indexCrc : BitVec 16
  seq : BitVec 32
  seqCrc : BitVec 16
  reserved : Vector Bool 5
  corrupt : List Nat
  drain : Option (Nat × BitVec 32)
  scrub : Option Nat
  scrubDue : Option Nat
  deriving DecidableEq, Repr

/-! ## Stock keeper (09 R127, R135, R137) -/

/-- A compartment's book (R127); `isSet` is the marker SET. -/
structure Book where
  value : Int
  isSet : Bool
  crc : BitVec 16
  deriving DecidableEq, Repr

/-- A gauge reading (R131). -/
structure Level where
  mm : Int
  gauge : Int
  deriving DecidableEq, Repr

/-- The last reconciliation of a compartment (R133). -/
structure Variance where
  value : Option Int
  outside : Bool
  deriving DecidableEq, Repr

inductive Permit where
  | raised | dropped | ended
  deriving DecidableEq, Repr

/-- An OPEN or ENDING receipt session (R135). -/
structure Session where
  ending : Bool
  comp : CompId
  acc : Accum
  flags : DFlags
  phaseErrors : Nat
  permit : Permit
  deriving DecidableEq, Repr

/-- The retained receipt journal (R137), as its bytes. -/
structure ReceiptJournal where
  comp : Byte
  gross : BitVec 48
  gRem : Byte
  net : BitVec 48
  nRem : BitVec 24
  sumGT : BitVec 80
  sumG : BitVec 64
  flags : BitVec 16
  phaseErrors : BitVec 16
  permit : Byte
  crc : BitVec 16
  lost : Bool
  deriving DecidableEq, Repr

inductive RestockState where
  | normal | want | go | receiving
  deriving DecidableEq, Repr

/-- The stock keeper. `goHold` and `yieldUntil` are seconds; the yield flag is set while `yieldUntil`
is present. -/
structure Stock where
  books : Vector Book 2
  parked : Bool
  history : Vector (List Nat) 2
  levels : Vector (Option Level) 2
  variance : Vector Variance 2
  session : Option Session
  rjournal : Option ReceiptJournal
  restock : RestockState
  goHold : Option Nat
  yieldUntil : Option Nat
  deriving DecidableEq, Repr

/-! ## Site link (10 R147, R158) -/

inductive LinkState where
  | unknown | idle | busy | jammed | sending
  deriving DecidableEq, Repr

/-- An entry of the transmit queue (R147). -/
inductive Subject where
  | machine (ring : BitVec 24)
  | stock
  deriving DecidableEq, Repr

/-- What a STOCK notice left in a peer slot (R158). -/
structure PeerStock where
  state : RestockState
  yielding : Bool
  key : Nat
  book0 : BitVec 16
  book1 : BitVec 16
  deriving DecidableEq, Repr

/-- A FRESH peer slot (R158); `heardAt` and `stale` in seconds. -/
structure Peer where
  lastSeq : BitVec 16
  heardAt : Nat
  stale : Nat
  stock : Option PeerStock
  deriving DecidableEq, Repr

/-- A frame in reception (R155): the first 22 characters and the byte count. -/
structure RxFrame where
  kept : List Byte
  count : Nat
  deriving DecidableEq, Repr

/-- A frame in transmission (R153); `due` is µs. -/
structure TxFrame where
  bytes : List Byte
  due : Nat
  deriving DecidableEq, Repr

/-- The site link. `quiet`, `jam` and `backoff` are ms, `sweepDue` and `stockDue` µs; an absent peer
slot is ABSENT. -/
structure Link where
  state : LinkState
  quiet : Option Nat
  jam : Option Nat
  queue : List Subject
  backoff : Option Nat
  deferrals : Nat
  gen : Option (BitVec 16)
  noticeSeq : BitVec 16
  noticeCrc : BitVec 16
  clash : Bool
  peers : Vector (Option Peer) 16
  rx : Option RxFrame
  tx : Option TxFrame
  sweepPos : Nat
  sweepDue : Option Nat
  stockDue : Option Nat
  rxErrors : Nat
  rxRejects : Nat
  seqDiscards : Nat
  deriving DecidableEq, Repr

/-! ## Command port (12 R169, R175) -/

/-- Event kinds, in the order of their codes 1..18 (12.3). -/
inductive EventKind where
  | hoseIdentified | hoseUnidentified | armExpired | deliveryClosed | strayFlow | receiptStray
  | estop | pumpFault | metrologyFault | recordCorrupt | variance | highLevel | restockState
  | linkJammed | linkDrop | stationClash | retainedLoss | receiptClosed
  deriving DecidableEq, Repr

/-- Subject classes with their numbers (12.3). -/
inductive EventSubject where
  | none
  | part
  | hose (n : HoseId)
  | comp (k : CompId)
  | station (number : Nat)
  | record (seq : BitVec 32)
  | retained (item : Nat)
  deriving DecidableEq, Repr

/-- A queued event (R175); `postedAt` is the seconds count at its posting. -/
structure Event where
  kind : EventKind
  subject : EventSubject
  value : Int
  postedAt : Nat
  deriving DecidableEq, Repr

/-- The command port: held reply, the bytes last shifted out, event queue, mask, OVERFLOWED. -/
structure Port where
  held : List Byte
  shiftedOut : List Byte
  events : List Event
  mask : BitVec 24
  overflowed : Bool
  deriving DecidableEq, Repr

/-! ## The part -/

/-- The levels of the input lines (00_scope.md, Signal summary); true is asserted or high. -/
structure Pins where
  seat : Vector Bool 4
  dman : Vector Bool 4
  estop : Bool
  pflt : Vector Bool 2
  lcd : Bool
  phase : Vector (Bool × Bool) 5
  deriving DecidableEq, Repr

/-- An entry of the pending loss list (R163): the item's order 1..8 and the loss value. -/
structure Loss where
  item : Nat
  value : Nat
  deriving DecidableEq, Repr

end Sys2Proof.Machine
end

