-- ==== Sys2Proof/Machine/Initial.lean ====
section
/-! DEFINITION. The value each block's volatile state takes at a restart, and the start-up reply. -/

namespace Sys2Proof.Machine

/-- A slot never written (R113): EMPTY; contents of zeros (DESIGN CHOICE, log entry 5; nearly
unobservable). -/
def LogSlot.blank : LogSlot := { stored := false, bytes := List.replicate 48 0 }

/-- No flag set. -/
def DFlags.clear : DFlags :=
  { uncompensated := false, tempHeld := false, overspeed := false, overflow := false }

/-- Accumulators of zero (R41, R136). -/
def Accum.zero : Accum :=
  { gross := 0, gRem := 0, net := 0, nRem := 0, sumGT := 0, sumG := 0,
    satGross := false, satNet := false, satGT := false, satG := false }

/-- A reader after restart (R1). -/
def Reader.restarted : Reader :=
  { state := .stopped, baseline := Vector.replicate 24 none, pad := 0, tryNo := 0, counts := [],
    last := none, periodDue := none, slotDue := none }

/-- A hose in the given state with no context (R35), its journal as given. -/
def Hose.bare (st : HoseState) (j : Option Journal) : Hose :=
  { state := st, reason := none, ident := none, lookupLimit := none, preset := none,
    pendingPreset := none, acc := none, flags := DFlags.clear, phaseErrors := 0, endCause := none,
    beenFlowing := false, settleCount := 0, quietRun := 0, settleFresh := false, armExpiry := none,
    pauseExpiry := none, step := none, journal := j }

/-- A pump after restart (R75). -/
def Pump.restarted : Pump :=
  { state := .off, claims := Vector.replicate 4 false, grants := Vector.replicate 4 false,
    queue := [], spinUp := none, runOn := none, demand := none, duty := 0, pwmStart := 0,
    pwmDue := none }

/-- A stray accumulator at zero with no episode (R96, R99). -/
def StrayAcc.zero : StrayAcc := { gRem := 0, nRem := 0, residue := 0, episode := false, quiet := 0 }

/-- A meter channel after restart (R86). -/
def Meter.restarted : Meter :=
  { levels := none, count := 0, sat := false, phaseErr := 0, due := none, obsDue := none,
    attach := .stray, lastRate := 0, stray := StrayAcc.zero }

/-- The sampler after restart (R100). -/
def Sampler.restarted : Sampler :=
  { pos := 0, inputs := Vector.replicate 5 { first := [], second := [], fillSecond := false, value := none },
    temps := Vector.replicate 3 .none, due := none }

/-- The configuration block after restart: every item at its default, the strapping tables without
points (R162). -/
def ConfigBlock.restarted : ConfigBlock :=
  { items := [], strapCount := Vector.replicate 2 0,
    strapPoints := Vector.replicate 2 (Vector.replicate 16 (0, 0)) }

/-- The metrology block after restart (R165). -/
def Metrology.restarted : Metrology :=
  { meters := Vector.replicate 5 { nf := 0, count := 0, points := Vector.replicate 6 (0, 0) },
    alpha := Vector.replicate 2 none, tcal := Vector.replicate 3 none, issued := none }

/-- The start-up reply (R170): NOP code, tag 0, OK, the cause, the number of pending losses. R170 gives bytes
0 to 5 alone; 0 in bytes 6 to 31 is the model's choice (log entry 47). -/
def startupReply (cause : Byte) (losses : Nat) : List Byte :=
  [0, 0, 0, cause] ++ beBytes 2 losses ++ List.replicate 26 0

/-- The bytes a book's CRC covers (R127): compartment number, marker (SET 0, UNSET 1, coded by R172),
value. -/
def bookBytes (k : Nat) (isSet : Bool) (value : Int) : List Byte :=
  [BitVec.ofNat 8 k, if isSet then 0 else 1] ++ beBytesInt 4 value

/-- The bytes the log index's CRC covers (log entry 15): oldest slot, stored count. -/
def indexBytes (oldest count : Nat) : List Byte := beBytes 2 oldest ++ beBytes 2 count

end Sys2Proof.Machine
end

