-- ==== Sys2Proof/Machine/State.lean ====
section
/-! DEFINITION. The state of the part, the reasons a step could stop, and the machine right after its
first power-up. -/

namespace Sys2Proof.Machine

/-- The state of the part. `now` and `scanDue` are µs since the seal; `free` is the model's counter of
free values; `pending` the commands and events waiting, the next first. -/
structure State where
  pins : Pins
  isSealed : Bool
  now : Nat
  estopLatch : Bool
  metroFault : Bool
  scanDue : Option Nat
  config : ConfigBlock
  profiles : Vector (List ProfileStep) 8
  staged : Option StagedLoad
  metro : Metrology
  readers : Vector Reader 4
  table : MachineTable
  hoses : Vector Hose 4
  pumps : Vector Pump 2
  meters : Vector Meter 5
  sampler : Sampler
  log : Log
  stock : Stock
  link : Link
  port : Port
  losses : List Loss
  free : Nat
  pending : List Instr
  deriving DecidableEq, Repr

/-- No command or event stops the part: a refused command is answered with a status (R171). -/
inductive Fault where
  deriving DecidableEq, Repr

/-- Why a command has no meaning here. -/
inductive Refusal where
  /-- Raised by exec's arm of a command that has no meaning in the model yet; no arm raises it. Safe: the
  model stops where the hardware goes on. -/
  | notModelled (mnemonic : String)
  deriving DecidableEq, Repr

/-- The machine right after reset: the part that has never been written (R17, R113, R127), after its
first power-up (R162, R170). Pins released (DESIGN CHOICE, log entry 4), notice counter 0 (DESIGN
CHOICE, log entry 6). -/
def State.reset : State :=
  { pins :=
      { seat := Vector.replicate 4 false, dman := Vector.replicate 4 false, estop := false,
        pflt := Vector.replicate 2 false, lcd := false, phase := Vector.replicate 5 (false, false) },
    isSealed := false, now := 0, estopLatch := false, metroFault := false, scanDue := none,
    config := ConfigBlock.restarted, profiles := Vector.replicate 8 [], staged := none,
    metro := Metrology.restarted, readers := Vector.replicate 4 Reader.restarted,
    table := { entries := [], day := 0, dayCrc := crc16 (beBytes 2 0) },
    hoses := Vector.replicate 4 (Hose.bare .offline none),
    pumps := Vector.replicate 2 Pump.restarted, meters := Vector.replicate 5 Meter.restarted,
    sampler := Sampler.restarted,
    log :=
      { slots := [], oldest := 0, count := 0, indexCrc := crc16 (indexBytes 0 0),
        seq := 1, seqCrc := crc16 (beBytes 4 1), reserved := Vector.replicate 5 false, corrupt := [],
        drain := none, scrub := none, scrubDue := none },
    stock :=
      { books := #v[{ value := 0, isSet := false, crc := crc16 (bookBytes 0 false 0) },
                    { value := 0, isSet := false, crc := crc16 (bookBytes 1 false 0) }],
        parked := false, history := Vector.replicate 2 [], levels := Vector.replicate 2 none,
        variance := Vector.replicate 2 { value := none, outside := false }, session := none,
        rjournal := none, restock := .normal, goHold := none, yieldUntil := none },
    link :=
      { state := .unknown, quiet := none, jam := none, queue := [], backoff := none, deferrals := 0,
        gen := none, noticeSeq := 0, noticeCrc := crc16 (beBytes 2 0), clash := false,
        peers := Vector.replicate 16 none, rx := none, tx := none, sweepPos := 0, sweepDue := none,
        stockDue := none, rxErrors := 0, rxRejects := 0, seqDiscards := 0 },
    port :=
      { held := startupReply 0 0, shiftedOut := [], events := [], mask := 0, overflowed := false },
    losses := [], free := 0, pending := [] }

end Sys2Proof.Machine
end

