-- ==== Sys2Proof/Machine/Items.lean ====
section
/-! DEFINITION. The configuration items by index with their defaults and ranges (11.3, R164, R166), and
the names under which the chapters use them. -/

namespace Sys2Proof.Machine

/-- The default of an item 1..117 (11.3). -/
def itemDefault (i : Nat) : Int :=
  match i with
  | 5 => 50 | 6 => 2000 | 7 => 20 | 8 => 1042 | 9 => 20 | 10 => 60 | 11 => 120 | 12 => 60
  | 13 => 1000 | 15 => 200 | 16 => 288 | 17 => 320 | 18 => 3 | 21 => 1 | 22 => 1 | 27 => 120
  | 28 => 180 | 29 => 4 | 30 => 20 | 31 => 1 | 32 => 1 | 33 => 1500 | 34 => 15 | 35 => 1000
  | 36 => 150 | 37 => 450 | 38 => 1000 | 105 => 10000 | 106 => 10000 | 107 => 200 | 108 => 200
  | 109 => 3000 | 110 => 3000 | 111 => 980 | 112 => 100 | 113 => 3600 | 116 => 4096 | 117 => 4096
  | _ => 0

/-- The range of a single-valued item (11.3): least and greatest value, both allowed. -/
def itemRange (i : Nat) : Int × Int :=
  match i with
  | 1 => (1, 16) | 2 => (0, 65535) | 3 => (0, 65535) | 4 => (0, 2) | 5 => (10, 1000)
  | 6 => (500, 10000) | 7 => (2, 200) | 8 => (100, 10000) | 9 => (5, 300) | 10 => (10, 600)
  | 11 => (10, 600) | 12 => (10, 1200) | 13 => (100, 100000) | 14 => (0, 1) | 15 => (1, 65535)
  | 16 => (257, 1022) | 17 => (258, 1023) | 18 => (1, 5)
  | 19 => (0, 1) | 20 => (0, 1) | 21 => (0, 1) | 22 => (0, 1)
  | 23 => (0, 7) | 24 => (0, 7) | 25 => (0, 7) | 26 => (0, 7)
  | 27 => (10, 600) | 28 => (5, 900) | 29 => (2, 16) | 30 => (4, 80) | 31 => (1, 4) | 32 => (1, 4)
  | 33 => (100, 10000) | 34 => (0, 120) | 35 => (50, 20000) | 36 => (0, 1000) | 37 => (0, 1000)
  | 38 => (0, 1000) | 39 => (0, 1000000) | 40 => (0, 1000000)
  | 105 => (1, 65535) | 106 => (1, 65535) | 107 => (0, 65535) | 108 => (0, 65535)
  | 109 => (0, 65535) | 110 => (0, 65535) | 111 => (500, 1000) | 112 => (1, 65535)
  | 113 => (300, 14400) | 114 => (0, 4095) | 115 => (0, 4095) | 116 => (1, 65535)
  | 117 => (1, 65535)
  | _ => (-500, 500)

/-- The value an item holds (R164). -/
def State.item (s : State) (i : Nat) : Int := Sparse.getD itemDefault s.config.items i

/-- An item whose sealed value is not negative, as a natural number. -/
def State.itemNat (s : State) (i : Nat) : Nat := (s.item i).toNat

/-- The relation of an item to one of lower index, tested at the higher (11.3). -/
def State.itemRelation (s : State) (i : Nat) : Bool :=
  match i with
  | 12 => decide (2 * s.item 9 ≤ s.item 12)
  | 17 => decide (s.item 16 < s.item 17)
  | 30 => decide (s.item 29 ≤ s.item 30)
  | 37 => decide (s.item 36 ≤ s.item 37)
  | 38 => decide (s.item 37 ≤ s.item 38)
  | 107 => decide (s.item 107 < s.item 105)
  | 108 => decide (s.item 108 < s.item 106)
  | 109 => decide (s.item 109 ≤ s.item 105)
  | 110 => decide (s.item 110 ≤ s.item 106)
  | _ => true

/-! ## The items by name -/

/-- STATION, the own station's number. -/
def State.station (s : State) : Nat := s.itemNat 1
/-- The index of the own station. -/
def State.ownIndex (s : State) : StationId := Fin.ofNat 16 (s.station - 1)
def State.site (s : State) : Nat := s.itemNat 2
def State.site2 (s : State) : Nat := s.itemNat 3
def State.siteMode (s : State) : Nat := s.itemNat 4
def State.linkQuiet (s : State) : Nat := s.itemNat 5
def State.linkJam (s : State) : Nat := s.itemNat 6
def State.linkSlot (s : State) : Nat := s.itemNat 7
def State.linkByte (s : State) : Nat := s.itemNat 8
def State.sweepPeriod (s : State) : Nat := s.itemNat 9
def State.stockPeriod (s : State) : Nat := s.itemNat 10
def State.peerStale (s : State) : Nat := s.itemNat 11
def State.resTtl (s : State) : Nat := s.itemNat 12
def State.minPreset (s : State) : Nat := s.itemNat 13
def State.keyedAllowed (s : State) : Bool := s.item 14 == 1
def State.keyedCap (s : State) : Nat := s.itemNat 15
def State.tLo (s : State) : Nat := s.itemNat 16
def State.tHi (s : State) : Nat := s.itemNat 17
def State.readTries (s : State) : Nat := s.itemNat 18
/-- HOSE_COMPARTMENT: C1 for the value 1, else C0 (a sealed value is 0 or 1). -/
def State.hoseComp (s : State) (n : HoseId) : CompId := if s.item (19 + n.val) = 1 then 1 else 0
def State.hoseProfile (s : State) (n : HoseId) : Nat := s.itemNat (23 + n.val)
def State.armTtl (s : State) : Nat := s.itemNat 27
def State.pauseMax (s : State) : Nat := s.itemNat 28
def State.settleQuiet (s : State) : Nat := s.itemNat 29
def State.settleMax (s : State) : Nat := s.itemNat 30
def State.maxFull (s : State) (k : CompId) : Nat := s.itemNat (31 + k.val)
def State.pumpSpinup (s : State) : Nat := s.itemNat 33
def State.pumpRunon (s : State) : Nat := s.itemNat 34
def State.pwmPeriod (s : State) : Nat := s.itemNat 35
def State.demandIdle (s : State) : Nat := s.itemNat 36
def State.demandSlow (s : State) : Nat := s.itemNat 37
def State.demandFull (s : State) : Nat := s.itemNat 38
def State.rate (s : State) (k : CompId) : Int := s.item (39 + k.val)
/-- SUR of a cost centre. -/
def State.surcharge (s : State) (costCentre : Byte) : Int := s.item (41 + costCentre.toNat)
def State.capacity (s : State) (k : CompId) : Int := s.item (105 + k.val)
def State.heel (s : State) (k : CompId) : Int := s.item (107 + k.val)
def State.reorder (s : State) (k : CompId) : Int := s.item (109 + k.val)
def State.highFill (s : State) : Int := s.item 111
def State.varianceTol (s : State) : Int := s.item 112
def State.goHoldTime (s : State) : Nat := s.itemNat 113
def State.zero (s : State) (k : CompId) : Int := s.item (114 + k.val)
def State.span (s : State) (k : CompId) : Int := s.item (116 + k.val)

/-- The points of a compartment's strapping table in use: the first n (R164). -/
def State.strapping (s : State) (k : CompId) : List (Nat × Nat) :=
  s.config.strapPoints[k].toList.take (s.config.strapCount[k]).toNat

/-- The points of a meter's curve in use (R94, R165). -/
def MeterCal.curve (m : MeterCal) : List (Nat × Nat) := m.points.toList.take m.count

/-- The profile a hose uses (R62). -/
def State.profileOf (s : State) (n : HoseId) : List ProfileStep :=
  s.profiles.toList.getD (s.hoseProfile n) []

end Sys2Proof.Machine
end

