-- ==== Sys2Proof/Machine/Operands.lean ====
section
/-! DEFINITION. The operands of commands and the fields of replies: parameter checks, codes of
enumerated values, reply packing and the exchange (R169 to R173). -/

namespace Sys2Proof.Machine

/-! ## Parameters -/

/-- A hose number 0..3. -/
def hoseOf (b : Byte) : Option HoseId := if h : b.toNat < 4 then some ⟨b.toNat, h⟩ else none

/-- A compartment 0, 1. -/
def compOf (b : Byte) : Option CompId := if h : b.toNat < 2 then some ⟨b.toNat, h⟩ else none

/-- The compartment a journal's byte names: C1 for 1, else C0. -/
def compOfByte (b : Byte) : CompId := if b = 1 then 1 else 0

/-- How a selector-keyed command names an entry (GET_MACHINE's table, coded by position). -/
inductive Key where
  | byRing (ring : BitVec 24)
  | byNumber (number : BitVec 16)
  | bySlot (slot : Nat)
  deriving DecidableEq, Repr

/-- Selector and key, checked: by ring ID, by machine number 1..65535, or by slot search 0..255 (R18,
R23; a key out of its range fails the parameter checks, log entry 21). -/
def keyOf (selector : Byte) (key : BitVec 24) : Option Key :=
  match selector.toNat with
  | 0 => some (.byRing key)
  | 1 => if 1 ≤ key.toNat ∧ key.toNat ≤ 65535 then some (.byNumber (key.setWidth 16)) else none
  | 2 => if key.toNat ≤ 255 then some (.bySlot key.toNat) else none
  | _ => none

/-- Selector and key of BAR_MACHINE, UNBAR_MACHINE and REMOVE_MACHINE: no slot search (R18). -/
def entryKeyOf (selector : Byte) (key : BitVec 24) : Option Key :=
  if selector = 2 then none else keyOf selector key

/-! ## Codes of enumerated values (R172): the position in the list where the owning rule gives them -/

def Stage.code : Stage → Nat
  | .closed => 0 | .slow => 1 | .full => 2

def UnidReason.code : UnidReason → Nat
  | .noBaseline => 0 | .weight => 1 | .unreadable => 2 | .symmetric => 3 | .unknownMachine => 4
  | .barred => 5 | .grade => 6 | .stockUnset => 7 | .logFull => 8 | .noAllowance => 9
  | .stockShort => 10

def EntryState.code : EntryState → Nat
  | .active => 0 | .barred => 1

def HoseState.code : HoseState → Nat
  | .offline => 0 | .idle => 1 | .reading => 2 | .identified => 3 | .unidentified => 4 | .armed => 5
  | .priming => 6 | .flowing => 7 | .paused => 8 | .settling => 9 | .finished => 10

def Method.code : Method → Nat
  | .ring => 0 | .keyed => 1

/-- End causes use the codes of R121. -/
def EndCause.code : EndCause → Nat
  | .profileEnd => 1 | .presetReached => 2 | .hostStop => 3 | .unseated => 4 | .pauseTimeout => 5
  | .estop => 6 | .pumpFault => 7 | .meterFault => 8 | .overspeed => 9 | .overflow => 10
  | .metrology => 11 | .profileLoop => 12 | .interrupted => 13 | .hostEnd => 14 | .highLevel => 15

def PumpState.code : PumpState → Nat
  | .off => 0 | .starting => 1 | .running => 2 | .runOn => 3 | .fault => 4

/-- The temperature statuses NONE, GOOD, HELD (R100). -/
def Temperature.statusCode : Temperature → Nat
  | .none => 0 | .good _ => 1 | .held _ => 2

def Permit.code : Permit → Nat
  | .raised => 0 | .dropped => 1 | .ended => 2

/-- Restock states use the codes of R154. -/
def RestockState.code : RestockState → Nat
  | .normal => 0 | .want => 1 | .go => 2 | .receiving => 3

def RestockState.ofCode (c : Nat) : RestockState :=
  match c with
  | 0 => .normal
  | 1 => .want
  | 2 => .go
  | _ => .receiving

def LinkState.code : LinkState → Nat
  | .unknown => 0 | .idle => 1 | .busy => 2 | .jammed => 3 | .sending => 4

/-- Event kinds 1..18 (12.3). -/
def EventKind.code : EventKind → Nat
  | .hoseIdentified => 1 | .hoseUnidentified => 2 | .armExpired => 3 | .deliveryClosed => 4
  | .strayFlow => 5 | .receiptStray => 6 | .estop => 7 | .pumpFault => 8 | .metrologyFault => 9
  | .recordCorrupt => 10 | .variance => 11 | .highLevel => 12 | .restockState => 13
  | .linkJammed => 14 | .linkDrop => 15 | .stationClash => 16 | .retainedLoss => 17
  | .receiptClosed => 18

/-- Subject classes (12.3). -/
def EventSubject.classCode : EventSubject → Nat
  | .none => 0 | .part => 1 | .hose _ => 2 | .comp _ => 3 | .station _ => 4 | .record _ => 5
  | .retained _ => 6

/-- Subject numbers (12.3). -/
def EventSubject.number : EventSubject → Nat
  | .none => 0 | .part => 0 | .hose n => n.val | .comp k => k.val | .station n => n
  | .record q => q.toNat | .retained i => i

/-- Status codes (R171). -/
inductive Status where
  | ok | badCommand | badParam | notSealed | sealed | wrongState | notFound | duplicate | tableFull
  | inUse | logFull | noAllowance | stockShort | stockUnset | barred | grade | keyedOff | estop
  | pumpFault | metroFault | empty | badConfig | metroMismatch
  deriving DecidableEq, Repr

def Status.code : Status → Nat
  | .ok => 0 | .badCommand => 1 | .badParam => 2 | .notSealed => 3 | .sealed => 4 | .wrongState => 5
  | .notFound => 6 | .duplicate => 7 | .tableFull => 8 | .inUse => 9 | .logFull => 10
  | .noAllowance => 11 | .stockShort => 12 | .stockUnset => 13 | .barred => 14 | .grade => 15
  | .keyedOff => 16 | .estop => 17 | .pumpFault => 18 | .metroFault => 19 | .empty => 20
  | .badConfig => 21 | .metroMismatch => 22

/-- The status named alike an unidentified reason (R27, R30); a reason of the read has none and stands
as NOT_FOUND beside UNKNOWN_MACHINE. -/
def UnidReason.status : UnidReason → Status
  | .barred => .barred | .grade => .grade | .stockUnset => .stockUnset | .logFull => .logFull
  | .noAllowance => .noAllowance | .stockShort => .stockShort
  | .noBaseline => .notFound | .weight => .notFound | .unreadable => .notFound
  | .symmetric => .notFound | .unknownMachine => .notFound

/-! ## Reply fields (R172) -/

/-- A field of a reply: its width in bytes and the figure it shows. -/
structure Field where
  width : Nat
  signed : Bool
  value : Int
  deriving DecidableEq, Repr

def u8 (v : Nat) : Field := ⟨1, false, v⟩
def u16 (v : Nat) : Field := ⟨2, false, v⟩
def u24 (v : Nat) : Field := ⟨3, false, v⟩
def u32 (v : Nat) : Field := ⟨4, false, v⟩
def i16 (v : Int) : Field := ⟨2, true, v⟩
def i32 (v : Int) : Field := ⟨4, true, v⟩
/-- A one-byte or two-byte field of a configuration value that may be out of its range before the seal. -/
def raw8 (v : Int) : Field := ⟨1, false, v⟩
def raw16 (v : Int) : Field := ⟨2, false, v⟩
def flag8 (b : Bool) : Field := u8 (if b then 1 else 0)

/-- Whether the figure fits the field. -/
def Field.fits (f : Field) : Bool :=
  if f.signed then
    decide (-(2 ^ (8 * f.width - 1) : Int) ≤ f.value) && decide (f.value < 2 ^ (8 * f.width - 1))
  else decide (0 ≤ f.value) && decide (f.value < 2 ^ (8 * f.width))

/-- The field's bytes; a figure that does not fit shows a free value (log entry 13). -/
def Field.bytes (free k : Nat) (f : Field) : List Byte :=
  if f.fits then beBytesInt f.width f.value
  else beBytes f.width (Config.freeBits (8 * f.width) free k).toNat

/-- Fields one after another, the first being number `k` of its reply. -/
def packFields (free : Nat) : Nat → List Field → List Byte
  | _, [] => []
  | k, f :: rest => f.bytes free k ++ packFields free (k + 1) rest

/-- The answer of a command: status and results from byte 3 (R169, R172). -/
structure Reply where
  status : Status
  results : List Field
  deriving DecidableEq, Repr

/-- OK with results. -/
def Reply.ok (results : List Field) : Reply := ⟨.ok, results⟩

/-- A refusal: its result bytes are 0 (R171). -/
def Reply.refuse (st : Status) : Reply := ⟨st, []⟩

/-- The 32 bytes of a held reply (R169). Beyond the results it is 0: as R169 and R171 give it for NOP and for
a refusal, and by the model's choice for another OK reply (log entry 47). -/
def replyFrame (free : Nat) (code tag : Byte) (r : Reply) : List Byte :=
  let l := [code, tag, BitVec.ofNat 8 r.status.code] ++ packFields free 0 r.results
  (l ++ List.replicate (32 - l.length) 0).take 32

/-! ## The exchange (R169) -/

/-- The outcome type of a step. -/
abbrev Out := Host.Outcome State Fault Refusal

/-- What a command does: the state it leaves and its answer. -/
abbrev Body := State → State × Reply

/-- The held reply has been shifted out, a staged load is discarded (R174, log entry 17), and the
free-value counter moves on. -/
def State.beginExchange (s : State) : State :=
  { s with port := { s.port with shiftedOut := s.port.held }, staged := none, free := s.free + 1 }

/-- The answer becomes the held reply (R169, step 3). -/
def State.answer (code tag : Byte) (r : Reply) (s : State) : State :=
  { s with port := { s.port with held := replyFrame s.free code tag r } }

/-- A command of the port, executed at the end of its frame (R169). -/
def State.command (code tag : Byte) (body : Body) (s : State) : Out :=
  let done := body s.beginExchange
  .next (done.1.answer code tag done.2)

/-- A command of the phase "after" (R171). -/
def afterSeal (body : Body) : Body := fun s =>
  if s.isSealed then body s else (s, Reply.refuse .notSealed)

/-- A command of the phase "before" (R171). -/
def beforeSeal (body : Body) : Body := fun s =>
  if s.isSealed then (s, Reply.refuse .sealed) else body s

/-! ## Views in pages (R173) -/

/-- A row of a result table: whether it is present, and its fields. -/
structure ViewRow where
  present : Bool
  fields : List Field
  deriving DecidableEq, Repr

/-- A row that is always present. -/
def ViewRow.always (fields : List Field) : ViewRow := ⟨true, fields⟩

/-- The presence bits as a number, bit i for row i (log entry 11). -/
def presenceBits : List ViewRow → Nat
  | [] => 0
  | r :: rest => (if r.present then 1 else 0) + 2 * presenceBits rest

/-- A row's fields; those of an absent row are written as 0. -/
def ViewRow.shown (r : ViewRow) : List Field :=
  if r.present then r.fields else r.fields.map fun f => { f with value := 0 }

/-- The stream of a view (R173): the presence field, then every row's fields. -/
def viewStream (free : Nat) (rows : List ViewRow) : List Byte :=
  beBytes ((rows.length + 7) / 8) (presenceBits rows) ++
    packFields free 0 (rows.flatMap ViewRow.shown)

/-- One page of a view, or BAD_PARAM for a page beyond the view (R173). -/
def viewPage (page : Byte) (rows : List ViewRow) (s : State) : State × Reply :=
  let stream := viewStream s.free rows
  let pages := (stream.length + 26) / 27
  if page.toNat < pages then
    (s, Reply.ok ([u8 page.toNat, u8 pages] ++
      ((stream.drop (27 * page.toNat)).take 27).map fun b => u8 b.toNat))
  else (s, Reply.refuse .badParam)

end Sys2Proof.Machine
end

