-- ==== Sys2Proof/Machine/Flags.lean ====
section
/-! DEFINITION. The flags of deliveries, receipts and records (R104, R107, R121). -/

namespace Sys2Proof.Machine

/-- The sticky flags as a field: bits 1 to 4 of a record's flags field (R121). The journals use the same bits:
the model's choice (log entry 46). -/
def DFlags.word (f : DFlags) : BitVec 16 :=
  (if f.uncompensated then 2 else 0) ||| (if f.tempHeld then 4 else 0) |||
    (if f.overspeed then 8 else 0) ||| (if f.overflow then 16 else 0)

/-- The sticky flags as the views of GET_HOSE and GET_STOCK show them: each at the bit of its place, counted
from 0, in the list of R35 and R135 (R172). -/
def DFlags.viewBits (f : DFlags) : Nat :=
  (if f.uncompensated then 1 else 0) + (if f.tempHeld then 2 else 0) + (if f.overspeed then 4 else 0) +
    (if f.overflow then 8 else 0)

/-- The sticky flags a journal's flags field holds (log entry 46). -/
def DFlags.ofWord (w : BitVec 16) : DFlags :=
  { uncompensated := w.getLsbD 1, tempHeld := w.getLsbD 2, overspeed := w.getLsbD 3,
    overflow := w.getLsbD 4 }

/-- Record flags beside the sticky ones (R121). -/
def flagReversed : BitVec 16 := 1
def flagChargeSat : BitVec 16 := 32
def flagInterrupted : BitVec 16 := 64
def flagJournalLost : BitVec 16 := 128
def flagCorrupt : BitVec 16 := 256

/-- A flag of a record that is set when the condition holds. -/
def flagIf (c : Bool) (f : BitVec 16) : BitVec 16 := if c then f else 0

/-- The flags a window's temperature sets (R104): none in a window with Δg of 0. -/
def DFlags.markTemperature (f : DFlags) (dg : Int) (t : Temperature) : DFlags :=
  if dg = 0 then f
  else
    match t with
    | .none => { f with uncompensated := true }
    | .good _ => f
    | .held _ => { f with tempHeld := true }

/-- OVERSPEED when the window count saturated (R89). -/
def DFlags.markOverspeed (f : DFlags) (sat : Bool) : DFlags :=
  { f with overspeed := f.overspeed || sat }

/-- OVERFLOW when an accumulator saturated (R107). -/
def DFlags.markOverflow (f : DFlags) (sat : Bool) : DFlags := { f with overflow := f.overflow || sat }

end Sys2Proof.Machine
end

