-- ==== Sys2Proof/Machine/Ops.lean ====
section
/-! DEFINITION. The named operations over the state that the blocks share: time, the register of each
like thing, posting an event (R175), asking for a subject and drawing a backoff (R150 to R152). -/

namespace Sys2Proof.Machine

/-! ## Time (00_scope.md, Time; log entry 1) -/

/-- The seconds count. -/
def State.nowSec (s : State) : Nat := s.now / Config.second

/-- The millisecond count, from which times in ms run: whole milliseconds since the seal, a part of one
dropped (the model's choice, log entry 42). -/
def State.nowMs (s : State) : Nat := s.now / 1000

/-- The state at the due time of an expiry that is taken: the clock does not run back. -/
def State.reach (due : Nat) (s : State) : State := { s with now := max s.now due }

/-- At a due time in seconds. -/
def State.reachSec (due : Nat) (s : State) : State := s.reach (due * Config.second)

/-- At a due time in milliseconds. -/
def State.reachMs (due : Nat) (s : State) : State := s.reach (due * 1000)

/-! ## One of several like things -/

def State.setHose (n : HoseId) (h : Hose) (s : State) : State := { s with hoses := s.hoses.set n h }
def State.setReader (n : HoseId) (r : Reader) (s : State) : State :=
  { s with readers := s.readers.set n r }
def State.setPump (k : CompId) (p : Pump) (s : State) : State := { s with pumps := s.pumps.set k p }
def State.setMeter (m : MeterId) (c : Meter) (s : State) : State :=
  { s with meters := s.meters.set m c }

/-- The hoses in number order H0 to H3. -/
def allHoses : List HoseId := [0, 1, 2, 3]

/-- The compartments, and the pumps. -/
def allComps : List CompId := [0, 1]

/-- The meter of a hose. -/
def meterOf (n : HoseId) : MeterId := ⟨n.val, by omega⟩

/-- The receipt meter MR. -/
def meterMR : MeterId := 4

/-- The hose a meter belongs to; none for MR. -/
def hoseOfMeter (m : MeterId) : Option HoseId := if h : m.val < 4 then some ⟨m.val, h⟩ else none

/-- An operation on each of a list in order. -/
def State.forEach {α : Type} (l : List α) (f : α → State → State) (s : State) : State :=
  l.foldl (fun acc a => f a acc) s

/-! ## Events (R175) -/

/-- A block posts an event: dropped when its kind is masked, queued when there is room, otherwise
discarded with OVERFLOWED set (R175). -/
def State.post (kind : EventKind) (subject : EventSubject) (value : Int) (s : State) : State :=
  if s.port.mask.getLsbD (kind.code - 1) then s
  else if s.port.events.length < Config.eventRoom then
    { s with port := { s.port with
        events := s.port.events ++ [{ kind, subject, value, postedAt := s.nowSec }] } }
  else { s with port := { s.port with overflowed := true } }

/-- PATN (R175). -/
def State.patn (s : State) : Bool := !s.port.events.isEmpty

/-! ## Subjects and draws (R150 to R152) -/

/-- One step of the backoff generator (R151). -/
def genStep (g : BitVec 16) : BitVec 16 :=
  if g.getLsbD 0 then (g >>> 1) ^^^ 0xB400 else g >>> 1

/-- A draw for the head subject, when the queue is not empty, the link IDLE, the clash latch clear and
no backoff pending (R151, R152). -/
def State.draw (s : State) : State :=
  if s.link.state = .idle ∧ s.link.queue ≠ [] ∧ s.link.clash = false ∧ s.link.backoff = none then
    match s.link.gen with
    | none => s
    | some g =>
      { s with link := { s.link with
          gen := some (genStep g),
          backoff := some (s.nowMs + (genStep g).toNat % 8 * s.linkSlot) } }
  else s

/-- The value of LINK_DROP: the ring ID, or 0 for the stock subject (R150). -/
def Subject.dropValue : Subject → Int
  | .machine ring => ring.toNat
  | .stock => 0

/-- LINK_DROP for a discarded subject (R150, R152). -/
def State.postDrop (sub : Subject) (s : State) : State :=
  s.post .linkDrop (.station s.station) sub.dropValue

/-- A block asks for a subject (R150): it coalesces with a queued one, is dropped by a full queue, or
joins the tail and may start a draw. -/
def State.ask (sub : Subject) (s : State) : State :=
  if sub ∈ s.link.queue then s
  else if s.link.queue.length < Config.subjectRoom then
    ({ s with link := { s.link with queue := s.link.queue ++ [sub] } }).draw
  else s.postDrop sub

end Sys2Proof.Machine
end

