-- ==== Sys2Proof/Machine/Table.lean ====
section
/-! DEFINITION. The machine table: entries and their CRC, remaining allowance and limit, lookups, credit,
merge, and the table commands (02, R16 to R34). -/

namespace Sys2Proof.Machine

/-! ## Canonical ring IDs (R10, R16) -/

/-- The 24 bits of a ring value, the most significant first. -/
def ringBits (r : BitVec 24) : List Bool :=
  (List.range 24).map fun i => r.getLsbD (23 - i)

/-- A pattern read as a number whose first element is the most significant bit (R10). -/
def patternValue (l : List Bool) : Nat := l.foldl (fun acc b => 2 * acc + cond b 1 0) 0

/-- Rotation j of a pattern (R10). -/
def rotation (l : List Bool) (j : Nat) : List Bool := l.drop j ++ l.take j

/-- The values of the 24 rotations in order of j (R10). -/
def rotationValues (l : List Bool) : List Nat :=
  (List.range 24).map fun j => patternValue (rotation l j)

/-- The least of the rotation values (R10). -/
def leastRotation (l : List Bool) : Nat :=
  (rotationValues l).foldl min (patternValue l)

/-- The number of ones of a pattern. -/
def weightOf (l : List Bool) : Nat := l.countP id

/-- A canonical ring ID: nine bits set, the least of its rotations, and at one rotation only (R16). -/
def isCanonical (r : BitVec 24) : Bool :=
  let bits := ringBits r
  decide (weightOf bits = 9) && decide (leastRotation bits = r.toNat) &&
    decide ((rotationValues bits).count r.toNat = 1)

/-! ## Entries -/

/-- The retained fields under the entry's CRC, in the order of R16. -/
def Entry.bytes (e : Entry) : List Byte :=
  beBytes 3 e.ring.toNat ++ beBytes 2 e.number.toNat ++ [e.costCentre] ++
    [BitVec.ofNat 8 ((if e.permitC0 then 1 else 0) + (if e.permitC1 then 2 else 0))] ++
    [BitVec.ofNat 8 e.state.code] ++ beBytes 2 e.allowance.toNat ++ beBytes 2 e.cap.toNat ++
    e.tally.toList.flatMap (beBytes 4)

/-- The entry with its CRC rewritten (R16). -/
def Entry.withCrc (e : Entry) : Entry := { e with crc := crc16 e.bytes }

/-- Whether the entry passes its check (R17). -/
def Entry.passes (e : Entry) : Bool := e.crc == crc16 e.bytes

/-- Whether the machine takes fuel of compartment k. -/
def Entry.permits (e : Entry) (k : CompId) : Bool := if k = 0 then e.permitC0 else e.permitC1

/-- The permitted set as a number: bit i for Ci (R172). -/
def Entry.permitSet (e : Entry) : Nat :=
  (if e.permitC0 then 1 else 0) + (if e.permitC1 then 2 else 0)

/-- The entry in a slot. -/
def State.entryAt (s : State) (slot : Nat) : Option Entry := Sparse.find? s.table.entries slot

/-- The first listed entry with a property. -/
def State.findEntry (s : State) (p : Entry → Bool) : Option (Nat × Entry) :=
  s.table.entries.find? fun e => p e.2

/-- The entry that holds a ring ID. -/
def State.entryOfRing (s : State) (ring : BitVec 24) : Option (Nat × Entry) :=
  s.findEntry fun e => e.ring == ring

/-- The entry that holds a machine number. -/
def State.entryOfNumber (s : State) (number : BitVec 16) : Option (Nat × Entry) :=
  s.findEntry fun e => e.number == number

/-- The occupied slot with the lowest number at or above a slot (R23). -/
def State.entryFrom (s : State) (slot : Nat) : Option (Nat × Entry) :=
  s.table.entries.find? fun e => decide (slot ≤ e.1)

/-- The entry a key names (R18, R23). -/
def State.entryOfKey (s : State) : Key → Option (Nat × Entry)
  | .byRing ring => s.entryOfRing ring
  | .byNumber number => s.entryOfNumber number
  | .bySlot slot => s.entryFrom slot

/-- The table with a slot's entry written, its CRC with it. -/
def State.putEntry (slot : Nat) (e : Entry) (s : State) : State :=
  { s with table := { s.table with entries := Sparse.insert s.table.entries slot e.withCrc } }

/-- The lowest-numbered free slot (R19). -/
def State.freeSlot (s : State) : Option Nat :=
  (List.range 256).find? fun slot => (s.entryAt slot).isNone

/-! ## Open deliveries and figures (R28, R129) -/

/-- ARMED, PRIMING, FLOWING, PAUSED or SETTLING: an own open delivery. -/
def HoseState.isOpen : HoseState → Bool
  | .armed | .priming | .flowing | .paused | .settling => true
  | .offline | .idle | .reading | .identified | .unidentified | .finished => false

/-- PRIMING, FLOWING or PAUSED: the hose holds a claim (R75). -/
def HoseState.isActive : HoseState → Bool
  | .priming | .flowing | .paused => true
  | .offline | .idle | .reading | .identified | .unidentified | .armed | .settling | .finished => false

/-- IDENTIFIED, or an open delivery: the hose holds an entry (R22). -/
def HoseState.holdsEntry (st : HoseState) : Bool := st == .identified || st.isOpen

/-- The open preset (R28): the pending preset while one is held, the preset otherwise. -/
def Hose.openPreset (h : Hose) : Nat :=
  match h.pendingPreset with
  | some p => p
  | none => h.preset.getD 0

/-- Whether the hose serves the entry in a slot. -/
def Hose.serves (h : Hose) (slot : Nat) : Bool :=
  match h.ident with
  | some i => i.slot == slot
  | none => false

/-- The hoses other than the one left out. -/
def otherHoses (without : Option HoseId) : List HoseId :=
  allHoses.filter fun n => decide (some n ≠ without)

/-- The sum of the open presets of the own open deliveries for an entry, one hose left out (R28). -/
def State.ownOpenSum (s : State) (slot : Nat) (without : Option HoseId) : Nat :=
  ((otherHoses without).map fun n =>
    let h := s.hoses[n]
    if h.state.isOpen && h.serves slot then h.openPreset else 0).sum

/-- The sum of the open presets of a compartment's hoses, one hose left out (R129). -/
def State.compOpenSum (s : State) (k : CompId) (without : Option HoseId) : Nat :=
  ((otherHoses without).map fun n =>
    let h := s.hoses[n]
    if h.state.isOpen && decide (s.hoseComp n = k) then h.openPreset else 0).sum

/-- The sum of the 16 tallies. -/
def Entry.tallySum (e : Entry) : Nat := e.tally.toList.sum

/-- The sum of the heard reservations in force. -/
def Entry.heardSum (e : Entry) : Nat :=
  (e.heard.toList.map fun h => match h with | some r => r.ml | none => 0).sum

/-- The remaining allowance of an entry (R28), one own delivery left out. -/
def State.remainingAllowance (s : State) (slot : Nat) (e : Entry) (without : Option HoseId) : Nat :=
  e.allowance.toNat * 1000 - (e.tallySum + e.heardSum + s.ownOpenSum slot without)

/-- The available stock of a compartment (R129), one own delivery left out; before the seal from the item
values loaded so far, the model's choice (log entry 45). -/
def State.availableStock (s : State) (k : CompId) (without : Option HoseId) : Nat :=
  (s.stock.books[k].value - s.heel k * 1000 - s.compOpenSum k without).toNat

/-- The terms of the limit other than the available stock (R29). -/
def State.allowanceTerm (s : State) (slot : Nat) (e : Entry) (m : Method)
    (without : Option HoseId) : Nat :=
  let base := min (s.remainingAllowance slot e without) (e.cap.toNat * 1000)
  let keyed := match m with
    | .ring => base
    | .keyed => min base (s.keyedCap * 1000)
  min keyed 30000000

/-- The authorisation limit (R29). -/
def State.limit (s : State) (slot : Nat) (e : Entry) (k : CompId) (m : Method)
    (without : Option HoseId) : Nat :=
  min (s.allowanceTerm slot e m without) (s.availableStock k without)

/-- The grant of a requested preset against a limit (R29). -/
def grantPreset (requested limit : Nat) : Nat :=
  if requested = 0 then limit else min requested limit

/-- The reserved slots of the log (R113). -/
def Log.reservedCount (l : Log) : Nat := l.reserved.toList.countP id

/-- The free count (R113). -/
def Log.freeCount (l : Log) : Nat := Config.logSlots - l.count - l.reservedCount

/-- Checks 2 to 6 of R25 with the reason of R26: what stands against fuelling an entry from a
compartment, none when nothing does. -/
def State.objection (s : State) (slot : Nat) (e : Entry) (k : CompId) (m : Method) :
    Option UnidReason :=
  if e.state = .barred then some .barred
  else if e.permits k = false then some .grade
  else if s.stock.books[k].isSet = false then some .stockUnset
  else if s.log.freeCount = 0 then some .logFull
  else if s.limit slot e k m none < s.minPreset then
    if s.availableStock k none < s.allowanceTerm slot e m none then some .stockShort
    else some .noAllowance
  else none

/-- The outcome of a lookup (R25). -/
inductive Lookup where
  | found (ident : Ident) (limit : Nat)
  | refused (reason : UnidReason)
  deriving DecidableEq, Repr

/-- A ring lookup on behalf of a hose of compartment k (R25). -/
def State.ringLookup (s : State) (ring : BitVec 24) (k : CompId) : Lookup :=
  match s.entryOfRing ring with
  | none => .refused .unknownMachine
  | some (slot, e) =>
    match s.objection slot e k .ring with
    | some reason => .refused reason
    | none =>
      .found { method := .ring, slot, ring := e.ring, number := e.number, costCentre := e.costCentre }
        (s.limit slot e k .ring none)

/-! ## Credit, merge and expiry (R31 to R33) -/

/-- A tally holds at 4,294,967,295 mL (R16). -/
def holdTally (x : Nat) : Nat := hold 4294967295 x

/-- The credit of a closed delivery (R31): the own tally of the ring's entry rises by max(0, net), and
its subject is queued. -/
def State.credit (ring : BitVec 24) (net : Int) (s : State) : State :=
  match s.entryOfRing ring with
  | none => s
  | some (slot, e) =>
    let own := s.ownIndex
    (s.putEntry slot
      { e with tally := e.tally.set own (holdTally (e.tally[own] + net.toNat)) }).ask (.machine ring)

/-- The merge of an accepted MACHINE notice from a station (R32). -/
def State.mergeMachine (from_ : StationId) (day : BitVec 16) (ring : BitVec 24)
    (tally reserved : Nat) (s : State) : State :=
  if day ≠ s.table.day then s
  else
    match s.entryOfRing ring with
    | none => s
    | some (slot, e) =>
      let heard : Option Heard :=
        if reserved = 0 then none else some { ml := reserved, expiry := s.nowSec + s.resTtl }
      s.putEntry slot { e with tally := e.tally.set from_ tally, heard := e.heard.set from_ heard }

/-- RESERVATION_EXPIRY (R33): the expiry clears a heard reservation. -/
def execReservationExpiry (slot : SlotId) (station : StationId) (s : State) : Out :=
  .next <|
    match s.entryAt slot.val with
    | none => s
    | some e =>
      match e.heard[station] with
      | none => s
      | some h =>
        let s := s.reachSec h.expiry
        { s with table := { s.table with
            entries := Sparse.insert s.table.entries slot.val
              { e with heard := e.heard.set station none } } }

/-! ## Table commands (R18 to R24) -/

/-- The permitted set of a parameter: C0, C1 or both (R19), bit i for Ci in 4 bytes (R172). -/
def permitsOf (x : BitVec 32) : Option (Bool × Bool) :=
  match x.toNat with
  | 1 => some (true, false)
  | 2 => some (false, true)
  | 3 => some (true, true)
  | _ => none

/-- The state of a parameter byte. -/
def entryStateOf (b : Byte) : Option EntryState :=
  match b.toNat with
  | 0 => some .active
  | 1 => some .barred
  | _ => none

/-- A new entry (R16): every tally 0, no heard reservation. -/
def Entry.new (ring : BitVec 24) (number : BitVec 16) (costCentre : Byte) (p : Bool × Bool)
    (st : EntryState) (allowance cap : BitVec 16) : Entry :=
  { ring, number, costCentre, permitC0 := p.1, permitC1 := p.2, state := st, allowance, cap,
    tally := Vector.replicate 16 0, heard := Vector.replicate 16 none, crc := 0 }

/-- PUT_MACHINE past its range checks (R19 steps 2 to 5, R20; 0 for inserted, 1 for replaced: log entry 10). -/
def putMachineChecked (ring : BitVec 24) (number : BitVec 16) (costCentre : Byte) (p : Bool × Bool)
    (st : EntryState) (allowance cap : BitVec 16) : Body := fun s =>
  if (s.findEntry fun e => e.number == number && e.ring != ring).isSome then
    (s, Reply.refuse .duplicate)
  else
    match s.entryOfRing ring with
    | some (slot, e) =>
      (s.putEntry slot
        { e with number, costCentre, permitC0 := p.1, permitC1 := p.2, state := st, allowance, cap },
        Reply.ok [u32 slot, u8 1])
    | none =>
      match s.freeSlot with
      | none => (s, Reply.refuse .tableFull)
      | some slot =>
        (s.putEntry slot (Entry.new ring number costCentre p st allowance cap),
          Reply.ok [u32 slot, u8 0])

/-- PUT_MACHINE (R18, R19): a parameter out of range is BAD_PARAM. -/
def putMachineBody (ring : BitVec 24) (number : BitVec 16) (costCentre : Byte) (permitted : BitVec 32)
    (state : Byte) (allowance cap : BitVec 16) : Body := afterSeal fun s =>
  match permitsOf permitted, entryStateOf state with
  | some p, some st =>
    if isCanonical ring && number != 0 && decide (costCentre.toNat ≤ 63) && cap != 0 then
      putMachineChecked ring number costCentre p st allowance cap s
    else (s, Reply.refuse .badParam)
  | _, _ => (s, Reply.refuse .badParam)

/-- BAR_MACHINE and UNBAR_MACHINE (R21). -/
def setEntryStateBody (st : EntryState) (selector : Byte) (key : BitVec 24) : Body :=
  afterSeal fun s =>
    match entryKeyOf selector key with
    | none => (s, Reply.refuse .badParam)
    | some key =>
      match s.entryOfKey key with
      | none => (s, Reply.refuse .notFound)
      | some (slot, e) =>
        (if e.state = st then s else s.putEntry slot { e with state := st },
          Reply.ok [u32 slot, u8 e.state.code])

/-- Whether a hose is IDENTIFIED, or open, for the entry in a slot (R22). -/
def State.slotInUse (s : State) (slot : Nat) : Bool :=
  allHoses.any fun n => s.hoses[n].state.holdsEntry && s.hoses[n].serves slot

/-- REMOVE_MACHINE (R22). -/
def removeMachineBody (selector : Byte) (key : BitVec 24) : Body := afterSeal fun s =>
  match entryKeyOf selector key with
  | none => (s, Reply.refuse .badParam)
  | some key =>
    match s.entryOfKey key with
    | none => (s, Reply.refuse .notFound)
    | some (slot, _) =>
      if s.slotInUse slot then (s, Reply.refuse .inUse)
      else
        ({ s with table := { s.table with entries := Sparse.erase s.table.entries slot } },
          Reply.ok [u32 slot])

/-- The rows of GET_MACHINE's view (02, GET_MACHINE) for an entry and a station's index. -/
def State.machineRows (s : State) (slot : Nat) (e : Entry) (station : StationId) : List ViewRow :=
  [ .always [u32 slot],
    .always [u24 e.ring.toNat, u16 e.number.toNat, u8 e.costCentre.toNat, u32 e.permitSet,
      u8 e.state.code, u16 e.allowance.toNat, u16 e.cap.toNat],
    .always [u32 (hold 4294967295 e.tallySum)],
    .always [u32 (hold 4294967295 e.heardSum)],
    .always [u32 (s.ownOpenSum slot none)],
    .always [u32 (s.remainingAllowance slot e none)],
    .always [u32 e.tally[station]],
    match e.heard[station] with
    | some h => ⟨true, [u32 h.ml, u32 (h.expiry - s.nowSec)]⟩
    | none => ⟨false, [u32 0, u32 0]⟩ ]

/-- An entry to show the shape of GET_MACHINE's view when none is found. -/
def Entry.blank : Entry := Entry.new 0 0 0 (false, false) .active 0 0

/-- GET_MACHINE (R18, R23, R173). Its pages are counted before the entry is looked for, since a page
out of range fails the parameter checks. -/
def getMachineBody (selector : Byte) (key : BitVec 24) (station page : Byte) : Body := fun s =>
  match keyOf selector key with
  | none => (s, Reply.refuse .badParam)
  | some key =>
    if 1 ≤ station.toNat ∧ station.toNat ≤ 16 then
      let index : StationId := Fin.ofNat 16 (station.toNat - 1)
      match s.entryOfKey key with
      | some (slot, e) => viewPage page (s.machineRows slot e index) s
      | none =>
        let shape := viewPage page (s.machineRows 0 Entry.blank index) s
        if shape.2.status = .badParam then shape else (s, Reply.refuse .notFound)
    else (s, Reply.refuse .badParam)

/-- The entry after a change of day: every tally 0, no heard reservation, its CRC rewritten (R24). -/
def Entry.newDay (e : Entry) : Entry :=
  { e with tally := Vector.replicate 16 0, heard := Vector.replicate 16 none }.withCrc

/-- Whether an entry has an own open delivery (R24). -/
def State.hasOpen (s : State) (slot : Nat) : Bool :=
  allHoses.any fun n => s.hoses[n].state.isOpen && s.hoses[n].serves slot

/-- SET_DAY (R24). -/
def setDayBody (day : BitVec 16) : Body := afterSeal fun s =>
  let before := Reply.ok [u16 s.table.day.toNat]
  if day = s.table.day then (s, before)
  else
    let open_ := s.table.entries.filter fun e => s.hasOpen e.1
    let s := { s with table :=
      { entries := s.table.entries.map fun (e : Nat × Entry) => (e.1, e.2.newDay), day,
        dayCrc := crc16 (beBytes 2 day.toNat) } }
    (s.forEach open_ fun (e : Nat × Entry) => State.ask (.machine e.2.ring), before)

def execPutMachine (tag : Byte) (ring : BitVec 24) (number : BitVec 16)
    (costCentre : Byte) (permitted : BitVec 32) (state : Byte) (allowance cap : BitVec 16) (s : State) : Out :=
  s.command 0x10 tag (putMachineBody ring number costCentre permitted state allowance cap)

def execBarMachine (tag selector : Byte) (key : BitVec 24) (s : State) : Out :=
  s.command 0x11 tag (setEntryStateBody .barred selector key)

def execUnbarMachine (tag selector : Byte) (key : BitVec 24) (s : State) : Out :=
  s.command 0x12 tag (setEntryStateBody .active selector key)

def execRemoveMachine (tag selector : Byte) (key : BitVec 24) (s : State) : Out :=
  s.command 0x13 tag (removeMachineBody selector key)

def execGetMachine (tag selector : Byte) (key : BitVec 24) (station page : Byte) (s : State) : Out :=
  s.command 0x14 tag (getMachineBody selector key station page)

def execSetDay (tag : Byte) (day : BitVec 16) (s : State) : Out :=
  s.command 0x15 tag (setDayBody day)

end Sys2Proof.Machine
end

