-- ==== Sys2Proof/Machine/Log.lean ====
section
/-! DEFINITION. The delivery log: records and their layout, appending, reading and releasing, the scrub
and the start-up check (08, R113 to R126). -/

namespace Sys2Proof.Machine

/-! ## Slots -/

/-- A slot of the ring. -/
def Log.slotAt (l : Log) (i : Nat) : LogSlot := Sparse.getD (fun _ => LogSlot.blank) l.slots i

/-- The ring with a slot written. -/
def Log.putSlot (i : Nat) (x : LogSlot) (l : Log) : Log :=
  { l with slots := Sparse.put (fun _ => LogSlot.blank) l.slots i x }

/-- The slot at a position from the oldest (R113, R122). -/
def Log.position (l : Log) (k : Nat) : Nat := (l.oldest + k) % Config.logSlots

/-- The tail slot (R113). -/
def Log.tail (l : Log) : Nat := l.position l.count

/-- The log with its index CRC rewritten. -/
def Log.withIndexCrc (l : Log) : Log := { l with indexCrc := crc16 (indexBytes l.oldest l.count) }

/-- Whether a record's contents pass their CRC (R125, R126). -/
def recordPasses (bytes : List Byte) : Bool :=
  (crc16 (bytes.take 46)).toNat == ofBytes ((bytes.drop 46).take 2)

/-- The sequence number in a record's contents. -/
def recordSeq (bytes : List Byte) : Nat := ofBytes (bytes.take 4)

/-- A set of slots, in rising order, with a slot added. -/
def addMark : Nat → List Nat → List Nat
  | i, [] => [i]
  | i, j :: rest => if i < j then i :: j :: rest else if i = j then j :: rest else j :: addMark i rest

/-! ## Records (R119 to R121) -/

/-- The fields of a record; a field its kind does not have is 0. In an ADJUST record `gross` and `net`
are the book before and after. -/
structure Record where
  kind : Nat
  hose : Byte := 0
  comp : Byte
  method : Byte := 0
  ring : BitVec 24 := 0
  number : BitVec 16 := 0
  costCentre : Byte := 0
  preset : Nat := 0
  gross : Int
  net : Int
  overrun : Nat := 0
  mean : Int := 0
  charge : Nat := 0
  endCause : Byte := 0
  flags : BitVec 16 := 0
  phaseErrors : Nat := 0
  deriving DecidableEq, Repr

/-- Bytes 0 to 45 of a record (R121). -/
def Record.body (seq : BitVec 32) (day : BitVec 16) (free : Nat) (r : Record) : List Byte :=
  beBytes 4 seq.toNat ++ [BitVec.ofNat 8 r.kind] ++ beBytes 2 day.toNat ++
    [r.hose, r.comp, r.method] ++ beBytes 3 r.ring.toNat ++ beBytes 2 r.number.toNat ++
    [r.costCentre] ++ beBytes 4 r.preset ++ beBytesInt 4 r.gross ++ beBytesInt 4 r.net ++
    beBytes 4 r.overrun ++ (i16 r.mean).bytes free 0 ++ beBytes 4 r.charge ++ [r.endCause] ++
    beBytes 2 r.flags.toNat ++ beBytes 2 r.phaseErrors ++ [0, 0, 0]

/-- The 48 bytes of a record (R117, R121). -/
def Record.bytes (seq : BitVec 32) (day : BitVec 16) (free : Nat) (r : Record) : List Byte :=
  let body := r.body seq day free
  body ++ beBytes 2 (crc16 body).toNat

/-! ## Appending (R117) -/

/-- A holder of a reservation: H0..H3 are 0..3, the receipt is 4. -/
abbrev Holder := Fin 5

/-- The holder of a hose's reservation. -/
def holderOf (n : HoseId) : Holder := ⟨n.val, by omega⟩

/-- The receipt's reservation. -/
def holderReceipt : Holder := 4

/-- A reservation taken or ended (R115, R116). -/
def State.setReserved (h : Holder) (b : Bool) (s : State) : State :=
  { s with log := { s.log with reserved := s.log.reserved.set h b } }

/-- An append (R117): the record is written at the tail, the stored count and the sequence counter move
on, and a closing holder's reservation ends. -/
def State.append (r : Record) (holder : Option Holder) (s : State) : State :=
  let l := s.log
  let written := l.putSlot l.tail
    { stored := true, bytes := r.bytes l.seq s.table.day s.free }
  let reserved := match holder with
    | none => l.reserved
    | some h => l.reserved.set h false
  { s with
    log := { written.withIndexCrc with
      count := l.count + 1
      indexCrc := crc16 (indexBytes l.oldest (l.count + 1))
      reserved
      seq := l.seq + 1
      seqCrc := crc16 (beBytes 4 (l.seq + 1).toNat) }
    free := s.free + 1 }

/-! ## Reading (R122, R123) -/

/-- The view of the record in a slot: bit 8 of the flags shows a corrupt mark (R122). -/
def Log.viewOf (l : Log) (slot : Nat) : List Byte :=
  let bytes := (l.slotAt slot).bytes
  if slot ∈ l.corrupt then
    bytes.take 39 ++ [(bytes.getD 39 0) ||| 1] ++ bytes.drop 40
  else bytes

/-- Bytes as result fields. -/
def byteFields (l : List Byte) : List Field := l.map fun b => u8 b.toNat

/-- The counts of a READ_RECORD reply. -/
def Log.counts (l : Log) : List Field := [u16 l.count, u8 l.reservedCount]

/-- The results of a READ_RECORD: record bytes in the places of R172, with the counts. -/
def Log.halfRecord (l : Log) (part : Byte) (bytes : List Byte) : List Field :=
  if part = 0 then byteFields (bytes.take 24) ++ l.counts
  else byteFields (bytes.take 4) ++ byteFields ((bytes.drop 24).take 19) ++ l.counts ++
    byteFields ((bytes.drop 46).take 2)

/-- EMPTY with the counts in the same places (R122, log entry 29). -/
def Log.emptyReply (l : Log) (part : Byte) : Reply :=
  ⟨.empty, l.halfRecord part (List.replicate 48 0)⟩

/-- READ_RECORD without drain mode (R122): a drain mode other than off or on is out of range. -/
def readRecordBody (k : BitVec 32) (part drain : Byte) : Body := fun s =>
  if 1023 < k.toNat ∨ 1 < part.toNat ∨ drain ≠ 0 then (s, Reply.refuse .badParam)
  else if k.toNat < s.log.count then
    (s, Reply.ok (s.log.halfRecord part (s.log.viewOf (s.log.position k.toNat))))
  else (s, s.log.emptyReply part)

/-! ## Releasing (R124) -/

/-- The release of the oldest record, the index CRC apart (R124). -/
def Log.releaseOne (l : Log) : Log :=
  { l.putSlot l.oldest { l.slotAt l.oldest with stored := false } with
    corrupt := l.corrupt.filter fun i => i ≠ l.oldest
    oldest := l.position 1
    count := l.count - 1 }

/-- The release of the `m` oldest records. -/
def Log.releaseMany : Nat → Log → Log
  | 0, l => l
  | m + 1, l => Log.releaseMany m l.releaseOne

/-- RELEASE of at most `n` records (R124). -/
def Log.release (n : Nat) (l : Log) : Log := (Log.releaseMany (min n l.count) l).withIndexCrc

def releaseBody (n : BitVec 32) : Body := fun s =>
  let log := s.log.release n.toNat
  ({ s with log }, Reply.ok [u32 (min n.toNat s.log.count), u16 log.count])

/-- Whether the drain memory names the oldest stored record (R123). -/
def Log.drainMatches (l : Log) : Bool :=
  match l.drain with
  | none => false
  | some (slot, seq) =>
    decide (0 < l.count) && slot == l.oldest && recordSeq (l.slotAt l.oldest).bytes == seq.toNat

/-- READ_RECORD with drain mode on (R123). -/
def readRecordDrainBody (k : BitVec 32) (part : Byte) : Body := fun s =>
  if k ≠ 0 ∨ part ≠ 0 then (s, Reply.refuse .badParam)
  else
    let l := if s.log.drainMatches then s.log.release 1 else s.log
    if l.count = 0 then ({ s with log := { l with drain := none } }, l.emptyReply 0)
    else
      let seq := BitVec.ofNat 32 (recordSeq (l.slotAt l.oldest).bytes)
      ({ s with log := { l with drain := some (l.oldest, seq) } },
        Reply.ok (l.halfRecord 0 (l.viewOf l.oldest)))

/-! ## The scrub (R125) -/

/-- The slot a scrub expiry checks, while records are stored (R125). -/
def Log.scrubChoice (l : Log) : Nat :=
  match l.scrub with
  | none => l.oldest
  | some slot =>
    if (l.slotAt slot).stored && slot != l.position (l.count - 1) then (slot + 1) % Config.logSlots
    else l.oldest

/-- A scrub expiry's check (R125). -/
def State.scrub (s : State) : State :=
  if s.log.count = 0 then s
  else
    let slot := s.log.scrubChoice
    let bytes := (s.log.slotAt slot).bytes
    let s := { s with log := { s.log with scrub := some slot } }
    if recordPasses bytes || decide (slot ∈ s.log.corrupt) then s
    else
      ({ s with log := { s.log with corrupt := addMark slot s.log.corrupt } }).post .recordCorrupt
        (.record (BitVec.ofNat 32 (recordSeq bytes))) slot

/-- SCRUB_EXPIRY (R125): every 5 s from the seal. -/
def execScrubExpiry (s : State) : Out :=
  .next <|
    match s.log.scrubDue with
    | none => s
    | some due =>
      let s := s.reach due
      ({ s with log := { s.log with scrubDue := some (due + 5 * Config.second) } }).scrub

/-! ## The start-up check (R126) -/

/-- The stored run from a slot onward in ring order. -/
def Log.runLength (l : Log) (start : Nat) : Nat :=
  ((List.range Config.logSlots).takeWhile fun i =>
    (l.slotAt ((start + i) % Config.logSlots)).stored).length

/-- The first slots of the stored runs: STORED after an EMPTY predecessor. -/
def Log.runStarts (l : Log) : List Nat :=
  (List.range Config.logSlots).filter fun i =>
    (l.slotAt i).stored && !(l.slotAt ((i + Config.logSlots - 1) % Config.logSlots)).stored

/-- The longest run as (start, length), the lowest start among equal ones. -/
def Log.longestRun (l : Log) : Nat × Nat :=
  l.runStarts.foldl
    (fun best i => let n := l.runLength i; if best.2 < n then (i, n) else best) (0, 0)

/-- The listed slots whose contents pass, with their sequence numbers. A slot never written holds
contents that do not pass. -/
def Log.passing (l : Log) : List (Nat × Nat) :=
  (l.slots.filter fun p => recordPasses p.2.bytes).map fun p => (p.1, recordSeq p.2.bytes)

/-- Of slots with sequence numbers, the one with the greatest. -/
def greatestSeq : List (Nat × Nat) → Option (Nat × Nat)
  | [] => none
  | p :: rest =>
    match greatestSeq rest with
    | none => some p
    | some q => some (if p.2 < q.2 then q else p)

/-- The oldest slot and stored count found from the markers (R126, step 1). -/
def Log.foundRun (l : Log) : Nat × Nat :=
  if (List.range Config.logSlots).all fun i => (l.slotAt i).stored then
    match greatestSeq l.passing with
    | none => (0, Config.logSlots)
    | some p => ((p.1 + 1) % Config.logSlots, Config.logSlots)
  else l.longestRun

/-- The slots with every marker outside a run EMPTY. -/
def Log.clearOutside (l : Log) (run : Nat × Nat) : Log :=
  ((List.range Config.logSlots).filter fun i =>
      (l.slotAt i).stored &&
        decide (run.2 ≤ (i + Config.logSlots - run.1) % Config.logSlots)).foldl
    (fun acc i => acc.putSlot i { acc.slotAt i with stored := false }) l

/-- The index rebuilt from the markers for a number of journals present (R126, step 1). -/
def Log.rebuilt (l : Log) (journals : Nat) : Log :=
  let run := l.foundRun
  let found := { l.clearOutside run with oldest := run.1, count := run.2 }
  (Log.releaseMany (run.2 + journals - Config.logSlots) found).withIndexCrc

/-- Step 1: the index (R126). -/
def Log.checkIndex (l : Log) (journals : Nat) : Log × List Loss :=
  if l.indexCrc = crc16 (indexBytes l.oldest l.count) then (l, [])
  else
    let l := l.rebuilt journals
    (l, [{ item := 3, value := l.count }])

/-- Step 2: the stored records whose contents fail (R126), from the oldest. -/
def Log.failedRecords (l : Log) : List Nat :=
  ((List.range l.count).map l.position).filter fun i => !recordPasses (l.slotAt i).bytes

def Log.checkRecords (l : Log) : Log × List Loss :=
  ({ l with corrupt := l.failedRecords.foldr addMark [] },
    l.failedRecords.map fun i => { item := 4, value := i })

/-- The rebuilt sequence counter (R126, step 3). -/
def Log.rebuiltSeq (l : Log) : BitVec 32 :=
  match greatestSeq l.passing with
  | none => 1
  | some p => BitVec.ofNat 32 (p.2 + 1)

/-- Step 3: the sequence counter (R126); its check is over its 4 bytes, the most significant first (the
model's choice, log entry 15). -/
def Log.checkSeq (l : Log) : Log × List Loss :=
  if l.seqCrc = crc16 (beBytes 4 l.seq.toNat) then (l, [])
  else
    let seq := l.rebuiltSeq
    ({ l with seq, seqCrc := crc16 (beBytes 4 seq.toNat) }, [{ item := 5, value := seq.toNat }])

/-- The log's start-up check with the losses it finds, in order; the reservations follow the journals
(R113, R126). -/
def Log.startUp (held : Vector Bool 5) (l : Log) : Log × List Loss :=
  let l := { l with corrupt := [], drain := none, scrub := none, scrubDue := none, reserved := held }
  let a := l.checkIndex (held.toList.countP id)
  let b := a.1.checkRecords
  let c := b.1.checkSeq
  (c.1, a.2 ++ b.2 ++ c.2)

/-! ## The commands -/

def execReadRecord (tag : Byte) (k : BitVec 32) (part drain : Byte) (s : State) : Out :=
  s.command 0x30 tag (readRecordBody k part drain)

def execReadRecordDrain (tag : Byte) (k : BitVec 32) (part : Byte) (s : State) : Out :=
  s.command 0x30 tag (readRecordDrainBody k part)

def execRelease (tag : Byte) (n : BitVec 32) (s : State) : Out :=
  s.command 0x31 tag (releaseBody n)

end Sys2Proof.Machine
end

