-- ==== Sys2Proof/Machine/Correction.lean ====
section
/-! DEFINITION. The arithmetic of a window and of a close: rate, meter factor, gross and net steps,
accumulators, closing figures, charge and the records formed from them (06 R93 to R95; 07 R104 to R112;
08 R118 to R120). -/

namespace Sys2Proof.Machine

/-! ## Rate, factor and gross (R93 to R95) -/

/-- The rate of a window, in 0.1 L/min (R93). -/
def rateOf (c : Int) (nf : Nat) : Nat := hold 65535 (c.natAbs * nf * 240 / 100000)

/-- The meter factor of a rate (R94). -/
def MeterCal.factor (m : MeterCal) (rate : Nat) : Int := curveAt m.curve rate

/-- An increment of whole units with the remainder carried on. -/
structure Step where
  whole : Int
  rem : Int
  deriving DecidableEq, Repr

/-- The gross increment of a window with the owner's remainder (R95). -/
def grossStep (c mf gRem : Int) : Step :=
  let g := c * mf + gRem
  { whole := floorDiv g 256, rem := floorRem g 256 }

/-! ## Temperature and volume correction (R104 to R106) -/

/-- The temperature of a compartment (R100): T0 for C0, T1 for C1. -/
def State.compTemp (s : State) (k : CompId) : Temperature :=
  if k = 0 then s.sampler.temps[0] else s.sampler.temps[1]

/-- The temperature of the receipt line (R100). -/
def State.receiptTemp (s : State) : Temperature := s.sampler.temps[2]

/-- The temperature the sums use: 1500 while NONE (R104). -/
def Temperature.used : Temperature → Int
  | .none => 1500
  | .good t => t
  | .held t => t

/-- The volume correction factor of a temperature and an expansion, in millionths (R105). -/
def vcfOf (alpha : Nat) : Temperature → Int
  | .none => 1000000
  | .good t => 1000000 - roundAway (alpha * (t - 1500)) 100
  | .held t => 1000000 - roundAway (alpha * (t - 1500)) 100

/-- The expansion of a compartment's fuel; an absent one is taken as 0 (R165). -/
def State.alphaOf (s : State) (k : CompId) : Nat := s.metro.alpha[k].getD 0

/-- The net increment of a window with the owner's remainder (R106). -/
def netStep (dg vcf nRem : Int) : Step :=
  let n := dg * vcf + nRem
  { whole := floorDiv n 1000000, rem := floorRem n 1000000 }

/-! ## Accumulators (R107, R109) -/

/-- A bounded accumulator with its saturated mark. -/
structure Bounded where
  value : Int
  sat : Bool
  deriving DecidableEq, Repr

/-- An addition to an accumulator of a bound (R107). -/
def Bounded.add (bound : Int) (x : Bounded) (d : Int) : Bounded :=
  if x.sat then x
  else if bound < x.value + d then ⟨bound, true⟩
  else if x.value + d < -bound then ⟨-bound, true⟩
  else ⟨x.value + d, false⟩

/-- The bound of gross_µL and net_µL (R107). -/
def volumeBound : Int := 2 ^ 47 - 1
/-- The bound of ΣΔg (R107). -/
def sumGBound : Int := 2 ^ 63 - 1
/-- The bound of Σ(Δg × T) (R107). -/
def sumGTBound : Int := 2 ^ 79 - 1

/-- A window's gross and net steps taken into the accumulators, with the temperature the sums use
(R106, R107, R109). -/
def Accum.window (a : Accum) (gross net : Step) (t : Int) : Accum :=
  let g := Bounded.add volumeBound ⟨a.gross, a.satGross⟩ gross.whole
  let n := Bounded.add volumeBound ⟨a.net, a.satNet⟩ net.whole
  let counts := decide (0 < gross.whole)
  let sg := if counts then Bounded.add sumGBound ⟨a.sumG, a.satG⟩ gross.whole else ⟨a.sumG, a.satG⟩
  let sgt := if counts then Bounded.add sumGTBound ⟨a.sumGT, a.satGT⟩ (gross.whole * t)
    else ⟨a.sumGT, a.satGT⟩
  { gross := g.value, gRem := gross.rem, net := n.value, nRem := net.rem,
    sumGT := sgt.value, sumG := sg.value,
    satGross := g.sat, satNet := n.sat, satGT := sgt.sat, satG := sg.sat }

/-- Whether an accumulator saturated between two states of them (R107). -/
def Accum.newlySaturated (before after : Accum) : Bool :=
  (after.satGross && !before.satGross) || (after.satNet && !before.satNet) ||
    (after.satGT && !before.satGT) || (after.satG && !before.satG)

/-! ## Volumes (R108) -/

/-- Whole millilitres of microlitres, truncated toward zero (R108). -/
def milli (x : Int) : Int := truncDiv x 1000

/-- Delivered mL (R108). -/
def Accum.delivered (a : Accum) : Int := milli a.net

/-! ## Closing figures (R109 to R112, R118) -/

/-- A volume as a record's field bears it (R118). -/
def fitted (x : Int) : Int := clampInt (-2147483647) 2147483647 x

/-- Whether the record bounds a volume (R118). -/
def unfit (x : Int) : Bool := decide (fitted x ≠ x)

/-- The mean temperature at a close (R109). -/
def Accum.mean (a : Accum) (t : Temperature) : Int :=
  if 0 < a.sumG then roundAway a.sumGT a.sumG else t.used

/-- Whether the close sets UNCOMPENSATED (R109). -/
def Accum.meanUncompensated (a : Accum) (t : Temperature) : Bool :=
  decide (a.sumG ≤ 0) && decide (t = .none)

/-- The charge before its hold (R110). -/
def rawCharge (net rate sur : Int) : Int :=
  floorDiv (max 0 net * rate * (1000 + sur) + 5000000) 10000000

/-- The greatest charge (R110). -/
def chargeTop : Int := 4294967295

/-- What the figures of a DELIVERY record are formed from (R119): a closing context or a journal. -/
structure Delivery where
  hose : Byte
  comp : CompId
  method : Byte
  ring : BitVec 24
  number : BitVec 16
  costCentre : Byte
  preset : Nat
  acc : Accum
  flags : DFlags
  phaseErrors : Nat
  endCause : Byte
  extra : BitVec 16
  deriving DecidableEq, Repr

/-- The record's net mL (R118, R119). -/
def Accum.netField (a : Accum) : Int := fitted (milli a.net)

/-- The record's gross mL (R118, R119). -/
def Accum.grossField (a : Accum) : Int := fitted (milli a.gross)

/-- The flags of a closing: the sticky ones with OVERFLOW of R118 and UNCOMPENSATED of R109. -/
def closingFlags (f : DFlags) (a : Accum) (t : Temperature) : DFlags :=
  { f with
    uncompensated := f.uncompensated || a.meanUncompensated t
    overflow := f.overflow || unfit (milli a.gross) || unfit (milli a.net) }

/-- The charge of a delivery, 0 when REVERSED (R110, R111). -/
def Delivery.charge (d : Delivery) (rate sur : Int) : Int :=
  if d.acc.netField < 0 then 0 else rawCharge d.acc.netField rate sur

/-- The DELIVERY record of a delivery (R111, R118, R119) at a rate, a surcharge and a compartment
temperature. -/
def Delivery.record (d : Delivery) (rate sur : Int) (t : Temperature) : Record :=
  let net := d.acc.netField
  let charge := d.charge rate sur
  { kind := 1, hose := d.hose, comp := BitVec.ofNat 8 d.comp.val, method := d.method, ring := d.ring,
    number := d.number, costCentre := d.costCentre, preset := d.preset,
    gross := d.acc.grossField, net, overrun := (net - d.preset).toNat,
    mean := d.acc.mean t, charge := (min charge chargeTop).toNat, endCause := d.endCause,
    flags := (closingFlags d.flags d.acc t).word ||| flagIf (decide (net < 0)) flagReversed |||
      flagIf (decide (chargeTop < charge)) flagChargeSat ||| d.extra,
    phaseErrors := hold 65535 d.phaseErrors }

/-- The record of a delivery at the sealed rates and the compartment temperature (R110, R111). -/
def State.deliveryRecord (s : State) (d : Delivery) : Record :=
  d.record (s.rate d.comp) (s.surcharge d.costCentre) (s.compTemp d.comp)

/-- What the figures of a RECEIPT record are formed from (R120). -/
structure Receipt where
  comp : CompId
  acc : Accum
  flags : DFlags
  phaseErrors : Nat
  endCause : EndCause
  extra : BitVec 16
  deriving DecidableEq, Repr

/-- The RECEIPT record of a receipt (R112, R118, R120). -/
def Receipt.record (r : Receipt) (t : Temperature) : Record :=
  let net := r.acc.netField
  { kind := 2, comp := BitVec.ofNat 8 r.comp.val, gross := r.acc.grossField, net,
    mean := r.acc.mean t, endCause := BitVec.ofNat 8 r.endCause.code,
    flags := (closingFlags r.flags r.acc t).word ||| flagIf (decide (net < 0)) flagReversed ||| r.extra,
    phaseErrors := hold 65535 r.phaseErrors }

/-- The ADJUST record of a SET_STOCK (R120). -/
def adjustRecord (k : CompId) (before after : Int) : Record :=
  { kind := 3, comp := BitVec.ofNat 8 k.val, gross := before, net := after }

/-! ## Journals (R59, R60, R137) -/

/-- The bytes a hose journal's CRC covers, in the order of R59 (log entry 14). -/
def Journal.bytes (j : Journal) : List Byte :=
  [j.hose, j.comp, j.method] ++ beBytes 3 j.ring.toNat ++ beBytes 2 j.number.toNat ++ [j.costCentre] ++
    beBytes 4 j.preset.toNat ++ beBytes 6 j.gross.toNat ++ [j.gRem] ++ beBytes 6 j.net.toNat ++
    beBytes 3 j.nRem.toNat ++ beBytes 10 j.sumGT.toNat ++ beBytes 8 j.sumG.toNat ++
    beBytes 2 j.flags.toNat ++ beBytes 2 j.phaseErrors.toNat ++ [j.endCause]

/-- The journal with its CRC. -/
def Journal.withCrc (j : Journal) : Journal := { j with crc := crc16 j.bytes }

/-- The accumulators a journal holds. -/
def accumOf (gross : BitVec 48) (gRem : Byte) (net : BitVec 48) (nRem : BitVec 24) (sumGT : BitVec 80)
    (sumG : BitVec 64) : Accum :=
  { gross := gross.toInt, gRem := gRem.toNat, net := net.toInt, nRem := nRem.toNat,
    sumGT := sumGT.toInt, sumG := sumG.toInt,
    satGross := false, satNet := false, satGT := false, satG := false }

/-- The delivery a passing journal closes (R60, R119): INTERRUPTED, with its end cause or INTERRUPTED. -/
def Journal.intact (j : Journal) : Delivery :=
  { hose := j.hose, comp := compOfByte j.comp, method := j.method, ring := j.ring, number := j.number,
    costCentre := j.costCentre, preset := j.preset.toNat,
    acc := accumOf j.gross j.gRem j.net j.nRem j.sumGT j.sumG,
    flags := DFlags.ofWord j.flags, phaseErrors := j.phaseErrors.toNat,
    endCause := if j.endCause = 0 then BitVec.ofNat 8 EndCause.interrupted.code else j.endCause,
    extra := flagInterrupted }

/-- The delivery a JOURNAL_LOST journal closes (R60, R119, R167): identity as the damaged bytes hold it,
the hose by position, zero volumes; the preset and the flags are the model's choice (log entry 16). -/
def Journal.damaged (j : Journal) (n : HoseId) (mapped : CompId) : Delivery :=
  { hose := BitVec.ofNat 8 n.val, comp := (compOf j.comp).getD mapped, method := j.method,
    ring := j.ring, number := j.number, costCentre := j.costCentre, preset := 0,
    acc := Accum.zero, flags := DFlags.clear, phaseErrors := 0,
    endCause := BitVec.ofNat 8 EndCause.interrupted.code,
    extra := flagInterrupted ||| flagJournalLost }

/-- The delivery the seal closes from the journal of a hose. -/
def Journal.delivery (j : Journal) (n : HoseId) (mapped : CompId) : Delivery :=
  if j.lost then j.damaged n mapped else j.intact

/-- The bytes the receipt journal's CRC covers, in the order of R137 (log entry 14). -/
def ReceiptJournal.bytes (j : ReceiptJournal) : List Byte :=
  [j.comp] ++ beBytes 6 j.gross.toNat ++ [j.gRem] ++ beBytes 6 j.net.toNat ++ beBytes 3 j.nRem.toNat ++
    beBytes 10 j.sumGT.toNat ++ beBytes 8 j.sumG.toNat ++ beBytes 2 j.flags.toNat ++
    beBytes 2 j.phaseErrors.toNat ++ [j.permit]

/-- The receipt journal with its CRC. -/
def ReceiptJournal.withCrc (j : ReceiptJournal) : ReceiptJournal := { j with crc := crc16 j.bytes }

/-- The end cause a receipt journal's permit gives (R137). -/
def permitCause (permit : Byte) : EndCause :=
  match permit.toNat with
  | 1 => .highLevel
  | 2 => .hostEnd
  | _ => .interrupted

/-- The receipt the seal closes from its journal (R137, R167). -/
def ReceiptJournal.receipt (j : ReceiptJournal) : Receipt :=
  if j.lost then
    { comp := compOfByte j.comp, acc := Accum.zero, flags := DFlags.clear, phaseErrors := 0,
      endCause := .interrupted, extra := flagInterrupted ||| flagJournalLost }
  else
    { comp := compOfByte j.comp, acc := accumOf j.gross j.gRem j.net j.nRem j.sumGT j.sumG,
      flags := DFlags.ofWord j.flags, phaseErrors := j.phaseErrors.toNat,
      endCause := permitCause j.permit, extra := flagInterrupted }

end Sys2Proof.Machine
end

