-- ==== Sys2Proof/Machine/Stock.lean ====
section
/-! DEFINITION. The stock keeper: books, the restock state, levels and reconciliation, the receipt session
and its journal (09, R127 to R146). -/

namespace Sys2Proof.Machine

/-! ## Books (R127, R128) -/

/-- The bound of a book (R128). -/
def bookBound : Int := 2147483647

/-- A book with its CRC (R127). -/
def bookOf (k : CompId) (value : Int) (isSet : Bool) : Book :=
  { value, isSet, crc := crc16 (bookBytes k.val isSet value) }

/-- A compartment's book written (R127). -/
def State.putBook (k : CompId) (value : Int) (isSet : Bool) (s : State) : State :=
  { s with stock := { s.stock with books := s.stock.books.set k (bookOf k value isSet) } }

/-- A book raised by an amount, held at its bound, with no evaluation (R128). -/
def State.adjustBook (k : CompId) (d : Int) (s : State) : State :=
  s.putBook k (clampInt (-bookBound) bookBound (s.stock.books[k].value + d)) s.stock.books[k].isSet

/-! ## Urgency and the bay (R140) -/

/-- The per mille fill of a compartment (R140). A capacity of 0 or below, which only an unsealed part
can hold, gives a free value (log entry 26). -/
def State.fill (s : State) (k : CompId) : Int :=
  if 0 < s.capacity k then min 1000 (floorDiv (max 0 s.stock.books[k].value) (s.capacity k))
  else (Config.freeBits 16 s.free (100 + k.val)).toNat

/-- The urgency key (R140), before the seal from the capacities loaded so far (log entry 45). -/
def State.urgency (s : State) : Int := min (s.fill 0) (s.fill 1)

/-- Whether the station wants fuel (R140). -/
def State.wantsFuel (s : State) : Bool :=
  allComps.any fun k => decide (s.stock.books[k].value < s.reorder k * 1000)

/-- A pair (key, station number) ranks lower than another (R140). -/
def pairLower (a b : Int × Nat) : Bool := decide (a.1 < b.1) || (decide (a.1 = b.1) && decide (a.2 < b.2))

/-- The own pair (R140). -/
def State.ownPair (s : State) : Int × Nat := (s.urgency, s.station)

/-- The stations 1..16 by index. -/
def allStations : List StationId := (List.range 16).map (Fin.ofNat 16)

/-- The stock fields of the FRESH peers that have them, with their station numbers (R140, R158). -/
def State.peerStocks (s : State) : List (Nat × PeerStock) :=
  allStations.filterMap fun i =>
    match s.link.peers[i] with
    | none => none
    | some p => p.stock.map fun x => (i.val + 1, x)

/-- Whether the bay is busy (R140). -/
def State.bayBusy (s : State) : Bool :=
  s.peerStocks.any fun p => p.2.state == .go || p.2.state == .receiving

/-- Whether the own pair is lower than that of every competing peer (R140, R142). -/
def State.beatsPeers (s : State) : Bool :=
  s.peerStocks.all fun p =>
    !(p.2.state == .want && !p.2.yielding) || pairLower s.ownPair (p.2.key, p.1)

/-- Whether some peer takes the bay from a station in GO (R142). -/
def State.bayTaken (s : State) : Bool :=
  s.peerStocks.any fun p =>
    p.2.state == .receiving || (p.2.state == .go && pairLower (p.2.key, p.1) s.ownPair)

/-! ## The restock state (R141 to R144) -/

/-- A change of the restock state queues the stock subject and posts RESTOCK_STATE (R144). -/
def State.setRestock (r : RestockState) (s : State) : State :=
  if s.stock.restock = r then s
  else
    (State.ask .stock { s with stock := { s.stock with restock := r } }).post .restockState
      (.station s.station) r.code

/-- WANT or NORMAL by the want test (R130, R141, R144). -/
def State.wantOrNormal (s : State) : RestockState := if s.wantsFuel then .want else .normal

/-- The state a restock evaluation gives (R142). -/
def State.evaluated (s : State) : RestockState :=
  match s.stock.restock with
  | .receiving => .receiving
  | .go =>
    if s.wantsFuel then (if s.bayTaken then .want else .go) else .normal
  | .normal | .want =>
    if s.wantsFuel then
      if !s.bayBusy && s.stock.yieldUntil.isNone && s.beatsPeers then .go else .want
    else .normal

/-- The GO hold expiry of a change from a state to another by an evaluation (R142). -/
def State.holdAfter (s : State) (r : RestockState) : Option Nat :=
  if s.stock.restock = r then s.stock.goHold
  else if r = .go then some (s.nowSec + s.goHoldTime)
  else if s.stock.restock = .go then none
  else s.stock.goHold

/-- A restock evaluation (R142). -/
def State.evaluateRestock (s : State) : State :=
  let r := s.evaluated
  { s with stock := { s.stock with goHold := s.holdAfter r } }.setRestock r

/-! ## The receipt journal and the high-level test (R137, R138) -/

/-- The receipt journal of a session (R137). Which bit of its flags field stands for which flag is the model's
choice (log entry 46). -/
def Session.journal (x : Session) : ReceiptJournal :=
  ReceiptJournal.withCrc
    { comp := BitVec.ofNat 8 x.comp.val, gross := BitVec.ofInt 48 x.acc.gross,
      gRem := BitVec.ofInt 8 x.acc.gRem, net := BitVec.ofInt 48 x.acc.net,
      nRem := BitVec.ofInt 24 x.acc.nRem, sumGT := BitVec.ofInt 80 x.acc.sumGT,
      sumG := BitVec.ofInt 64 x.acc.sumG, flags := x.flags.word,
      phaseErrors := BitVec.ofNat 16 x.phaseErrors, permit := BitVec.ofNat 8 x.permit.code,
      crc := 0, lost := false }

/-- The session written, with its journal (R137). -/
def State.putSession (x : Session) (s : State) : State :=
  { s with stock := { s.stock with session := some x, rjournal := some x.journal } }

/-- RPERM: high while the permit is RAISED (R135). -/
def State.rperm (s : State) : Bool :=
  match s.stock.session with
  | none => false
  | some x => x.permit == .raised

/-- The high-fill figure of a compartment, in mL (R138). -/
def State.highFillOf (s : State) (k : CompId) : Int := s.capacity k * s.highFill

/-- The book's figure of the high-level test meets it (R138). -/
def State.highByBook (s : State) (x : Session) : Bool :=
  decide (s.highFillOf x.comp ≤ s.stock.books[x.comp].value + milli x.acc.net)

/-- The gauge's figure of the high-level test meets it (R138). -/
def State.highByGauge (s : State) (x : Session) : Bool :=
  match s.stock.levels[x.comp] with
  | none => false
  | some l => decide (s.highFillOf x.comp ≤ l.gauge)

/-- The permit drops (R138): the value is 0 for BOOK, 1 for GAUGE. -/
def State.dropPermit (x : Session) (byBook : Bool) (s : State) : State :=
  (s.putSession { x with permit := .dropped }).post .highLevel (.comp x.comp) (if byBook then 0 else 1)

/-- The high-level test of a compartment (R138). -/
def State.highLevelTest (k : CompId) (s : State) : State :=
  match s.stock.session with
  | none => s
  | some x =>
    if x.comp = k ∧ x.permit = .raised ∧ (s.highByBook x || s.highByGauge x) = true then
      s.dropPermit x (s.highByBook x)
    else s

/-- A book change with what follows it in the same event (R128): the restock evaluation, then the
high-level test. -/
def State.changeBook (k : CompId) (d : Int) (s : State) : State :=
  ((s.adjustBook k d).evaluateRestock).highLevelTest k

/-! ## Receipt windows and the close (R137, R139) -/

/-- The receipt a closing session records (R139). -/
def Session.receipt (x : Session) : Receipt :=
  { comp := x.comp, acc := x.acc, flags := x.flags, phaseErrors := x.phaseErrors,
    endCause := if x.permit = .dropped then .highLevel else .hostEnd, extra := 0 }

/-- The close of a receipt (R139), the detachment of MR apart. -/
def State.closeReceipt (x : Session) (s : State) : State :=
  let r := x.receipt.record s.receiptTemp
  let seq := s.log.seq
  let s := (s.append r (some holderReceipt)).changeBook x.comp r.net
  let s := { s with stock := { s.stock with session := none, rjournal := none } }
  let s := s.post .receiptClosed (.comp x.comp) seq.toNat
  s.setRestock s.wantOrNormal

/-! ## Expiries (R143) -/

/-- GO_HOLD_EXPIRY (R143). -/
def execGoHoldExpiry (s : State) : Out :=
  .next <|
    match s.stock.goHold with
    | none => s
    | some due =>
      let s := s.reachSec due
      let s := { s with stock := { s.stock with
        goHold := none, yieldUntil := some (s.nowSec + s.goHoldTime) } }
      s.setRestock .want

/-- YIELD_EXPIRY (R143). -/
def execYieldExpiry (s : State) : Out :=
  .next <|
    match s.stock.yieldUntil with
    | none => s
    | some due =>
      let s := s.reachSec due
      (State.ask .stock { s with stock := { s.stock with yieldUntil := none } }).evaluateRestock

/-! ## Levels and reconciliation (R131 to R133) -/

/-- A list with an element placed in rising order. -/
def insertRising : Nat → List Nat → List Nat
  | x, [] => [x]
  | x, y :: rest => if x ≤ y then x :: y :: rest else y :: insertRising x rest

/-- The third smallest of five values (R131). -/
def medianOf (l : List Nat) : Nat := (l.foldr insertRising []).getD 2 0

/-- A level history with a block value: at most the last five (R131). -/
def pushHistory (h : List Nat) (v : Nat) : List Nat :=
  let l := h ++ [v]
  if 5 < l.length then l.drop 1 else l

/-- Level mm of a median (R131). -/
def levelMm (median : Int) (zero span : Int) : Int := max 0 (floorDiv ((median - zero) * span) 4096)

/-- The gauge net of a level (R132). -/
def State.gaugeOf (s : State) (k : CompId) (mm : Int) : Int :=
  floorDiv (curveAt (s.strapping k) mm.toNat * 1000 * vcfOf (s.alphaOf k) (s.compTemp k)) 1000000

/-- Whether reconciliation applies to a compartment (R133). -/
def State.reconciles (s : State) (k : CompId) : Bool :=
  s.stock.parked && s.stock.books[k].isSet && s.stock.session.isNone &&
    allHoses.all fun n => !(s.hoses[n].state.isOpen && decide (s.hoseComp n = k))

/-- Reconciliation of a compartment with a gauge net (R133). -/
def State.reconcile (k : CompId) (gauge : Int) (s : State) : State :=
  if s.reconciles k then
    let v := gauge - s.stock.books[k].value
    let outside := decide (s.varianceTol * 1000 < v.natAbs)
    let was := s.stock.variance[k].outside
    let s := { s with stock := { s.stock with
      variance := s.stock.variance.set k { value := some v, outside } } }
    if outside && !was then s.post .variance (.comp k) (truncDiv v 1000) else s
  else
    { s with stock := { s.stock with
        variance := s.stock.variance.set k { value := none, outside := false } } }

/-- A completed level block handed to the stock keeper (R131). -/
def State.levelBlock (k : CompId) (value : Nat) (s : State) : State :=
  let history := pushHistory s.stock.history[k] value
  let s := { s with stock := { s.stock with history := s.stock.history.set k history } }
  if history.length < 5 then s
  else
    let mm := levelMm (medianOf history) (s.zero k) (s.span k)
    let gauge := s.gaugeOf k mm
    let s := { s with stock := { s.stock with levels := s.stock.levels.set k (some { mm, gauge }) } }
    (s.reconcile k gauge).highLevelTest k

/-! ## SET_STOCK and SET_PARKED (R130, R134) -/

/-- SET_STOCK past its checks (R130). -/
def State.setStock (k : CompId) (value : Int) (s : State) : State :=
  let s := s.append (adjustRecord k s.stock.books[k].value value) none
  let s := s.putBook k value true
  let s := { s with stock := { s.stock with goHold := none } }
  s.setRestock s.wantOrNormal

/-- SET_STOCK (R130). -/
def setStockBody (comp : Byte) (book : BitVec 32) : Body := afterSeal fun s =>
  match compOf comp with
  | none => (s, Reply.refuse .badParam)
  | some k =>
    if 2147483647 < book.toNat then (s, Reply.refuse .badParam)
    else if s.stock.session.isSome then (s, Reply.refuse .wrongState)
    else if s.log.freeCount = 0 then (s, Reply.refuse .logFull)
    else
      (s.setStock k book.toNat, Reply.ok [i32 s.stock.books[k].value, u32 s.log.seq.toNat])

/-- SET_PARKED (R134). -/
def setParkedBody (value : Byte) : Body := afterSeal fun s =>
  if 1 < value.toNat then (s, Reply.refuse .badParam)
  else
    ({ s with stock := { s.stock with parked := value == 1 } }, Reply.ok [flag8 s.stock.parked])

/-! ## RECEIPT_END (R139) -/

/-- RECEIPT_END of an OPEN session (R139). -/
def Session.ended (x : Session) : Session :=
  { x with ending := true, permit := if x.permit = .raised then .ended else x.permit }

/-- RECEIPT_END (R139). -/
def receiptEndBody : Body := afterSeal fun s =>
  match s.stock.session with
  | none => (s, Reply.refuse .wrongState)
  | some x =>
    let net := Reply.ok [i32 (milli x.acc.net)]
    if x.ending then (s, net) else (s.putSession x.ended, net)

/-! ## GET_STOCK (R146) -/

/-- Fields of a temperature and its status (R146). The absent temperature of an input of status NONE is shown as
0, as its row is always present: the model's choice (log entry 43). -/
def Temperature.fields : Temperature → List Field
  | .none => [i16 0, u8 Temperature.none.statusCode]
  | .good t => [i16 t, u8 (Temperature.good t).statusCode]
  | .held t => [i16 t, u8 (Temperature.held t).statusCode]

/-- Seconds left to an expiry. -/
def State.secondsTo (s : State) (due : Nat) : Nat := due - s.nowSec

/-- The rows of GET_STOCK's view, in the order of R146's table. The model's choices: an absent variance, and the
compartment and the permit while the session is NONE, are shown as 0 in rows always present (log entry 43); a
row of parts is present when any part is, and its absent parts are 0 (log entry 44). -/
def State.stockRows (s : State) : List ViewRow :=
  [ .always (allComps.flatMap fun k =>
      [i32 s.stock.books[k].value, u8 (if s.stock.books[k].isSet then 0 else 1)]),
    .always (allComps.map fun k => u32 (s.availableStock k none)),
    .always (allComps.map fun k => u32 (s.compOpenSum k none)),
    ⟨allComps.any fun k => s.stock.levels[k].isSome,
      allComps.flatMap fun k =>
        match s.stock.levels[k] with
        | none => [u16 0, u32 0]
        | some l => [raw16 l.mm, i32 l.gauge]⟩,
    .always (allComps.flatMap fun k =>
      [i32 (s.stock.variance[k].value.getD 0), flag8 s.stock.variance[k].outside]),
    .always (s.sampler.temps.toList.flatMap Temperature.fields),
    .always [u16 s.meters[meterMR].lastRate],
    .always [flag8 s.stock.parked],
    match s.stock.session with
    | none => .always [u8 0, u8 0, u8 0]
    | some x => .always [u8 (if x.ending then 2 else 1), u8 x.comp.val, u8 x.permit.code],
    match s.stock.session with
    | none => ⟨false, [i32 0, i32 0, u32 0, u16 0]⟩
    | some x =>
      ⟨true, [i32 (milli x.acc.gross), i32 (milli x.acc.net), u32 x.flags.viewBits,
        u16 x.phaseErrors]⟩,
    .always [u8 s.stock.restock.code, raw16 s.urgency, flag8 s.stock.yieldUntil.isSome],
    ⟨s.stock.goHold.isSome || s.stock.yieldUntil.isSome,
      [u32 (s.secondsTo (s.stock.goHold.getD s.nowSec)),
        u32 (s.secondsTo (s.stock.yieldUntil.getD s.nowSec))]⟩ ]

/-- GET_STOCK (R146, R173). -/
def getStockBody (page : Byte) : Body := fun s => viewPage page s.stockRows s

/-! ## The commands -/

def execSetStock (tag comp : Byte) (book : BitVec 32) (s : State) : Out :=
  s.command 0x40 tag (setStockBody comp book)

def execReceiptEnd (tag : Byte) (s : State) : Out := s.command 0x42 tag receiptEndBody

def execSetParked (tag value : Byte) (s : State) : Out := s.command 0x43 tag (setParkedBody value)

def execGetStock (tag page : Byte) (s : State) : Out := s.command 0x44 tag (getStockBody page)

end Sys2Proof.Machine
end

