-- ==== Sys2Proof/Machine/Pump.lean ====
section
/-! DEFINITION. The pump drives: claims and the run cycle, grants and the wait queue, demand and duty, and
the stage a hose drives (05, R75 to R85; 03 R54). -/

namespace Sys2Proof.Machine

/-! ## Driven stage and lines (R54, R75) -/

/-- The pump that serves a hose: the one of its compartment (R35). -/
def State.pumpOf (s : State) (n : HoseId) : Pump := s.pumps[s.hoseComp n]

/-- Whether a hose holds a FULL grant. -/
def State.granted (s : State) (n : HoseId) : Bool := (s.pumpOf n).grants[n]

/-- The stage a hose drives (R54): CLOSED in every state except FLOWING. -/
def State.drivenStage (s : State) (n : HoseId) : Stage :=
  match s.hoses[n].state, s.hoses[n].step with
  | .flowing, some st =>
    match st.stage with
    | .closed => .closed
    | .slow => .slow
    | .full => if s.granted n then .full else .slow
  | _, _ => .closed

/-- VSLOWn (R54). -/
def State.vslow (s : State) (n : HoseId) : Bool := s.drivenStage n != .closed

/-- VFULLn (R54). -/
def State.vfull (s : State) (n : HoseId) : Bool := s.drivenStage n == .full

/-- Whether a pump state drives PRUNk high (R75). -/
def PumpState.runs : PumpState → Bool
  | .starting | .running | .runOn => true
  | .off | .fault => false

/-- PRUNk (R75). -/
def State.prun (s : State) (k : CompId) : Bool := s.pumps[k].state.runs

/-- PPWMk: high from the start of the PWM period for the duty (R85). -/
def State.ppwm (s : State) (k : CompId) : Bool :=
  decide (s.pumps[k].pwmStart ≤ s.now) && decide (s.now < s.pumps[k].pwmStart + s.pumps[k].duty)

/-! ## Demand and duty (R84, R85) -/

/-- Whether a claimant asks for flow at SLOW (R84). -/
def State.asksSlow (s : State) (n : HoseId) : Bool :=
  s.hoses[n].state == .priming || (s.hoses[n].state == .flowing && s.drivenStage n == .slow)

/-- The demand a pump's state selects (R84). -/
def State.selectedDemand (s : State) (k : CompId) : Option Demand :=
  match s.pumps[k].state with
  | .off | .fault => none
  | .starting => some .slow
  | .runOn => some .idle
  | .running =>
    if s.pumps[k].grants.toList.any id then some .full
    else if allHoses.any fun n => s.pumps[k].claims[n] && s.asksSlow n then some .slow
    else some .idle

/-- The demand selected anew (R84). -/
def State.reselect (k : CompId) (s : State) : State :=
  s.setPump k { s.pumps[k] with demand := s.selectedDemand k }

/-- A demand's per mille value. -/
def State.demandValue (s : State) : Demand → Nat
  | .full => s.demandFull
  | .slow => s.demandSlow
  | .idle => s.demandIdle

/-- The duty of a demand in µs (R85); 0 with no demand. -/
def State.dutyOf (s : State) : Option Demand → Nat
  | none => 0
  | some d => s.pwmPeriod * s.demandValue d / 1000

/-! ## Grants (R82, R83) -/

/-- The number of grants held. -/
def Pump.grantCount (p : Pump) : Nat := p.grants.toList.countP id

/-- A request for a FULL grant (R82). -/
def Pump.request (maxFull : Nat) (n : HoseId) (p : Pump) : Pump :=
  if p.grantCount < maxFull ∧ p.queue = [] then { p with grants := p.grants.set n true }
  else { p with queue := p.queue ++ [n] }

/-- A freed grant passes to the head of the wait queue (R83). -/
def Pump.passGrant (p : Pump) : Pump :=
  match p.queue with
  | [] => p
  | m :: rest => { p with grants := p.grants.set m true, queue := rest }

/-- A hose gives up its grant or its place in the queue (R83). -/
def Pump.giveUp (n : HoseId) (p : Pump) : Pump :=
  if p.grants[n] then Pump.passGrant { p with grants := p.grants.set n false }
  else { p with queue := p.queue.filter fun m => m ≠ n }

/-! ## Claims and the run cycle (R76 to R79) -/

/-- A pump brought to OFF or FAULT: no claim, grant, queue, expiry or demand, and duty 0 (R75, R80,
R81). -/
def Pump.halted (st : PumpState) (p : Pump) : Pump :=
  { p with
    state := st, claims := Vector.replicate 4 false, grants := Vector.replicate 4 false, queue := [],
    spinUp := none, runOn := none, demand := none, duty := 0 }

/-- A pump without claimants after running: RUN_ON, or OFF when PUMP_RUNON is 0 (R77, R78). -/
def State.runDown (s : State) (p : Pump) : Pump :=
  if 0 < s.pumpRunon then { p with state := .runOn, spinUp := none, runOn := some (s.nowSec + s.pumpRunon) }
  else p.halted .off

/-- A claim joins and moves the pump (R76). -/
def State.claimed (s : State) (n : HoseId) (p : Pump) : Pump :=
  let p := { p with claims := p.claims.set n true }
  match p.state with
  | .off => { p with state := .starting, spinUp := some (s.nowMs + s.pumpSpinup) }
  | .starting => p
  | .running => p
  | .runOn => { p with state := .running, runOn := none }
  | .fault => p

/-- A hose claims the pump of its compartment (R76). -/
def State.claim (n : HoseId) (s : State) : State :=
  let k := s.hoseComp n
  s.setPump k (s.claimed n s.pumps[k])

/-- A claim is released with the grant or place that goes with it (R78). -/
def State.released (s : State) (n : HoseId) (p : Pump) : Pump :=
  let p := p.giveUp n
  let p := { p with claims := p.claims.set n false }
  match p.state with
  | .running => if p.claims.toList.any id then p else s.runDown p
  | .off | .starting | .runOn | .fault => p

/-- A hose releases its claim (R78). -/
def State.release (n : HoseId) (s : State) : State :=
  let k := s.hoseComp n
  s.setPump k (s.released n s.pumps[k])

/-- A hose gives up its grant or place and keeps its claim (R47, R70). -/
def State.dropGrant (n : HoseId) (s : State) : State :=
  let k := s.hoseComp n
  s.setPump k (s.pumps[k].giveUp n)

/-- A hose asks its pump for a FULL grant (R82). -/
def State.requestGrant (n : HoseId) (s : State) : State :=
  let k := s.hoseComp n
  s.setPump k (Pump.request (s.maxFull k) n s.pumps[k])

/-- A pump under an emergency stop or a metrology fault (R81): OFF, or FAULT while its fault input is
asserted. -/
def State.stopPump (k : CompId) (s : State) : State :=
  let p := s.pumps[k]
  s.setPump k (p.halted (if p.state = .fault ∧ s.pins.pflt[k] = true then .fault else .off))

/-! ## Events of a pump -/

/-- RUN_ON_EXPIRY (R79). -/
def execRunOnExpiry (k : CompId) (s : State) : Out :=
  .next <|
    match s.pumps[k].runOn with
    | none => s
    | some due =>
      let s := s.reachSec due
      s.setPump k (s.pumps[k].halted .off)

/-- PWM_PERIOD_START (R75, R85): the duty of the demand in force, for the period that starts. -/
def execPwmPeriodStart (k : CompId) (s : State) : Out :=
  .next <|
    match s.pumps[k].pwmDue with
    | none => s
    | some due =>
      let s := s.reach due
      s.setPump k
        { s.pumps[k] with
          duty := s.dutyOf s.pumps[k].demand
          pwmStart := due
          pwmDue := some (due + s.pwmPeriod) }

/-- PFLT_RELEASE (R80): the pump goes from FAULT to OFF. -/
def execPfltRelease (k : CompId) (s : State) : Out :=
  .next <|
    let s := { s with pins := { s.pins with pflt := s.pins.pflt.set k false } }
    if s.isSealed ∧ s.pumps[k].state = .fault then s.setPump k (s.pumps[k].halted .off) else s

end Sys2Proof.Machine
end

