-- ==== Sys2Proof/Machine/Hose.lean ====
section
/-! DEFINITION. The hose channel: its journal, cancellation, entry to SETTLING, pause, preset changes and
the close of a delivery (03, R35 to R60). -/

namespace Sys2Proof.Machine

/-! ## The context and its journal (R35, R59) -/

/-- The accumulators of a hose; none in the context counts as zero. -/
def Hose.accum (h : Hose) : Accum := h.acc.getD Accum.zero

/-- The code of an end cause, 0 for an absent one. -/
def endCauseByte : Option EndCause → Byte
  | none => 0
  | some c => BitVec.ofNat 8 c.code

/-- The identification a context names; the empty one when there is none. -/
def Hose.identity (h : Hose) : Ident :=
  h.ident.getD { method := .ring, slot := 0, ring := 0, number := 0, costCentre := 0 }

/-- What a closing context records (R53, R119). -/
def Hose.delivery (n : HoseId) (k : CompId) (h : Hose) : Delivery :=
  { hose := BitVec.ofNat 8 n.val, comp := k, method := BitVec.ofNat 8 h.identity.method.code,
    ring := h.identity.ring, number := h.identity.number, costCentre := h.identity.costCentre,
    preset := h.preset.getD 0, acc := h.accum, flags := h.flags, phaseErrors := h.phaseErrors,
    endCause := endCauseByte h.endCause, extra := 0 }

/-- The journal of a context (R59). Which bit of its flags field stands for which flag is the model's choice
(log entry 46), and so are 0 for an absent end cause and the widths (log entry 14). -/
def Hose.toJournal (n : HoseId) (k : CompId) (h : Hose) : Journal :=
  Journal.withCrc
    { hose := BitVec.ofNat 8 n.val, comp := BitVec.ofNat 8 k.val,
      method := BitVec.ofNat 8 h.identity.method.code, ring := h.identity.ring,
      number := h.identity.number, costCentre := h.identity.costCentre,
      preset := BitVec.ofNat 32 (h.preset.getD 0), gross := BitVec.ofInt 48 h.accum.gross,
      gRem := BitVec.ofInt 8 h.accum.gRem, net := BitVec.ofInt 48 h.accum.net,
      nRem := BitVec.ofInt 24 h.accum.nRem, sumGT := BitVec.ofInt 80 h.accum.sumGT,
      sumG := BitVec.ofInt 64 h.accum.sumG, flags := h.flags.word,
      phaseErrors := BitVec.ofNat 16 h.phaseErrors, endCause := endCauseByte h.endCause, crc := 0,
      lost := false }

/-- The journal of a hose written or rewritten from its context (R59). -/
def State.writeJournal (n : HoseId) (s : State) : State :=
  s.setHose n { s.hoses[n] with journal := some (s.hoses[n].toJournal n (s.hoseComp n)) }

/-- Remaining volume: preset less delivered mL (R108). -/
def Hose.remaining (h : Hose) : Int := (h.preset.getD 0 : Nat) - h.accum.delivered

/-- A pending preset becomes the preset (R49). -/
def Hose.applyPending (h : Hose) : Hose :=
  match h.pendingPreset with
  | none => h
  | some p => { h with preset := some p, pendingPreset := none }

def State.applyPending (n : HoseId) (s : State) : State := s.setHose n s.hoses[n].applyPending

/-! ## Where a hose comes to rest -/

/-- FINISHED with the seat line asserted, IDLE with it released (R36, R42, R53). -/
def State.restState (s : State) (n : HoseId) : HoseState :=
  if s.pins.seat[n] then .finished else .idle

/-- The context is discarded and the hose comes to rest. -/
def State.toRest (n : HoseId) (s : State) : State :=
  s.setHose n (Hose.bare (s.restState n) s.hoses[n].journal)

/-! ## Cancellation (R42) -/

/-- What the cancellation of an ARMED hose gives up: its log slot, and its reservation at the peers. -/
def State.disarm (n : HoseId) (s : State) : State :=
  (s.setReserved (holderOf n) false).ask (.machine s.hoses[n].identity.ring)

/-- The cancellation of a hose in IDENTIFIED, UNIDENTIFIED or ARMED (R42). -/
def State.cancel (n : HoseId) (s : State) : State :=
  if s.hoses[n].state = .armed then (s.disarm n).toRest n else s.toRest n

/-! ## Entry to SETTLING (R51) -/

/-- Whether the window in flight of a hose's channel has its expiry time still to come (R52). An event that
falls together with the expiry and is taken first finds the window at its end (R74, R168; log entry 8). -/
def State.inWindow (s : State) (n : HoseId) : Bool :=
  s.meters[meterOf n].due.any fun due => s.now < due

/-- The context at its entry to SETTLING (R51), during the window in flight or not (R52). -/
def Hose.settled (cause : EndCause) (during : Bool) (h : Hose) : Hose :=
  { h with
    state := .settling, endCause := some cause, pauseExpiry := none, settleCount := 0, quietRun := 0,
    settleFresh := during, step := none }

/-- A hose enters SETTLING with a cause (R51): grant, place and claim given up, journal rewritten. -/
def State.enterSettling (n : HoseId) (cause : EndCause) (s : State) : State :=
  let s := s.release n
  let s := (s.setHose n (s.hoses[n].settled cause (s.inWindow n))).writeJournal n
  s.reselect (s.hoseComp n)

/-! ## Pause (R47) -/

/-- The context at a pause (R47): the step state is frozen as it stands (R71). -/
def Hose.paused (expiry : Nat) (h : Hose) : Hose :=
  { h with state := .paused, pauseExpiry := some expiry }

/-- A deadman release in PRIMING or FLOWING (R47). -/
def State.pause (n : HoseId) (s : State) : State :=
  let s := s.dropGrant n
  let s := s.setHose n (s.hoses[n].paused (s.nowSec + s.pauseMax))
  s.reselect (s.hoseComp n)

/-! ## The close of a delivery (R53) -/

/-- A meter channel detached: its next window is stray (R91). -/
def State.detach (m : MeterId) (s : State) : State :=
  s.setMeter m { s.meters[m] with attach := .stray }

/-- The close of a delivery at a settling window expiry (R53). -/
def State.closeDelivery (n : HoseId) (s : State) : State :=
  let k := s.hoseComp n
  let r := s.deliveryRecord (s.hoses[n].delivery n k)
  let ring := s.hoses[n].identity.ring
  let seq := s.log.seq
  let s := s.append r (some (holderOf n))
  let s := (s.credit ring r.net).changeBook k (-r.net)
  let s := s.setHose n { s.hoses[n] with journal := none }
  let s := s.detach (meterOf n)
  let s := s.post .deliveryClosed (.hose n) seq.toNat
  s.toRest n

/-- A settling window counted, and the close when settling ends (R52). A window during which the hose
entered SETTLING is not counted (R52); one whose expiry fell together with the entry is (R74, R168; log
entry 8). -/
def State.settleWindow (n : HoseId) (c : Int) (s : State) : State :=
  let h := s.hoses[n]
  if h.settleFresh then s
  else
    let count := h.settleCount + 1
    let quiet := if c = 0 then h.quietRun + 1 else 0
    let s := s.setHose n { h with settleCount := count, quietRun := quiet }
    if s.settleQuiet ≤ quiet ∨ s.settleMax ≤ count then s.closeDelivery n else s

/-! ## Identification (R39) -/

/-- The hose leaves READING for IDENTIFIED (R39). -/
def State.identified (n : HoseId) (i : Ident) (limit : Nat) (s : State) : State :=
  let h := s.hoses[n]
  (s.setHose n
    { h with
      state := .identified, reason := none, ident := some i, lookupLimit := some limit,
      armExpiry := some (s.nowSec + s.armTtl) }).post .hoseIdentified (.hose n) limit

/-- The hose leaves READING for UNIDENTIFIED (R39). -/
def State.unidentified (n : HoseId) (reason : UnidReason) (s : State) : State :=
  let h := s.hoses[n]
  (s.setHose n { h with state := .unidentified, reason := some reason, ident := none }).post
    .hoseUnidentified (.hose n) reason.code

/-! ## Emergency stop and metrology fault (R55, R57) -/

/-- PRIMING, FLOWING and PAUSED hoses settle. -/
def State.activeHoses (s : State) : List HoseId := allHoses.filter fun n => s.hoses[n].state.isActive

/-- IDENTIFIED and ARMED hoses are cancelled. -/
def State.cancellable (s : State) : List HoseId :=
  allHoses.filter fun n => s.hoses[n].state == .identified || s.hoses[n].state == .armed

/-- The response of hoses and pumps to an emergency stop or a metrology fault (R55 steps 2 to 5, R57,
R81). -/
def State.stopAll (cause : EndCause) (s : State) : State :=
  let settling := s.activeHoses
  let cancelled := s.cancellable
  let s := s.forEach allComps State.stopPump
  let s := s.forEach settling fun n => State.enterSettling n cause
  s.forEach cancelled State.cancel

/-- How many hoses the response reaches (R55 step 6). -/
def State.stopCount (s : State) : Nat := s.activeHoses.length + s.cancellable.length

/-- An emergency-stop assertion acting on a sealed part (R55). -/
def State.emergencyStop (s : State) : State :=
  (State.stopAll .estop { s with estopLatch := true }).post .estop .part s.stopCount

/-- A pump enters FAULT (R58, R80). -/
def State.pumpFault (k : CompId) (s : State) : State :=
  let settling := s.activeHoses.filter fun n => decide (s.hoseComp n = k)
  let s := s.setPump k (s.pumps[k].halted .fault)
  (s.forEach settling fun n => State.enterSettling n .pumpFault).post .pumpFault (.comp k)
    settling.length

end Sys2Proof.Machine
end

