-- ==== Sys2Proof/Machine/Profile.lean ====
section
/-! DEFINITION. The profile engine: step conditions, counting, transitions, the stage handed over, and
entry to FLOWING (04, R62 to R74; 03 R45, R48). -/

namespace Sys2Proof.Machine

/-! ## Conditions and counting (R64, R67) -/

/-- Whether a step's condition is met (R64). -/
def Condition.met (delivered remaining : Int) (st : StepState) : Condition → Bool
  | .deliveredAtLeast v => decide ((v : Int) ≤ delivered)
  | .remainingAtMost v => decide (remaining ≤ (v : Int))
  | .elapsed n => decide (n ≤ st.elapsed)
  | .stall n _ => decide (n ≤ st.stall)
  | .never => false

/-- The stall count after a window of a rate (R67). -/
def Condition.stallAfter (rate stall : Nat) : Condition → Nat
  | .stall _ r => if rate < r then hold 255 (stall + 1) else 0
  | .deliveredAtLeast _ | .remainingAtMost _ | .elapsed _ | .never => 0

/-- The condition of a step; a step the profile does not have is never met. -/
def condOf (p : List ProfileStep) (i : Nat) : Condition :=
  match p[i]? with
  | none => .never
  | some x => x.cond

/-- The stage of a step; CLOSED for a step the profile does not have. -/
def stageOf (p : List ProfileStep) (i : Nat) : Stage :=
  match p[i]? with
  | none => .closed
  | some x => x.stage

/-- Where a step leads; END for a step the profile does not have. -/
def nextOf (p : List ProfileStep) (i : Nat) : Option Nat :=
  match p[i]? with
  | none => none
  | some x => x.next

/-- The window counted for the step in force (R67). -/
def StepState.counted (p : List ProfileStep) (rate : Nat) (st : StepState) : StepState :=
  { st with
    elapsed := hold 65535 (st.elapsed + 1)
    stall := (condOf p st.index).stallAfter rate st.stall }

/-- A step entry (R66): the handed stage stays. -/
def StepState.enter (p : List ProfileStep) (i : Nat) (st : StepState) : StepState :=
  { st with index := i, stage := stageOf p i, elapsed := 0, stall := 0 }

/-! ## Transitions (R69) -/

/-- Where an evaluation's step tests end. -/
inductive ChainEnd where
  | stays (st : StepState)
  | ended
  | looped
  deriving DecidableEq, Repr

/-- The transitions of an evaluation, at most `fuel` (R69). -/
def chain (p : List ProfileStep) (delivered remaining : Int) : Nat → StepState → ChainEnd
  | 0, st => if (condOf p st.index).met delivered remaining st then .looped else .stays st
  | fuel + 1, st =>
    if (condOf p st.index).met delivered remaining st then
      match nextOf p st.index with
      | none => .ended
      | some i => chain p delivered remaining fuel (st.enter p i)
    else .stays st

/-- The transitions one evaluation may make (R69). -/
def maxTransitions : Nat := 8

/-! ## The stage handed over (R70, R72) -/

/-- The step stage is handed to the valve and the pump at the end of an evaluation (R70). -/
def State.handOver (n : HoseId) (st : StepState) (s : State) : State :=
  let s := s.setHose n { s.hoses[n] with step := some { st with handed := st.stage } }
  let s :=
    if st.handed ≠ .full ∧ st.stage = .full then s.requestGrant n
    else if st.handed = .full ∧ st.stage ≠ .full then s.dropGrant n
    else s
  s.reselect (s.hoseComp n)

/-- Step 0 of a profile, entered. -/
def firstStep (p : List ProfileStep) : StepState :=
  { index := 0, stage := stageOf p 0, handed := stageOf p 0, elapsed := 0, stall := 0 }

/-- The step state at an entry to FLOWING (R45, R72): the frozen step on a resume, else step 0. -/
def Hose.flowingStep (p : List ProfileStep) (h : Hose) : StepState :=
  match h.beenFlowing, h.step with
  | true, some st => { st with handed := st.stage }
  | _, _ => firstStep p

/-- A hose enters FLOWING (R45, R72). -/
def State.enterFlowing (n : HoseId) (s : State) : State :=
  let h := s.hoses[n]
  let st := h.flowingStep (s.profileOf n)
  let s := s.setHose n
    { h with state := .flowing, beenFlowing := true, pauseExpiry := none, step := some st }
  let s := if st.stage = .full then s.requestGrant n else s
  s.reselect (s.hoseComp n)

/-! ## Evaluation at a window expiry (R68) -/

/-- What follows the hard stop check (R68 steps 4 and 5). -/
def State.stepTest (n : HoseId) (st : StepState) (s : State) : State :=
  let h := s.hoses[n]
  match chain (s.profileOf n) h.accum.delivered h.remaining maxTransitions st with
  | .ended => s.enterSettling n .profileEnd
  | .looped => s.enterSettling n .profileLoop
  | .stays st => s.handOver n st

/-- The evaluation of a FLOWING hose at a window of a rate (R68). -/
def State.evaluateHose (n : HoseId) (rate : Nat) (s : State) : State :=
  let s := s.applyPending n
  match s.hoses[n].step with
  | none => s
  | some st =>
    if s.hoses[n].remaining ≤ 0 then s.enterSettling n .presetReached
    else s.stepTest n (st.counted (s.profileOf n) rate)

/-! ## SPIN_UP_EXPIRY (R77) -/

/-- Claimants of a pump that are PRIMING, in number order (R77). -/
def State.primingClaimants (s : State) (k : CompId) : List HoseId :=
  allHoses.filter fun n => s.pumps[k].claims[n] && s.hoses[n].state == .priming

/-- The pump at its spin-up expiry (R77). -/
def State.spunUp (k : CompId) (s : State) : State :=
  let p := { s.pumps[k] with spinUp := none }
  if p.claims.toList.any id then
    (s.setPump k { p with state := .running }).forEach (s.primingClaimants k) State.enterFlowing
  else s.setPump k (s.runDown p)

/-- SPIN_UP_EXPIRY (R77). -/
def execSpinUpExpiry (k : CompId) (s : State) : Out :=
  .next <|
    match s.pumps[k].spinUp with
    | none => s
    | some due => ((s.reachMs due).spunUp k).reselect k

end Sys2Proof.Machine
end

