-- ==== Sys2Proof/Machine/Meter.lean ====
section
/-! DEFINITION. The meter channels: counting, windows and their owners, stray flow, and the receipt
commands that attach MR (06, R86 to R99; 03 R46; 09 R136, R137). -/

namespace Sys2Proof.Machine

/-! ## Counting (R88, R89) -/

/-- The place of a pair of levels in the cycle low-low, A high, both high, B high (R88). -/
def phasePlace : Bool × Bool → Nat
  | (false, false) => 0
  | (true, false) => 1
  | (true, true) => 2
  | (false, true) => 3

/-- What an observation shows (R88). -/
inductive PhaseChange where
  | none | forward | backward | both
  deriving DecidableEq, Repr

/-- The change from one pair of levels to another (R88). -/
def phaseChange (old new : Bool × Bool) : PhaseChange :=
  match (phasePlace new + 4 - phasePlace old) % 4 with
  | 0 => .none
  | 1 => .forward
  | 2 => .both
  | _ => .backward

/-- The bound of a window count (R89). -/
def countBound : Nat := 32767

/-- A transition counted: a saturated window keeps its bound (R88, R89). -/
def Meter.countBy (d : Int) (m : Meter) : Meter :=
  if m.sat then m else { m with count := m.count + d, sat := decide ((m.count + d).natAbs = countBound) }

/-- An observation's effect on the window in flight (R88). -/
def Meter.observe (new : Bool × Bool) (m : Meter) : Meter :=
  match m.levels with
  | none => { m with levels := some new }
  | some old =>
    match phaseChange old new with
    | .none => m
    | .forward => Meter.countBy 1 { m with levels := some new }
    | .backward => Meter.countBy (-1) { m with levels := some new }
    | .both => { m with levels := some new, phaseErr := count16 m.phaseErr }

/-- The sampling interval of the phase lines, 2 µs (R88). -/
def observationMicros : Nat := 2

/-- PHASE_LINE_OBSERVATION (R88): before the seal only the lines move. -/
def execPhaseLineObservation (m : MeterId) (a b : Bool) (s : State) : Out :=
  .next <|
    let s := { s with pins := { s.pins with phase := s.pins.phase.set m (a, b) } }
    match s.meters[m].obsDue with
    | none => s
    | some due =>
      let s := s.reach due
      s.setMeter m
        { Meter.observe (a, b) s.meters[m] with obsDue := some (due + observationMicros) }

/-! ## The window's figures (R90 steps 1 and 2) -/

/-- What a window hands over: count, saturated mark, phase errors, rate and meter factor. -/
structure Window where
  count : Int
  sat : Bool
  phaseErr : Nat
  rate : Nat
  mf : Int
  deriving DecidableEq, Repr

/-- The figures of the window in flight (R90, R93, R94). -/
def State.windowOf (s : State) (m : MeterId) : Window :=
  let c := s.meters[m]
  let cal := s.metro.meters[m]
  let rate := rateOf c.count cal.nf
  { count := c.count, sat := c.sat, phaseErr := c.phaseErr, rate, mf := cal.factor rate }

/-- The rate becomes the channel's last rate (R90 step 2). -/
def State.noteRate (m : MeterId) (rate : Nat) (s : State) : State :=
  s.setMeter m { s.meters[m] with lastRate := rate }

/-- A new window starts (R90 step 4, R92 step 4). -/
def State.nextWindow (m : MeterId) (due : Nat) (s : State) : State :=
  s.setMeter m { s.meters[m] with count := 0, sat := false, phaseErr := 0, due := some due }

/-! ## Delivery windows (R46) -/

/-- The arithmetic of a delivery window on the context (R46 step 1). -/
def State.windowContext (s : State) (n : HoseId) (w : Window) : Hose :=
  let h := s.hoses[n]
  let k := s.hoseComp n
  let t := s.compTemp k
  let gross := grossStep w.count w.mf h.accum.gRem
  let net := netStep gross.whole (vcfOf (s.alphaOf k) t) h.accum.nRem
  let acc := h.accum.window gross net t.used
  { h with
    acc := some acc
    flags := ((h.flags.markOverspeed w.sat).markOverflow (h.accum.newlySaturated acc)).markTemperature
      gross.whole t
    phaseErrors := hold 65535 (h.phaseErrors + w.phaseErr) }

/-- The fault a delivery window shows, from the context before and after it (R46 step 2). -/
def windowFault (w : Window) (before after : Hose) : Option EndCause :=
  if w.sat then some .overspeed
  else if before.accum.newlySaturated after.accum then some .overflow
  else if 3 < after.phaseErrors then some .meterFault
  else none

/-- The state work of a hose that waits (R46 step 3, PRIMING and PAUSED). -/
def State.waitingWork (n : HoseId) (s : State) : State :=
  let s := s.applyPending n
  if s.hoses[n].remaining ≤ 0 then s.enterSettling n .presetReached else s

/-- The state work of a window (R46 step 3) by the state the hose was in. -/
def State.stateWork (n : HoseId) (w : Window) (st : HoseState) (s : State) : State :=
  match st with
  | .flowing => s.evaluateHose n w.rate
  | .priming => s.waitingWork n
  | .paused => s.waitingWork n
  | .settling => (s.applyPending n).settleWindow n w.count
  | .offline | .idle | .reading | .identified | .unidentified | .armed | .finished => s

/-- The end of a delivery window (R46 step 4): the journal is rewritten unless the delivery closed, and
the window in which the hose entered SETTLING is over (R52). -/
def State.endWindow (n : HoseId) (s : State) : State :=
  if s.hoses[n].state.isActive || s.hoses[n].state == .settling then
    (s.setHose n { s.hoses[n] with settleFresh := false }).writeJournal n
  else s

/-- A delivery window (R46). -/
def State.deliveryWindow (n : HoseId) (w : Window) (s : State) : State :=
  let before := s.hoses[n]
  let after := s.windowContext n w
  let s := s.setHose n after
  let s :=
    match windowFault w before after, before.state with
    | some _, .settling => s.stateWork n w before.state
    | some cause, _ => s.enterSettling n cause
    | none, _ => s.stateWork n w before.state
  s.endWindow n

/-! ## Stray windows (R96 to R99) -/

/-- A stray episode after a window of a count (R98). -/
def StrayAcc.episodeAfter (quietMax : Nat) (c : Int) (a : StrayAcc) : StrayAcc :=
  if a.episode then
    if c = 0 then { a with quiet := a.quiet + 1, episode := decide (a.quiet + 1 < quietMax) }
    else { a with quiet := 0 }
  else if c = 0 then a
  else { a with episode := true, quiet := 0 }

/-- Whether a window opens an episode (R98). -/
def StrayAcc.opens (c : Int) (a : StrayAcc) : Bool := !a.episode && decide (c ≠ 0)

/-- The episode's work of a stray window (R98, R99). -/
def State.strayEpisode (m : MeterId) (kind : EventKind) (subject : EventSubject) (c : Int)
    (s : State) : State :=
  let a := s.meters[m].stray
  let s := s.setMeter m { s.meters[m] with stray := a.episodeAfter s.settleQuiet c }
  if a.opens c then s.post kind subject c else s

/-- The whole millilitres of a residue (R97). -/
def strayMl (residue : Int) : Int := truncDiv residue 1000

/-- A stray window of M0–M3 (R96 to R98): gross and net into the residue, whole millilitres to the book,
then the episode. -/
def State.strayWindow (n : HoseId) (w : Window) (s : State) : State :=
  let m := meterOf n
  let k := s.hoseComp n
  let a := s.meters[m].stray
  let gross := grossStep w.count w.mf a.gRem
  let net := netStep gross.whole (vcfOf (s.alphaOf k) (s.compTemp k)) a.nRem
  let residue := a.residue + net.whole
  let ml := strayMl residue
  let s := s.setMeter m
    { s.meters[m] with
      stray := { a with gRem := gross.rem, nRem := net.rem, residue := residue - 1000 * ml } }
  let s := if ml = 0 then s else s.changeBook k (-ml)
  s.strayEpisode m .strayFlow (.hose n) w.count

/-- A stray window of MR (R99). -/
def State.receiptStray (w : Window) (s : State) : State :=
  s.strayEpisode meterMR .receiptStray .none w.count

/-- A window accounted as stray (R90 step 3, R92 step 2). -/
def State.accountStray (m : MeterId) (w : Window) (s : State) : State :=
  match hoseOfMeter m with
  | some n => s.strayWindow n w
  | none => s.receiptStray w

/-! ## Receipt windows (R112, R137) -/

/-- The arithmetic of a receipt window on the session (R112, R137). -/
def State.windowSession (s : State) (x : Session) (w : Window) : Session :=
  let t := s.receiptTemp
  let gross := grossStep w.count w.mf x.acc.gRem
  let net := netStep gross.whole (vcfOf (s.alphaOf x.comp) t) x.acc.nRem
  let acc := x.acc.window gross net t.used
  { x with
    acc
    flags := ((x.flags.markOverspeed w.sat).markOverflow (x.acc.newlySaturated acc)).markTemperature
      gross.whole t
    phaseErrors := hold 65535 (x.phaseErrors + w.phaseErr) }

/-- A window of an OPEN or ENDING session (R137): the high-level test, and the close of an ENDING one. -/
def State.receiptWindow (w : Window) (s : State) : State :=
  match s.stock.session with
  | none => s
  | some x =>
    let x := s.windowSession x w
    if x.ending then (s.putSession x).closeReceipt x |>.detach meterMR
    else (s.putSession x).highLevelTest x.comp

/-! ## The window expiry and the window restart (R90, R92) -/

/-- A window goes to its owner (R90 step 3). -/
def State.account (m : MeterId) (w : Window) (s : State) : State :=
  match s.meters[m].attach, hoseOfMeter m with
  | .stray, _ => s.accountStray m w
  | .delivery, some n => s.deliveryWindow n w
  | .delivery, none => s
  | .receipt, _ => s.receiptWindow w

/-- The expiry of a stray window applies a pending preset of an ARMED hose (R49). -/
def State.applyArmed (m : MeterId) (s : State) : State :=
  match hoseOfMeter m with
  | none => s
  | some n => if s.hoses[n].state = .armed then s.applyPending n else s

/-- WINDOW_EXPIRY (R90). -/
def execWindowExpiry (m : MeterId) (s : State) : Out :=
  .next <|
    match s.meters[m].due with
    | none => s
    | some due =>
      let s := (s.reach due).applyArmed m
      let w := s.windowOf m
      ((s.noteRate m w.rate).account m w).nextWindow m (due + Config.windowMicros)

/-- A window restart (R92): the window in flight is accounted as stray, and a new one starts with an
owner. -/
def State.windowRestart (m : MeterId) (owner : Attachment) (s : State) : State :=
  let w := s.windowOf m
  let s := (s.noteRate m w.rate).accountStray m w
  let s := s.setMeter m { s.meters[m] with attach := owner }
  s.nextWindow m (s.now + Config.windowMicros)

/-! ## RECEIPT_BEGIN (R136) -/

/-- A session as RECEIPT_BEGIN opens it (R136 step 2). -/
def Session.opened (k : CompId) : Session :=
  { ending := false, comp := k, acc := Accum.zero, flags := DFlags.clear, phaseErrors := 0,
    permit := .raised }

/-- RECEIPT_BEGIN past its checks (R136, R144). -/
def State.beginReceipt (k : CompId) (s : State) : State :=
  let s := s.setReserved holderReceipt true
  let s := s.windowRestart meterMR .receipt
  let s := s.putSession (Session.opened k)
  let s := { s with stock := { s.stock with goHold := none, yieldUntil := none } }
  (s.setRestock .receiving).highLevelTest k

/-- RECEIPT_BEGIN (R136). -/
def receiptBeginBody (comp : Byte) : Body := afterSeal fun s =>
  match compOf comp with
  | none => (s, Reply.refuse .badParam)
  | some k =>
    if s.stock.session.isSome then (s, Reply.refuse .wrongState)
    else if s.stock.books[k].isSet = false then (s, Reply.refuse .stockUnset)
    else if s.log.freeCount = 0 then (s, Reply.refuse .logFull)
    else
      let t := s.beginReceipt k
      (t, Reply.ok [u32 t.log.freeCount])

def execReceiptBegin (tag comp : Byte) (s : State) : Out :=
  s.command 0x41 tag (receiptBeginBody comp)

end Sys2Proof.Machine
end

