-- ==== Sys2Proof/Machine/Reader.lean ====
section
/-! DEFINITION. The ring readers: baseline passes, read tries, their classification and their outcome (01,
R1 to R15). -/

namespace Sys2Proof.Machine

/-- A pad's slot, 2 ms in µs (R3). -/
def padSlot : Nat := 2000

/-- The readers' period, 2 s in µs (R2). -/
def readerPeriod : Nat := 2 * Config.second

/-! ## Baselines (R3, R5) -/

/-- A good measurement: 1..65534 (R3). -/
def goodCount (c : Nat) : Bool := decide (1 ≤ c) && decide (c ≤ 65534)

/-- What the part does with a pad line: STOPPED drives none (R1); the pad being measured is discharged, charged
and counted, and every other pad is held discharged (R3). -/
inductive PadDrive where
  | undriven | measured | discharged
  deriving DecidableEq, Repr

/-- PADn p: the drive of a pad by its reader's state and pad index (R1, R3). -/
def Reader.padDrive (r : Reader) (p : Fin 24) : PadDrive :=
  match r.state with
  | .stopped => .undriven
  | .waiting => .discharged
  | .refreshing | .reading => if r.pad = p.val then .measured else .discharged

/-- The drive of pad p of the nozzle of hose n (R1, R3). -/
def State.padDrive (s : State) (n : HoseId) (p : Fin 24) : PadDrive := s.readers[n].padDrive p

/-- A pad's baseline after a measurement of a pass (R5). -/
def baselineAfter (old : Option Nat) (c : Nat) : Option Nat :=
  if goodCount c then
    match old with
    | none => some c
    | some b => some ((3 * b + c) / 4)
  else old

/-! ## A try (R8 to R10) -/

/-- What a pad shows (R8). -/
inductive Pad where
  | one | zero | unsure
  deriving DecidableEq, Repr

/-- A pad's class from its count and baseline (R8). -/
def classify (lo hi : Nat) (baseline : Option Nat) (c : Nat) : Pad :=
  match baseline with
  | none => .unsure
  | some b =>
    if goodCount c then
      let q := c * 256 / b
      if hi ≤ q then .one else if q ≤ lo then .zero else .unsure
    else .unsure

/-- The pattern with each unsure pad taken as a value. -/
def patternWith (v : Bool) (pads : List Pad) : List Bool :=
  pads.map fun p => match p with
    | .one => true
    | .zero => false
    | .unsure => v

/-- The weight resolved (R9): the pattern, or the reason the try fails. -/
def resolveWeight (pads : List Pad) : Except UnidReason (List Bool) :=
  let u := pads.countP fun p => p = .unsure
  let sure := pads.countP fun p => p = .one
  if 2 ≤ u then .error .unreadable
  else if u = 1 ∧ sure = 8 then .ok (patternWith true pads)
  else if u = 1 ∧ sure = 9 then .ok (patternWith false pads)
  else if u = 0 ∧ sure = 9 then .ok (patternWith false pads)
  else .error .weight

/-- The canonical rotation (R10): ring ID and orientation, or SYMMETRIC. -/
def canonical (bits : List Bool) : Except UnidReason (BitVec 24 × Nat) :=
  let least := leastRotation bits
  let values := rotationValues bits
  if values.count least = 1 then .ok (BitVec.ofNat 24 least, values.findIdx fun v => v == least)
  else .error .symmetric

/-- The outcome of a try's counts (R8 to R10). -/
def tryOutcome (lo hi : Nat) (baseline : List (Option Nat)) (counts : List Nat) :
    Except UnidReason (BitVec 24 × Nat) :=
  match resolveWeight ((baseline.zip counts).map fun p => classify lo hi p.1 p.2) with
  | .error e => .error e
  | .ok bits => canonical bits

/-! ## The reader's states (R1, R2, R7, R12, R13) -/

/-- A reader that returns to WAITING: nothing measured in flight. -/
def Reader.waiting (r : Reader) : Reader :=
  { r with state := .waiting, pad := 0, counts := [], slotDue := none }

/-- A reader that measures from pad 0. -/
def Reader.measuring (st : ReaderState) (now : Nat) (r : Reader) : Reader :=
  { r with state := st, pad := 0, counts := [], slotDue := some (now + padSlot) }

/-- The end of a read in failure (R12): the result is recorded and the hose is UNIDENTIFIED. -/
def State.readFailed (n : HoseId) (reason : UnidReason) (s : State) : State :=
  let r := s.readers[n]
  (s.setReader n { r.waiting with last := some (.failed reason r.tryNo) }).unidentified n reason

/-- The end of a read that succeeds (R11): the result is recorded, and the lookup decides. -/
def State.readSucceeded (n : HoseId) (ring : BitVec 24) (orientation : Nat) (s : State) : State :=
  let r := s.readers[n]
  let s := s.setReader n { r.waiting with last := some (.ring ring orientation r.tryNo) }
  match s.ringLookup ring (s.hoseComp n) with
  | .found i limit => s.identified n i limit
  | .refused reason => s.unidentified n reason

/-- The end of a try (R10 to R12). -/
def State.endTry (n : HoseId) (counts : List Nat) (s : State) : State :=
  let r := s.readers[n]
  match tryOutcome s.tLo s.tHi r.baseline.toList counts with
  | .ok (ring, orientation) => s.readSucceeded n ring orientation
  | .error reason =>
    if r.tryNo < s.readTries then
      s.setReader n { Reader.measuring .reading s.now r with tryNo := r.tryNo + 1 }
    else s.readFailed n reason

/-- A read starts (R6, R7): a pass in flight is abandoned; an invalid baseline ends it at once. -/
def State.startRead (n : HoseId) (s : State) : State :=
  let s := s.setHose n { s.hoses[n] with state := .reading }
  let r := { s.readers[n] with last := none, tryNo := 1 }
  if r.baseline.toList.all Option.isSome then s.setReader n (Reader.measuring .reading s.now r)
  else (s.setReader n { r with state := .reading }).readFailed n .noBaseline

/-- A read is abandoned (R13, R14): no result. -/
def State.abandonRead (n : HoseId) (s : State) : State := s.setReader n s.readers[n].waiting

/-- The conditions of a baseline pass (R2). -/
def State.passStarts (s : State) (n : HoseId) : Bool :=
  s.readers[n].state == .waiting && !s.pins.seat[n] &&
    (s.hoses[n].state == .idle || s.hoses[n].state == .finished)

/-- A reader's period expiry at a time (R2). -/
def State.readerPeriodAt (due : Nat) (n : HoseId) (s : State) : State :=
  let r := { s.readers[n] with periodDue := some (due + readerPeriod) }
  s.setReader n (if s.passStarts n then Reader.measuring .refreshing s.now r else r)

/-- PERIOD_EXPIRY (R2). -/
def execPeriodExpiry (n : HoseId) (s : State) : Out :=
  .next <|
    match s.readers[n].periodDue with
    | none => s
    | some due => (s.reach due).readerPeriodAt due n

/-! ## PAD_MEASUREMENT (R3 to R5, R7) -/

/-- A measurement of a pass (R4, R5). -/
def State.passMeasured (n : HoseId) (due count : Nat) (s : State) : State :=
  let r := s.readers[n]
  let baseline :=
    if h : r.pad < 24 then r.baseline.set r.pad (baselineAfter r.baseline[r.pad] count)
    else r.baseline
  let r : Reader := { r with baseline }
  s.setReader n
    (if 23 ≤ r.pad then r.waiting else { r with pad := r.pad + 1, slotDue := some (due + padSlot) })

/-- A measurement of a try (R7). -/
def State.tryMeasured (n : HoseId) (due count : Nat) (s : State) : State :=
  let r := s.readers[n]
  let counts := r.counts ++ [count]
  if 23 ≤ r.pad then s.endTry n counts
  else
    s.setReader n { r with counts, pad := r.pad + 1, slotDue := some (due + padSlot) }

/-- PAD_MEASUREMENT (R3): the end of a pad's slot. -/
def execPadMeasurement (n : HoseId) (count : BitVec 16) (s : State) : Out :=
  .next <|
    match s.readers[n].slotDue with
    | none => s
    | some due =>
      let s := s.reach due
      match s.readers[n].state with
      | .refreshing => s.passMeasured n due count.toNat
      | .reading => s.tryMeasured n due count.toNat
      | .stopped | .waiting => s

end Sys2Proof.Machine
end

