-- ==== Sys2Proof/Machine/Nozzle.lean ====
section
/-! DEFINITION. The events of the nozzle, emergency-stop and pump fault lines, the hose's expiries, and the
hose commands (03, R36 to R61; 05 R76, R80). -/

namespace Sys2Proof.Machine

/-! ## The seat line (R37) -/

/-- The level of a seat line. -/
def State.setSeat (n : HoseId) (b : Bool) (s : State) : State :=
  { s with pins := { s.pins with seat := s.pins.seat.set n b } }

/-- The level of a deadman line. -/
def State.setDeadman (n : HoseId) (b : Bool) (s : State) : State :=
  { s with pins := { s.pins with dman := s.pins.dman.set n b } }

/-- SEAT_EVENT (R37): for an IDLE hose a read starts. -/
def execSeatEvent (n : HoseId) (s : State) : Out :=
  .next <|
    let s := s.setSeat n true
    if s.hoses[n].state = .idle then s.startRead n else s

/-- What an unseat does by the hose's state (R37). -/
def State.unseat (n : HoseId) (s : State) : State :=
  match s.hoses[n].state with
  | .offline | .idle | .settling => s
  | .reading => (s.abandonRead n).toRest n
  | .identified | .unidentified | .armed => s.cancel n
  | .priming | .flowing | .paused => s.enterSettling n .unseated
  | .finished => s.toRest n

/-- UNSEAT_EVENT (R37). -/
def execUnseatEvent (n : HoseId) (s : State) : Out := .next ((s.setSeat n false).unseat n)

/-! ## The deadman line (R38, R44, R47, R48) -/

/-- The start of a delivery (R44, R45): claim, window restart, journal, PRIMING, and FLOWING when the
pump reports RUNNING. -/
def State.startDelivery (n : HoseId) (s : State) : State :=
  let s := s.setHose n { s.hoses[n] with armExpiry := none }
  let s := (s.claim n).windowRestart (meterOf n) .delivery
  let s := (s.setHose n { s.hoses[n] with state := .priming }).writeJournal n
  let s := if (s.pumpOf n).state = .running then s.enterFlowing n else s
  s.reselect (s.hoseComp n)

/-- A resume from PAUSED (R48). -/
def State.resume (n : HoseId) (s : State) : State :=
  let s := s.setHose n { s.hoses[n] with state := .priming, pauseExpiry := none }
  let s := if (s.pumpOf n).state = .running then s.enterFlowing n else s
  s.reselect (s.hoseComp n)

/-- DEADMAN_HELD (R38). -/
def execDeadmanHeld (n : HoseId) (s : State) : Out :=
  .next <|
    let s := s.setDeadman n true
    match s.hoses[n].state with
    | .armed => if (s.pumpOf n).state = .fault then s else s.startDelivery n
    | .paused => s.resume n
    | .offline | .idle | .reading | .identified | .unidentified | .priming | .flowing | .settling
    | .finished => s

/-- DEADMAN_RELEASE (R38). -/
def execDeadmanRelease (n : HoseId) (s : State) : Out :=
  .next <|
    let s := s.setDeadman n false
    match s.hoses[n].state with
    | .priming | .flowing => s.pause n
    | .offline | .idle | .reading | .identified | .unidentified | .armed | .paused | .settling
    | .finished => s

/-! ## Expiries of a hose (R43, R48) -/

/-- ARM_EXPIRY (R43): the value is the state the hose left. -/
def execArmExpiry (n : HoseId) (s : State) : Out :=
  .next <|
    match s.hoses[n].armExpiry with
    | none => s
    | some due =>
      let st := s.hoses[n].state
      if st = .identified ∨ st = .armed then
        ((s.reachSec due).cancel n).post .armExpired (.hose n) st.code
      else s

/-- PAUSE_EXPIRY (R48). -/
def execPauseExpiry (n : HoseId) (s : State) : Out :=
  .next <|
    match s.hoses[n].pauseExpiry with
    | none => s
    | some due =>
      if s.hoses[n].state = .paused then (s.reachSec due).enterSettling n .pauseTimeout else s

/-! ## ESTOP and PFLT lines (R55, R80) -/

/-- ESTOP_ASSERTION (R55): before the seal only the line moves. -/
def execEstopAssertion (s : State) : Out :=
  .next <|
    let s := { s with pins := { s.pins with estop := true } }
    if s.isSealed then s.emergencyStop else s

/-- ESTOP_RELEASE (R55): the latch stays. -/
def execEstopRelease (s : State) : Out :=
  .next { s with pins := { s.pins with estop := false } }

/-- PFLT_ASSERTION (R80): before the seal only the line moves. -/
def execPfltAssertion (k : CompId) (s : State) : Out :=
  .next <|
    let s := { s with pins := { s.pins with pflt := s.pins.pflt.set k true } }
    if s.isSealed then s.pumpFault k else s

/-! ## AUTHORISE (R27, R30, R40, R41) -/

/-- An accepted AUTHORISE arms the hose (R41). The lookup's limit stays in the context as it was, the fresh
limit of R39 serving the grant alone: the model's choice (log entry 39). -/
def State.arm (n : HoseId) (i : Ident) (granted : Nat) (s : State) : State :=
  let s := s.setReserved (holderOf n) true
  let h := s.hoses[n]
  let s := s.setHose n
    { h with
      state := .armed, reason := none, ident := some i, preset := some granted, pendingPreset := none,
      acc := some Accum.zero, flags := DFlags.clear, phaseErrors := 0, endCause := none,
      beenFlowing := false, armExpiry := some (s.nowSec + s.armTtl) }
  s.ask (.machine i.ring)

/-- AUTHORISE past the lookup: the limit, the grant and the reply (R29, R41). -/
def State.authorised (n : HoseId) (i : Ident) (e : Entry) (requested : Nat) (s : State) :
    State × Reply :=
  let limit := s.limit i.slot e (s.hoseComp n) i.method none
  let granted := grantPreset requested limit
  (s.arm n i granted,
    Reply.ok [u32 granted, u32 limit, u8 i.method.code, u16 e.number.toNat, u8 e.costCentre.toNat])

/-- The checks of R30 for an IDENTIFIED hose, then the arming. -/
def authoriseIdentified (n : HoseId) (requested : Nat) : Body := fun s =>
  let i := s.hoses[n].identity
  match s.entryAt i.slot with
  | none => (s, Reply.refuse .notFound)
  | some e =>
    match s.objection i.slot e (s.hoseComp n) i.method with
    | some reason => (s, Reply.refuse reason.status)
    | none => s.authorised n i e requested

/-- The keyed lookup of R27, then the arming. -/
def authoriseKeyed (n : HoseId) (requested : Nat) (number : BitVec 16) : Body := fun s =>
  if s.keyedAllowed = false then (s, Reply.refuse .keyedOff)
  else
    match s.entryOfNumber number with
    | none => (s, Reply.refuse .notFound)
    | some (slot, e) =>
      match s.objection slot e (s.hoseComp n) .keyed with
      | some reason => (s, Reply.refuse reason.status)
      | none =>
        s.authorised n
          { method := .keyed, slot, ring := e.ring, number := e.number, costCentre := e.costCentre }
          e requested

/-- Checks 3 to 7 of R40: what refuses an AUTHORISE before the lookup. -/
def State.authoriseRefusal (s : State) (n : HoseId) (number : BitVec 16) : Option Status :=
  let st := s.hoses[n].state
  if st = .identified ∧ number ≠ 0 then some .badParam
  else if st ≠ .identified ∧ ¬(st = .unidentified ∧ number ≠ 0) then some .wrongState
  else if s.metroFault then some .metroFault
  else if s.estopLatch then some .estop
  else if (s.pumpOf n).state = .fault then some .pumpFault
  else none

/-- AUTHORISE (R40). -/
def authoriseBody (hose : Byte) (preset : BitVec 32) (number : BitVec 16) : Body := afterSeal fun s =>
  match hoseOf hose with
  | none => (s, Reply.refuse .badParam)
  | some n =>
    match s.authoriseRefusal n number with
    | some status => (s, Reply.refuse status)
    | none =>
      if s.hoses[n].state = .identified then authoriseIdentified n preset.toNat s
      else authoriseKeyed n preset.toNat number s

/-! ## STOP (R50) -/

/-- What a STOP does by the hose's state (R50). -/
def State.stopHose (n : HoseId) (s : State) : State :=
  match s.hoses[n].state with
  | .offline | .idle | .settling | .finished => s
  | .reading => (s.abandonRead n).setHose n (Hose.bare .finished s.hoses[n].journal)
  | .identified | .unidentified | .armed => s.cancel n
  | .priming | .flowing | .paused => s.enterSettling n .hostStop

/-- STOP (R50): the result is the hose state before it. -/
def stopBody (hose : Byte) : Body := afterSeal fun s =>
  match hoseOf hose with
  | none => (s, Reply.refuse .badParam)
  | some n => (s.stopHose n, Reply.ok [u8 s.hoses[n].state.code])

/-! ## SET_PRESET (R49) -/

/-- Whether a hose's preset may be changed: ARMED, PRIMING, FLOWING or PAUSED (R49). -/
def HoseState.takesPreset (st : HoseState) : Bool := st == .armed || st.isActive

/-- SET_PRESET past its checks (R29, R49): the grant waits as the pending preset. -/
def State.changePreset (n : HoseId) (i : Ident) (e : Entry) (requested : Nat) (s : State) :
    State × Reply :=
  let limit := s.limit i.slot e (s.hoseComp n) i.method (some n)
  let granted := grantPreset requested limit
  ((s.setHose n { s.hoses[n] with pendingPreset := some granted }).ask (.machine i.ring),
    Reply.ok [u32 granted, u32 limit])

/-- SET_PRESET (R49). -/
def setPresetBody (hose : Byte) (preset : BitVec 32) : Body := afterSeal fun s =>
  match hoseOf hose with
  | none => (s, Reply.refuse .badParam)
  | some n =>
    if s.hoses[n].state.takesPreset then
      let i := s.hoses[n].identity
      match s.entryAt i.slot with
      | none => (s, Reply.refuse .wrongState)
      | some e => s.changePreset n i e preset.toNat
    else (s, Reply.refuse .wrongState)

/-! ## ESTOP_CLEAR (R56) -/

def estopClearBody : Body := afterSeal fun s =>
  if s.estopLatch = false then (s, Reply.ok [flag8 false])
  else if s.pins.estop then (s, Reply.refuse .wrongState)
  else ({ s with estopLatch := false }, Reply.ok [flag8 true])

/-! ## GET_HOSE (R61) -/

/-- The reader's last result as fields: ring ID, orientation, failure reason, tries (R61), those of the other
outcome 0: the model's choice (log entry 12). -/
def readResultFields : Option ReadResult → List Field
  | none => [u24 0, u32 0, u8 0, u8 0]
  | some (.ring ring orientation tries) => [u24 ring.toNat, u32 orientation, u8 0, u8 tries]
  | some (.failed reason tries) => [u24 0, u32 0, u8 reason.code, u8 tries]

/-- The place of a hose in a wait queue, 1 for the head, 0 for none (log entry 12). -/
def queuePlace (q : List HoseId) (n : HoseId) : Nat :=
  if n ∈ q then q.findIdx (fun m => m == n) + 1 else 0

/-- PRIMING through SETTLING. -/
def HoseState.delivering (st : HoseState) : Bool := st.isActive || st == .settling

/-- The rows of GET_HOSE's view, in the order of R61's table. A pending preset that is not
held is shown as 0: the model's choice (log entry 43). -/
def State.hoseRows (s : State) (n : HoseId) : List ViewRow :=
  let h := s.hoses[n]
  let st := h.state
  let p := s.pumpOf n
  let i := h.identity
  let step := h.step.getD (firstStep [])
  [ .always [u8 st.code, raw8 (s.item (19 + n.val)), raw8 (s.item (23 + n.val))],
    ⟨s.readers[n].last.isSome, readResultFields s.readers[n].last⟩,
    ⟨st == .unidentified, [u8 ((h.reason.map UnidReason.code).getD 0)]⟩,
    ⟨st.holdsEntry, [u8 i.method.code, u24 i.ring.toNat, u16 i.number.toNat, u8 i.costCentre.toNat]⟩,
    ⟨st == .identified, [u32 (h.lookupLimit.getD 0)]⟩,
    ⟨st.isOpen, [u32 (h.preset.getD 0), u32 (h.pendingPreset.getD 0)]⟩,
    ⟨st == .identified || st == .armed, [u32 (s.secondsTo (h.armExpiry.getD 0))]⟩,
    ⟨st == .paused, [u32 (s.secondsTo (h.pauseExpiry.getD 0))]⟩,
    ⟨st.delivering, [i32 h.accum.delivered, i32 h.remaining, i32 (milli h.accum.gross)]⟩,
    .always [u16 s.meters[meterOf n].lastRate],
    ⟨st == .flowing || (st == .paused && h.step.isSome),
      [u8 step.index, u8 step.stage.code, u8 (s.drivenStage n).code, flag8 (s.granted n),
        u32 (queuePlace p.queue n)]⟩,
    ⟨st.delivering, [u32 h.flags.viewBits, u16 h.phaseErrors]⟩,
    ⟨st == .settling,
      [u8 ((h.endCause.map EndCause.code).getD 0), u8 h.settleCount, u8 h.quietRun]⟩,
    .always [flag8 s.estopLatch, flag8 s.metroFault, u8 p.state.code] ]

/-- GET_HOSE (R61, R173). -/
def getHoseBody (hose page : Byte) : Body := fun s =>
  match hoseOf hose with
  | none => (s, Reply.refuse .badParam)
  | some n => viewPage page (s.hoseRows n) s

/-! ## The commands -/

def execAuthorise (tag hose : Byte) (preset : BitVec 32) (number : BitVec 16) (s : State) : Out :=
  s.command 0x20 tag (authoriseBody hose preset number)

def execStop (tag hose : Byte) (s : State) : Out := s.command 0x21 tag (stopBody hose)

def execSetPreset (tag hose : Byte) (preset : BitVec 32) (s : State) : Out :=
  s.command 0x22 tag (setPresetBody hose preset)

def execGetHose (tag hose page : Byte) (s : State) : Out := s.command 0x23 tag (getHoseBody hose page)

def execEstopClear (tag : Byte) (s : State) : Out := s.command 0x24 tag estopClearBody

end Sys2Proof.Machine
end

