-- ==== Sys2Proof/Machine/Sampler.lean ====
section
/-! DEFINITION. The analog sampler: blocks, their means and the temperature conversion (07, R100 to
R103). -/

namespace Sys2Proof.Machine

/-- The sampling interval, 2 ms in µs (R101). -/
def sampleMicros : Nat := 2000

/-- Samples in a block (R102). -/
def blockLength : Nat := 16

/-- The block being filled (R100). -/
def SamplerInput.filling (x : SamplerInput) : List Nat := if x.fillSecond then x.second else x.first

/-- The input with the filling block replaced. -/
def SamplerInput.setFilling (l : List Nat) (x : SamplerInput) : SamplerInput :=
  if x.fillSecond then { x with second := l } else { x with first := l }

/-- The mean of a block (R102). -/
def blockMean (l : List Nat) : Nat := l.sum / blockLength

/-- The input after its block is complete (R102): the mean is its value, and the other block, emptied,
takes the next sample. -/
def SamplerInput.complete (x : SamplerInput) : SamplerInput :=
  let mean := blockMean x.filling
  let y := { x with fillSecond := !x.fillSecond, value := some mean }
  y.setFilling []

/-- A sample enters the filling block (R101). -/
def SamplerInput.take (v : Nat) (x : SamplerInput) : SamplerInput := x.setFilling (x.filling ++ [v])

/-- A temperature after a faulty block (R103). -/
def Temperature.faulted : Temperature → Temperature
  | .none => .none
  | .good t => .held t
  | .held t => .held t

/-- A temperature after a block value with the input's calibration (R103); an absent calibration is
taken as 0 (R165). -/
def Temperature.convert (cal : Option (Nat × Int)) (m : Nat) (old : Temperature) : Temperature :=
  if 16 ≤ m ∧ m ≤ 4079 then
    let c := cal.getD (0, 0)
    .good (clampInt (-4000) 7000 (floorDiv ((m : Int) * c.1) 4096 + c.2))
  else old.faulted

/-- What the sampler serves: the level probes and the temperature probes (R100). -/
inductive Probe where
  | level (k : CompId)
  | temp (i : Fin 3)
  deriving DecidableEq, Repr

/-- The probe at a scan position L0, L1, T0, T1, TR (R100). -/
def probeAt (pos : Fin 5) : Probe :=
  match pos.val with
  | 0 => .level 0
  | 1 => .level 1
  | 2 => .temp 0
  | 3 => .temp 1
  | _ => .temp 2

/-- A block value goes on to its use (R102 step 3). -/
def State.useBlock (p : Probe) (mean : Nat) (s : State) : State :=
  match p with
  | .level k => s.levelBlock k mean
  | .temp i =>
    { s with sampler := { s.sampler with
        temps := s.sampler.temps.set i (Temperature.convert s.metro.tcal[i] mean s.sampler.temps[i]) } }

/-- A sample at the scan position (R101, R102). -/
def State.takeSample (v : Nat) (s : State) : State :=
  let pos := s.sampler.pos
  let x := SamplerInput.take v s.sampler.inputs[pos]
  let full := decide (blockLength ≤ x.filling.length)
  let y := if full then x.complete else x
  let s := { s with sampler := { s.sampler with
    inputs := s.sampler.inputs.set pos y, pos := pos + 1 } }
  if full then s.useBlock (probeAt pos) (blockMean x.filling) else s

/-- ANALOG_SAMPLE (R101): every 2 ms from the seal. -/
def execAnalogSample (sample : BitVec 12) (s : State) : Out :=
  .next <|
    match s.sampler.due with
    | none => s
    | some due =>
      let s := s.reach due
      ({ s with sampler := { s.sampler with due := some (due + sampleMicros) } }).takeSample sample.toNat

end Sys2Proof.Machine
end

