-- ==== Sys2Proof/Machine/Link.lean ====
section
/-! DEFINITION. The site link: carrier and link states, backoff and deferral, transmission and its frames,
reception, the peer table, the sweeps and GET_LINK (10, R147 to R161). -/

namespace Sys2Proof.Machine

/-! ## Channel states (R149) -/

/-- An entry to IDLE, with the draw it may start (R149, R152). -/
def State.enterIdle (s : State) : State :=
  State.draw { s with link := { s.link with state := .idle } }

/-- The head subject leaves the queue, its deferral count with it (R150, R152). -/
def State.popHead (s : State) : State :=
  { s with link := { s.link with queue := s.link.queue.drop 1, deferrals := 0 } }

/-- The greatest deferral count, at which the head is discarded (R152). -/
def deferralLimit : Nat := 32

/-- A carrier during a pending backoff is a deferral (R152). -/
def State.defer_ (s : State) : State :=
  match s.link.backoff with
  | none => s
  | some _ =>
    let s := { s with link := { s.link with backoff := none, deferrals := s.link.deferrals + 1 } }
    if s.link.deferrals < deferralLimit then s
    else
      match s.link.queue with
      | [] => s
      | sub :: _ => (s.popHead).postDrop sub

/-- The jam expiry of a carrier that starts now (R149). -/
def State.jamAt (s : State) : Option Nat := some (s.nowMs + s.linkJam)

/-- An empty frame in reception (R155). -/
def RxFrame.empty : RxFrame := { kept := [], count := 0 }

/-- A carrier event's effect on the link state (R149, R152). -/
def State.carrier (s : State) : State :=
  match s.link.state with
  | .unknown =>
    { s with link := { s.link with quiet := none, jam := s.jamAt, rx := some RxFrame.empty } }
  | .idle =>
    State.defer_ { s with link := { s.link with
      state := .busy, jam := s.jamAt, rx := some RxFrame.empty } }
  | .busy | .jammed | .sending => s

/-- CARRIER_EVENT (R149): before the seal only the line moves. -/
def execCarrierEvent (s : State) : Out :=
  .next <|
    let s := { s with pins := { s.pins with lcd := true } }
    if s.isSealed then s.carrier else s

/-- QUIET_EXPIRY (R149). -/
def execQuietExpiry (s : State) : Out :=
  .next <|
    match s.link.quiet with
    | none => s
    | some due =>
      let s := s.reachMs due
      State.enterIdle { s with link := { s.link with quiet := none } }

/-- JAM_EXPIRY (R149). -/
def execJamExpiry (s : State) : Out :=
  .next <|
    match s.link.jam with
    | none => s
    | some due =>
      let s := s.reachMs due
      ({ s with link := { s.link with jam := none, state := .jammed } }).post .linkJammed
        (.station s.station) 0

/-! ## Frames (R145, R154) -/

/-- A frame with its CRC (R148, R154). -/
def withFrameCrc (l : List Byte) : List Byte := l ++ beBytes 2 (crc16 l).toNat

/-- The first nine bytes of a notice (R154). -/
def State.noticeHead (s : State) (length kind : Nat) : List Byte :=
  [BitVec.ofNat 8 length, BitVec.ofNat 8 kind] ++ beBytes 2 s.site ++ beBytes 1 s.station ++
    beBytes 2 s.link.noticeSeq.toNat ++ beBytes 2 s.table.day.toNat

/-- The MACHINE notice of an entry (R34, R154). -/
def State.machineFrame (s : State) (slot : Nat) (e : Entry) : List Byte :=
  withFrameCrc (s.noticeHead 22 1 ++ beBytes 3 e.ring.toNat ++ beBytes 4 e.tally[s.ownIndex] ++
    beBytes 4 (s.ownOpenSum slot none))

/-- A book in litres as a notice bears it (R145). -/
def State.bookLitres (s : State) (k : CompId) : Nat :=
  (clampInt 0 65535 (floorDiv s.stock.books[k].value 1000)).toNat

/-- The STOCK notice (R145, R154). -/
def State.stockFrame (s : State) : List Byte :=
  withFrameCrc (s.noticeHead 18 2 ++
    beBytes 1 (s.stock.restock.code + if s.stock.yieldUntil.isSome then 128 else 0) ++
    beBytes 2 s.urgency.toNat ++ beBytes 2 (s.bookLitres 0) ++ beBytes 2 (s.bookLitres 1))

/-! ## Transmission (R153) -/

/-- The notice sequence counter moves on (R153 step 2). -/
def State.nextNotice (s : State) : State :=
  let seq := s.link.noticeSeq + 1
  { s with link := { s.link with noticeSeq := seq, noticeCrc := crc16 (beBytes 2 seq.toNat) } }

/-- The frame is put on the line (R153 steps 4 and 5). -/
def State.send (frame : List Byte) (s : State) : State :=
  let s := s.popHead
  { s with link := { s.link with
      state := .sending, rx := none
      tx := some { bytes := frame, due := s.now + frame.length * s.linkByte } } }

/-- The head subject is taken for transmission (R153). -/
def State.transmit (s : State) : State :=
  match s.link.queue with
  | [] => s
  | .stock :: _ =>
    let s := s.nextNotice
    s.send s.stockFrame
  | .machine ring :: _ =>
    match s.entryOfRing ring with
    | none => s.popHead.draw
    | some (slot, e) =>
      let s := s.nextNotice
      s.send (s.machineFrame slot e)

/-- BACKOFF_EXPIRY (R152, R153). -/
def execBackoffExpiry (s : State) : Out :=
  .next <|
    match s.link.backoff with
    | none => s
    | some due =>
      let s := s.reachMs due
      State.transmit { s with link := { s.link with backoff := none } }

/-- END_OF_TRANSMISSION (R149, R153, R155). -/
def execEndOfTransmission (s : State) : Out :=
  .next <|
    match s.link.tx with
    | none => s
    | some x =>
      let s := s.reach x.due
      let s := { s with link := { s.link with tx := none } }
      if s.pins.lcd then
        { s with link := { s.link with
            state := .busy, jam := s.jamAt, rx := some RxFrame.empty } }
      else s.enterIdle

/-- LTXE: high while a transmission is on the line (R153). -/
def State.ltxe (s : State) : Bool := s.link.state == .sending

/-! ## Reception (R155, R156) -/

/-- A character joins a frame (R155). -/
def RxFrame.push (c : Byte) (f : RxFrame) : RxFrame :=
  { kept := if f.kept.length < 22 then f.kept ++ [c] else f.kept, count := hold 255 (f.count + 1) }

/-- LINK_CHARACTER (R155). -/
def execLinkCharacter (c : Byte) (s : State) : Out :=
  .next <|
    match s.link.rx with
    | none => s
    | some f => { s with link := { s.link with rx := some (f.push c) } }

/-- Check 1: length and CRC (R155). -/
def RxFrame.passes (f : RxFrame) : Bool :=
  let n := (f.kept.getD 0 0).toNat
  decide (f.count = n) && (n == 18 || n == 22) &&
    (crc16 (f.kept.take (n - 2))).toNat == ofBytes ((f.kept.drop (n - 2)).take 2)

/-- What a notice carries for its kind (R154). -/
inductive NoticeBody where
  | machine (day : BitVec 16) (ring : BitVec 24) (tally reserved : Nat)
  | stock (x : PeerStock)
  deriving DecidableEq, Repr

/-- A received notice. -/
structure Notice where
  site : Nat
  station : Nat
  seq : BitVec 16
  body : NoticeBody
  deriving DecidableEq, Repr

/-- `n` bytes of a frame from a place, as a number. -/
def fieldAt (l : List Byte) (i n : Nat) : Nat := ofBytes ((l.drop i).take n)

/-- Check 2: kind with length, and the STOCK fields' ranges (R156). -/
def noticeBody (l : List Byte) : Option NoticeBody :=
  let kind := fieldAt l 1 1
  if kind = 1 ∧ l.length = 22 then
    some (.machine (BitVec.ofNat 16 (fieldAt l 7 2)) (BitVec.ofNat 24 (fieldAt l 9 3)) (fieldAt l 12 4)
      (fieldAt l 16 4))
  else if kind = 2 ∧ l.length = 18 then
    let flags := fieldAt l 9 1
    let key := fieldAt l 10 2
    if flags % 128 ≤ 3 ∧ key ≤ 1000 then
      some (.stock
        { state := RestockState.ofCode (flags % 4), yielding := decide (128 ≤ flags), key,
          book0 := BitVec.ofNat 16 (fieldAt l 12 2), book1 := BitVec.ofNat 16 (fieldAt l 14 2) })
    else none
  else none

/-- Check 3: the site code (R156). -/
def State.siteMatches (s : State) (code : Nat) : Bool :=
  match s.siteMode with
  | 0 => code == s.site
  | 1 =>
    (BitVec.ofNat 16 code ^^^ BitVec.ofNat 16 s.site) &&& ~~~(BitVec.ofNat 16 s.site2) == 0
  | _ => code == s.site || code == s.site2

/-- Checks 2 to 4 (R156). -/
def State.acceptNotice (s : State) (l : List Byte) : Option Notice :=
  match noticeBody l with
  | none => none
  | some body =>
    let n : Notice :=
      { site := fieldAt l 2 2, station := fieldAt l 4 1, seq := BitVec.ofNat 16 (fieldAt l 5 2), body }
    if s.siteMatches n.site ∧ 1 ≤ n.station ∧ n.station ≤ 16 then some n else none

/-! ## The own station number and the peers (R157, R158) -/

/-- A frame with the own station number (R157). -/
def State.clash (seq : BitVec 16) (s : State) : State :=
  if s.link.clash then s
  else
    ({ s with link := { s.link with clash := true, backoff := none } }).post .stationClash
      (.station s.station) seq.toNat

/-- Whether a sequence is newer than another (R158). -/
def newer (new old : BitVec 16) : Bool := decide (1 ≤ (new - old).toNat) && decide ((new - old).toNat ≤ 32767)

/-- A peer slot after an accepted notice (R158). -/
def State.peerAfter (s : State) (old : Option Peer) (n : Notice) : Peer :=
  { lastSeq := n.seq, heardAt := s.nowSec, stale := s.nowSec + s.peerStale,
    stock := match n.body with
      | .stock x => some x
      | .machine .. => old.bind Peer.stock }

/-- An accepted notice is dispatched by its kind (R158). -/
def State.dispatchNotice (i : StationId) (body : NoticeBody) (s : State) : State :=
  match body with
  | .machine day ring tally reserved => s.mergeMachine i day ring tally reserved
  | .stock _ => s.evaluateRestock

/-- A notice of a peer is accepted or discarded by its sequence (R158). -/
def State.peerNotice (n : Notice) (s : State) : State :=
  let i : StationId := Fin.ofNat 16 (n.station - 1)
  let old := s.link.peers[i]
  let fresh := match old with
    | none => true
    | some p => newer n.seq p.lastSeq
  if fresh then
    ({ s with link := { s.link with
        peers := s.link.peers.set i (some (s.peerAfter old n)) } }).dispatchNotice i n.body
  else { s with link := { s.link with seqDiscards := count16 s.link.seqDiscards } }

/-- Check 5 (R157). -/
def State.notice (n : Notice) (s : State) : State :=
  if n.station = s.station then s.clash n.seq else s.peerNotice n

/-- A complete frame is checked (R155, R156). -/
def State.checkFrame (f : RxFrame) (s : State) : State :=
  if f.count = 0 then s
  else if f.passes then
    match s.acceptNotice (f.kept.take f.count) with
    | none => { s with link := { s.link with rxRejects := count16 s.link.rxRejects } }
    | some n => s.notice n
  else { s with link := { s.link with rxErrors := count16 s.link.rxErrors } }

/-- The frame in reception is complete (R155). -/
def State.completeFrame (s : State) : State :=
  match s.link.rx with
  | none => s
  | some f => State.checkFrame f { s with link := { s.link with rx := none } }

/-- A carrier release's effect on the link state (R149). -/
def State.carrierEnds (s : State) : State :=
  match s.link.state with
  | .unknown =>
    { s with link := { s.link with jam := none, quiet := some (s.nowMs + s.linkQuiet) } }
  | .busy => State.enterIdle { s with link := { s.link with jam := none } }
  | .jammed => s.enterIdle
  | .idle | .sending => s

/-- CARRIER_RELEASE (R149, R155): the frame is checked first, then the link state follows (log entry
24). -/
def execCarrierRelease (s : State) : Out :=
  .next <|
    let s := { s with pins := { s.pins with lcd := false } }
    if s.isSealed ∧ s.link.state ≠ .sending then s.completeFrame.carrierEnds else s

/-- STALENESS_EXPIRY (R159). -/
def execStalenessExpiry (i : StationId) (s : State) : Out :=
  .next <|
    match s.link.peers[i] with
    | none => s
    | some p =>
      let s := s.reachSec p.stale
      ({ s with link := { s.link with peers := s.link.peers.set i none } }).evaluateRestock

/-! ## The sweeps (R160) -/

/-- Whether a machine sweep asks for an entry (R160). -/
def State.sweepable (s : State) (slot : Nat) (e : Entry) : Bool :=
  decide (0 < e.tally[s.ownIndex]) || decide (0 < s.ownOpenSum slot none)

/-- The entry a machine sweep finds: slots from the sweep position upward, wrapping (R160). -/
def State.sweepFinds (s : State) : Option (Nat × Entry) :=
  let hits := s.table.entries.filter fun p => s.sweepable p.1 p.2
  match hits.find? fun p => decide (s.link.sweepPos ≤ p.1) with
  | some p => some p
  | none => hits.head?

/-- A machine sweep (R160). -/
def State.machineSweep (s : State) : State :=
  if s.link.clash then s
  else
    match s.sweepFinds with
    | none => s
    | some (slot, e) =>
      State.ask (.machine e.ring)
        { s with link := { s.link with sweepPos := (slot + 1) % 256 } }

/-- MACHINE_SWEEP (R160). -/
def execMachineSweep (s : State) : Out :=
  .next <|
    match s.link.sweepDue with
    | none => s
    | some due =>
      let s := s.reach due
      State.machineSweep { s with link := { s.link with
        sweepDue := some (due + s.sweepPeriod * Config.second) } }

/-- STOCK_SWEEP (R160). -/
def execStockSweep (s : State) : Out :=
  .next <|
    match s.link.stockDue with
    | none => s
    | some due =>
      let s := s.reach due
      let s := { s with link := { s.link with
        stockDue := some (due + s.stockPeriod * Config.second) } }
      if s.link.clash then s else s.ask .stock

/-! ## GET_LINK (R161) -/

/-- A subject as fields: kind (machine 0, stock 1) and ring ID (log entry 12). -/
def subjectFields : List Subject → List Field
  | [] => [u8 0, u24 0]
  | .machine ring :: _ => [u8 0, u24 ring.toNat]
  | .stock :: _ => [u8 1, u24 0]

/-- The stock fields of a peer; zeros when absent. -/
def peerStockFields : Option PeerStock → List Field
  | none => [u8 0, u8 0, u16 0, u16 0, u16 0]
  | some x => [u8 x.state.code, flag8 x.yielding, u16 x.key, u16 x.book0.toNat, u16 x.book1.toNat]

/-- A peer slot as fields: ABSENT 0 or FRESH 1, last sequence, seconds since heard, stock fields. -/
def State.peerFields (s : State) : Option Peer → List Field
  | none => [u8 0, u16 0, u32 0] ++ peerStockFields none
  | some p => [u8 1, u16 p.lastSeq.toNat, u32 (s.nowSec - p.heardAt)] ++ peerStockFields p.stock

/-- The rows of GET_LINK's view, in the order of R161's table. -/
def State.linkRows (s : State) (station : Nat) : List ViewRow :=
  let l := s.link
  [ .always [u8 l.state.code, flag8 l.clash],
    .always (u32 l.queue.length :: subjectFields l.queue),
    .always [u8 l.deferrals, u16 (l.backoff.getD s.nowMs - s.nowMs)],
    .always [u16 l.noticeSeq.toNat],
    .always [u16 l.rxErrors, u16 l.rxRejects, u16 l.seqDiscards],
    .always [u32 (l.peers.toList.countP Option.isSome)],
    ⟨station != 0, s.peerFields (l.peers[(Fin.ofNat 16 (station - 1) : StationId)])⟩ ]

/-- GET_LINK (R161, R173). -/
def getLinkBody (station page : Byte) : Body := fun s =>
  if 16 < station.toNat then (s, Reply.refuse .badParam)
  else viewPage page (s.linkRows station.toNat) s

def execGetLink (tag station page : Byte) (s : State) : Out :=
  s.command 0x50 tag (getLinkBody station page)

end Sys2Proof.Machine
end

