-- ==== Sys2Proof/Machine/Port.lean ====
section
/-! DEFINITION. The commands of the port itself: NOP, unknown codes, cut-short exchanges, reading events and
the event mask (12, R169, R171, R175 to R177). -/

namespace Sys2Proof.Machine

/-- NOP (R169): OK with results of 0. -/
def execNop (tag : Byte) (s : State) : Out := s.command 0x00 tag fun t => (t, Reply.ok [])

/-- A code outside the table (R171): BAD_COMMAND; a staged load stays (log entry 17). -/
def execUnknownCommand (code tag : Byte) (s : State) : Out :=
  .next <|
    State.answer code tag (Reply.refuse .badCommand) { s.beginExchange with staged := s.staged }

/-- A cut-short exchange (R169): the held reply was shifted out as far as the exchange went, and stays. -/
def execExchangeCutShort (bytes : Fin 32) (s : State) : Out :=
  .next { s with port := { s.port with shiftedOut := s.port.held.take bytes.val } }

/-- PDO: the byte shifted out with byte i of the exchange whose frame was taken last (R169): the held reply
for the first 32, low for bytes clocked after them. -/
def State.pdo (s : State) (i : Nat) : Byte := s.port.shiftedOut.getD i 0

/-- Whether an event kind's value is signed (12.3, READ_EVENT). -/
def EventKind.signedValue : EventKind → Bool
  | .strayFlow | .receiptStray | .variance => true
  | .hoseIdentified | .hoseUnidentified | .armExpired | .deliveryClosed | .estop | .pumpFault
  | .metrologyFault | .recordCorrupt | .highLevel | .restockState | .linkJammed | .linkDrop
  | .stationClash | .retainedLoss | .receiptClosed => false

/-- An event as fields: kind, subject class and number, value, posting time (R176). -/
def Event.fields (e : Event) : List Field :=
  [u8 e.kind.code, u8 e.subject.classCode, u32 e.subject.number,
    if e.kind.signedValue then i32 e.value else ⟨4, false, e.value⟩, u32 e.postedAt]

/-- The fields of no event (R176). -/
def noEventFields : List Field := [u8 0, u8 0, u32 0, u32 0, u32 0]

/-- READ_EVENT (R176): the oldest event leaves the queue, OVERFLOWED is reported and cleared. -/
def readEventBody : Body := fun s =>
  let tail (left : Nat) : List Field := [flag8 s.port.overflowed, u8 left]
  match s.port.events with
  | [] =>
    ({ s with port := { s.port with overflowed := false } }, ⟨.empty, noEventFields ++ tail 0⟩)
  | e :: rest =>
    ({ s with port := { s.port with events := rest, overflowed := false } },
      Reply.ok (e.fields ++ tail rest.length))

/-- SET_EVENT_MASK (R177). -/
def setEventMaskBody (mask : BitVec 24) : Body := fun s =>
  if mask >>> 18 ≠ 0 then (s, Reply.refuse .badParam)
  else
    ({ s with port := { s.port with mask } }, Reply.ok [u24 s.port.mask.toNat])

def execReadEvent (tag : Byte) (s : State) : Out := s.command 0x60 tag readEventBody

def execSetEventMask (tag : Byte) (mask : BitVec 24) (s : State) : Out :=
  s.command 0x61 tag (setEventMaskBody mask)

end Sys2Proof.Machine
end

