-- ==== Sys2Proof/Machine/Setup.lean ====
section
/-! DEFINITION. Loading the blocks, the seal, the restart with its retained checks, and the metrology scan
(11, R162 to R168; 04 R62, R63; 12 R170, R174). -/

namespace Sys2Proof.Machine

/-! ## SET_CONFIG (R164) -/

/-- The compartment of a strapping table's item. -/
def strapComp (item : Nat) : CompId := if item = 118 then 0 else 1

/-- A single-valued item stored; the answer is the value before (R164). -/
def State.setItem (i : Nat) (v : Int) (s : State) : State × Reply :=
  ({ s with config := { s.config with items := Sparse.put itemDefault s.config.items i v } },
    Reply.ok [i32 (s.item i)])

/-- A strapping table's point count stored. -/
def State.setStrapCount (k : CompId) (v : Int) (s : State) : State × Reply :=
  ({ s with config := { s.config with strapCount := s.config.strapCount.set k v } },
    Reply.ok [i32 s.config.strapCount[k]])

/-- A strapping point stored: level mm in the upper half of the value, litres in the lower (R172). -/
def State.setStrapPoint (k : CompId) (p : Fin 16) (v : BitVec 32) (s : State) : State × Reply :=
  let old := s.config.strapPoints[k][p]
  let new := (v.toNat / 65536, v.toNat % 65536)
  ({ s with config := { s.config with
      strapPoints := s.config.strapPoints.set k (s.config.strapPoints[k].set p new) } },
    Reply.ok [u16 old.1, u16 old.2])

/-- SET_CONFIG (R164): no test of the value. -/
def setConfigBody (item element : Byte) (value : BitVec 32) : Body := beforeSeal fun s =>
  let i := item.toNat
  let e := element.toNat
  if i < 1 ∨ 119 < i then (s, Reply.refuse .badParam)
  else if i ≤ 117 then
    if e ≠ 0 then (s, Reply.refuse .badParam) else s.setItem i value.toInt
  else if 16 < e then (s, Reply.refuse .badParam)
  else if e = 0 then s.setStrapCount (strapComp i) value.toInt
  else s.setStrapPoint (strapComp i) (Fin.ofNat 16 (e - 1)) value

/-! ## LOAD_PROFILE (R62, R174) -/

/-- The stage of a step's first byte: bits 0–1. -/
def stageOfCode (c : Nat) : Option Stage :=
  match c with
  | 0 => some .closed
  | 1 => some .slow
  | 2 => some .full
  | _ => none

/-- The greatest volume of a step, 30,000,000 mL (R62). -/
def maxStepVolume : Nat := 30000000

/-- The condition of a kind and its four parameter bytes (R62, R174), none out of range. -/
def conditionOf (kind param : Nat) : Option Condition :=
  let n := param / 65536
  let r := param % 65536
  match kind with
  | 0 => if param ≤ maxStepVolume then some (.deliveredAtLeast param) else none
  | 1 => if param ≤ maxStepVolume then some (.remainingAtMost param) else none
  | 2 => if 1 ≤ n then some (.elapsed n) else none
  | 3 => if 1 ≤ n ∧ n ≤ 255 then some (.stall n r) else none
  | 4 => some .never
  | _ => none

/-- The next of a step: 0..7, or END coded 255 (R174). -/
def nextOfCode (c : Nat) : Option (Option Nat) :=
  if c = 255 then some none else if c ≤ 7 then some (some c) else none

/-- A step of a frame, none where a field is out of range (R62, R174). Bits 2, 3 and 7 of its first byte are 0
(R174); that a step with one of them set is out of range is the model's choice (log entry 40). -/
def stepOf (r : RawStep) : Option ProfileStep :=
  let h := r.head.toNat
  if h / 4 % 4 = 0 ∧ h < 128 then
    match stageOfCode (h % 4), conditionOf (h / 16 % 8) r.param.toNat, nextOfCode r.next.toNat with
    | some stage, some cond, some next => some { stage, cond, next }
    | _, _, _ => none
  else none

/-- The first `n` steps of a frame, none where one is out of range. -/
def stepsOf (n : Nat) (steps : Vector RawStep 4) : Option (List ProfileStep) :=
  (steps.toList.take n).mapM stepOf

/-- A profile replaced (R62). -/
def State.putProfile (p : Nat) (steps : List ProfileStep) (s : State) : State :=
  if h : p < 8 then { s with profiles := s.profiles.set p steps } else s

/-- LOAD_PROFILE without continuation (R62, R174): up to four steps replace the profile, more are
staged. -/
def loadProfileBody (profile count flag : Byte) (steps : Vector RawStep 4) : Body := beforeSeal fun s =>
  if 7 < profile.toNat ∨ 8 < count.toNat ∨ flag ≠ 0 then (s, Reply.refuse .badParam)
  else
    match stepsOf (min count.toNat 4) steps with
    | none => (s, Reply.refuse .badParam)
    | some l =>
      if count.toNat ≤ 4 then (s.putProfile profile.toNat l, Reply.ok [])
      else
        ({ s with staged := some { profile := profile.toNat, count := count.toNat, steps := l } },
          Reply.ok [])

/-- The second half of a load (R174): the whole load replaces the profile, and is no longer staged. A refusal
changes nothing (R171), so it leaves a staged load. -/
def continueLoad (profile count : Byte) (steps : Vector RawStep 4) : Body := beforeSeal fun s =>
  if 7 < profile.toNat ∨ 8 < count.toNat then (s, Reply.refuse .badParam)
  else
    match s.staged with
    | none => (s, Reply.refuse .badParam)
    | some x =>
      if x.profile = profile.toNat then
        match stepsOf (x.count - 4) steps with
        | none => (s, Reply.refuse .badParam)
        | some l =>
          (State.putProfile x.profile (x.steps ++ l) { s with staged := none }, Reply.ok [])
      else (s, Reply.refuse .badParam)

/-- The continuation with the load that was staged when its exchange began: it is no command between the
two (R174). -/
def continuationBody (staged : Option StagedLoad) (profile count : Byte) (steps : Vector RawStep 4) :
    Body := fun s => continueLoad profile count steps { s with staged }

/-! ## LOAD_METROLOGY (R165) -/

/-- A meter number 0..4. -/
def meterOfByte (b : Byte) : Option MeterId := if h : b.toNat < 5 then some ⟨b.toNat, h⟩ else none

/-- A temperature input 0..2: T0, T1, TR. -/
def inputOfByte (b : Byte) : Option (Fin 3) := if h : b.toNat < 3 then some ⟨b.toNat, h⟩ else none

/-- The metrology block with a section replaced, none where a field is out of range (R165). -/
def Metrology.load (m : Metrology) : MetroSection → Option Metrology
  | .meterHead meter nf count =>
    match meterOfByte meter with
    | none => none
    | some i =>
      if nf ≠ 0 ∧ 2 ≤ count.toNat ∧ count.toNat ≤ 6 then
        some { m with meters := m.meters.set i { m.meters[i] with nf := nf.toNat, count := count.toNat } }
      else none
  | .meterPoint meter index rate mf =>
    match meterOfByte meter with
    | none => none
    | some i =>
      if h : index.toNat < 6 then
        if mf ≠ 0 then
          let points := m.meters[i].points.set index.toNat (rate.toNat, mf.toNat)
          some { m with meters := m.meters.set i { m.meters[i] with points } }
        else none
      else none
  | .alpha comp alpha =>
    match compOf comp with
    | none => none
    | some k =>
      if alpha.toNat ≤ 1500 then some { m with alpha := m.alpha.set k (some alpha.toNat) } else none
  | .tcal input gain offset =>
    match inputOfByte input with
    | none => none
    | some i =>
      if gain ≠ 0 then some { m with tcal := m.tcal.set i (some (gain.toNat, offset.toInt)) } else none
  | .issuedCrc crc => some { m with issued := some crc }
  | .unknown _ => none

/-- LOAD_METROLOGY (R165). -/
def loadMetrologyBody (sect : MetroSection) : Body := beforeSeal fun s =>
  match s.metro.load sect with
  | none => (s, Reply.refuse .badParam)
  | some metro => ({ s with metro }, Reply.ok [])

/-- The 181 bytes of the metrology block (R165). -/
def Metrology.bytes (m : Metrology) : List Byte :=
  (m.meters.toList.flatMap fun c =>
    beBytes 2 c.nf ++ beBytes 1 c.count ++
      c.points.toList.flatMap fun p => beBytes 2 p.1 ++ beBytes 3 p.2) ++
    (m.alpha.toList.flatMap fun a => beBytes 2 (a.getD 0)) ++
    m.tcal.toList.flatMap fun t => beBytes 2 (t.getD (0, 0)).1 ++ beBytesInt 2 (t.getD (0, 0)).2

/-- The metrology CRC (R165). -/
def Metrology.crc (m : Metrology) : BitVec 16 := crc16 m.bytes

/-! ## The seal's tests (R63, R166) -/

/-- Numbers strictly ascend. -/
def ascending : List Nat → Bool
  | [] => true
  | [_] => true
  | a :: b :: rest => decide (a < b) && ascending (b :: rest)

/-- A single-valued item is in its range and keeps its relation (R166). -/
def State.itemPasses (s : State) (i : Nat) : Bool :=
  decide ((itemRange i).1 ≤ s.item i) && decide (s.item i ≤ (itemRange i).2) && s.itemRelation i

/-- A strapping table passes (R166). -/
def State.strapPasses (s : State) (k : CompId) : Bool :=
  decide (2 ≤ s.config.strapCount[k]) && decide (s.config.strapCount[k] ≤ 16) &&
    ascending ((s.strapping k).map Prod.fst)

/-- A condition's parameters are in range (R62, R63). -/
def Condition.inRange : Condition → Bool
  | .deliveredAtLeast v => decide (v ≤ maxStepVolume)
  | .remainingAtMost v => decide (v ≤ maxStepVolume)
  | .elapsed n => decide (1 ≤ n) && decide (n ≤ 65535)
  | .stall n r => decide (1 ≤ n) && decide (n ≤ 255) && decide (r ≤ 65535)
  | .never => true

/-- A step passes in a profile of a length (R63). -/
def ProfileStep.passes (len : Nat) (x : ProfileStep) : Bool :=
  x.cond.inRange && match x.next with
    | none => true
    | some i => decide (i < len)

/-- A profile passes (R63). -/
def State.profilePasses (s : State) (p : Nat) : Bool :=
  let steps := s.profiles.toList.getD p []
  (decide (steps ≠ []) || allHoses.all fun n => decide (s.hoseProfile n ≠ p)) &&
    decide (steps.length ≤ 8) && steps.all (ProfileStep.passes steps.length)

/-- A meter's calibration passes (R166). -/
def MeterCal.passes (c : MeterCal) : Bool :=
  decide (2 ≤ c.count) && decide (c.count ≤ 6) && decide (1 ≤ c.nf) && decide (c.nf ≤ 65535) &&
    ascending (c.curve.map Prod.fst) &&
    c.curve.all fun p => decide (p.1 ≤ 65535) && decide (1 ≤ p.2) && decide (p.2 ≤ 16777215)

/-- The test of an item 1..137 (11.3, R166). -/
def State.testItem (s : State) (i : Nat) : Bool :=
  if i ≤ 117 then s.itemPasses i
  else if i ≤ 119 then s.strapPasses (strapComp i)
  else if i ≤ 127 then s.profilePasses (i - 120)
  else if i ≤ 132 then (s.metro.meters[(Fin.ofNat 5 (i - 128) : MeterId)]).passes
  else if i ≤ 134 then
    match s.metro.alpha[(Fin.ofNat 2 (i - 133) : CompId)] with
    | none => false
    | some a => decide (a ≤ 1500)
  else
    match s.metro.tcal[(Fin.ofNat 3 (i - 135) : Fin 3)] with
    | none => false
    | some c => decide (1 ≤ c.1) && decide (c.1 ≤ 65535)

/-- The first item 1..137 that fails (R166). -/
def State.firstFailing (s : State) : Option Nat :=
  ((List.range 137).map (· + 1)).find? fun i => !s.testItem i

/-! ## The seal's work (R167) -/

/-- The close of a hose's journal at the seal (R60, R167). -/
def State.closeJournal (n : HoseId) (s : State) : State :=
  match s.hoses[n].journal with
  | none => s
  | some j =>
    let d := j.delivery n (s.hoseComp n)
    let r := s.deliveryRecord d
    let seq := s.log.seq
    let s := s.append r (some (holderOf n))
    let s := (s.credit d.ring r.net).adjustBook d.comp (-r.net)
    let s := s.setHose n { s.hoses[n] with journal := none }
    s.post .deliveryClosed (.hose n) seq.toNat

/-- The close of the receipt journal at the seal (R137, R167). -/
def State.closeReceiptJournal (s : State) : State :=
  match s.stock.rjournal with
  | none => s
  | some j =>
    let x := j.receipt
    let r := x.record s.receiptTemp
    let seq := s.log.seq
    let s := (s.append r (some holderReceipt)).adjustBook x.comp r.net
    let s := { s with stock := { s.stock with rjournal := none } }
    s.post .receiptClosed (.comp x.comp) seq.toNat

/-- The number of journals present. -/
def State.journalCount (s : State) : Nat :=
  (s.hoses.toList.countP fun h => h.journal.isSome) + if s.stock.rjournal.isSome then 1 else 0

/-- A reader starts: WAITING, and its first period expiry at the seal (R2, log entry 29). -/
def State.startReader (n : HoseId) (s : State) : State :=
  (s.setReader n { s.readers[n] with state := .waiting }).readerPeriodAt 0 n

/-- A pump starts its PWM period, and enters FAULT with its fault input asserted (R75, R80). -/
def State.startPump (k : CompId) (s : State) : State :=
  let s := s.setPump k { s.pumps[k] with pwmStart := 0, pwmDue := some s.pwmPeriod }
  if s.pins.pflt[k] then s.pumpFault k else s

/-- The meters start their windows, every one STRAY (R87). -/
def State.startMeters (s : State) : State :=
  { s with meters := Vector.ofFn fun m : Fin 5 =>
      { s.meters[m] with
        levels := some s.pins.phase[m], count := 0, sat := false, phaseErr := 0,
        due := some Config.windowMicros, obsDue := some observationMicros, attach := .stray } }

/-- The restock state at the seal (R141). -/
def State.startRestock (s : State) : State :=
  let r := s.wantOrNormal
  let s := State.ask .stock { s with stock := { s.stock with
    restock := r, goHold := none, yieldUntil := none } }
  if r = .want then s.post .restockState (.station s.station) r.code else s

/-- The link at the seal (R147, R149, R155). -/
def State.startLink (s : State) : State :=
  { s with link := { s.link with
      state := .unknown
      gen := some (BitVec.ofNat 16 (s.station * 4097))
      quiet := if s.pins.lcd then none else some (s.nowMs + s.linkQuiet)
      jam := if s.pins.lcd then s.jamAt else none
      rx := if s.pins.lcd then some RxFrame.empty else none
      sweepDue := some (s.sweepPeriod * Config.second)
      stockDue := some (s.stockPeriod * Config.second) } }

/-- A pending loss posted (R163, R167). -/
def State.postLoss (x : Loss) (s : State) : State :=
  s.post .retainedLoss (.retained x.item) x.value

/-- The pending losses are posted in order and the list emptied (R163, R167). -/
def State.postLosses (s : State) : State :=
  State.forEach s.losses State.postLoss { s with losses := [] }

/-- The completion of the seal (R167). Within a block the lower number starts first, so C0's PUMP_FAULT is
posted before C1's: the model's choice (log entry 41). -/
def State.complete (s : State) : State :=
  let s := (s.forEach allHoses State.closeJournal).closeReceiptJournal
  let s := { s with isSealed := true, now := 0 }
  let s := s.forEach allHoses State.toRest
  let s := s.forEach allHoses State.startReader
  let s := s.forEach allComps State.startPump
  let s := if s.pins.estop then s.emergencyStop else s
  let s := s.startMeters
  let s := { s with sampler := { s.sampler with due := some 0 } }
  let s := s.startRestock.startLink
  let s := { s with
    log := { s.log with scrubDue := some (5 * Config.second) }
    scanDue := some (60 * Config.second) }
  s.postLosses

/-- SEAL (R166, R167). -/
def sealBody : Body := beforeSeal fun s =>
  match s.firstFailing with
  | some i => (s, ⟨.badConfig, [u8 i]⟩)
  | none =>
    if s.metro.issued = some s.metro.crc then (s.complete, Reply.ok [u32 s.journalCount])
    else (s, ⟨.metroMismatch, [u16 s.metro.crc.toNat]⟩)

/-! ## The restart (R162, R163, R170) -/

/-- The machine table at a restart with the losses found (R17). -/
def MachineTable.startUp (t : MachineTable) : MachineTable × List Loss :=
  let dropped := (t.entries.filter fun p => !p.2.passes).map fun p => { item := 1, value := p.1 }
  let kept := (t.entries.filter fun p => p.2.passes).map fun p =>
    (p.1, { p.2 with heard := Vector.replicate 16 none })
  if t.dayCrc = crc16 (beBytes 2 t.day.toNat) then ({ t with entries := kept }, dropped)
  else
    ({ entries := kept.map fun p => (p.1, p.2.newDay), day := 0, dayCrc := crc16 (beBytes 2 0) },
      dropped ++ [{ item := 2, value := 0 }])

/-- A book at a restart (R127). -/
def Book.startUp (k : CompId) (b : Book) : Book × List Loss :=
  if b.crc = crc16 (bookBytes k.val b.isSet b.value) then (b, [])
  else (bookOf k 0 false, [{ item := 6, value := k.val }])

/-- A hose's journal at a restart (R60). -/
def journalStartUp (n : HoseId) : Option Journal → Option Journal × List Loss
  | none => (none, [])
  | some j =>
    if j.crc = crc16 j.bytes then (some j, [])
    else (some { j with lost := true }, [{ item := 7, value := n.val }])

/-- The receipt journal at a restart (R137). -/
def receiptStartUp : Option ReceiptJournal → Option ReceiptJournal × List Loss
  | none => (none, [])
  | some j =>
    if j.crc = crc16 j.bytes then (some j, [])
    else (some { j with lost := true }, [{ item := 7, value := 4 }])

/-- The notice sequence counter at a restart (R147). -/
def noticeStartUp (seq crc : BitVec 16) : (BitVec 16 × BitVec 16) × List Loss :=
  if crc = crc16 (beBytes 2 seq.toNat) then ((seq, crc), [])
  else ((0, crc16 (beBytes 2 0)), [{ item := 8, value := 0 }])

/-- The reservations the journals hold (R113). -/
def State.journalHolders (s : State) : Vector Bool 5 :=
  #v[s.hoses[0].journal.isSome, s.hoses[1].journal.isSome, s.hoses[2].journal.isSome,
    s.hoses[3].journal.isSome, s.stock.rjournal.isSome]

/-- The losses the checks of R163 find, in its order. -/
def State.startUpLosses (s : State) : List Loss :=
  s.table.startUp.2 ++ (s.log.startUp s.journalHolders).2 ++
    (allComps.flatMap fun k => (s.stock.books[k].startUp k).2) ++
    (allHoses.flatMap fun n => (journalStartUp n s.hoses[n].journal).2) ++
    (receiptStartUp s.stock.rjournal).2 ++
    (noticeStartUp s.link.noticeSeq s.link.noticeCrc).2

/-- The stock keeper after a restart (R127). -/
def Stock.restarted (x : Stock) : Stock :=
  { books := #v[(x.books[0].startUp 0).1, (x.books[1].startUp 1).1],
    parked := false, history := Vector.replicate 2 [], levels := Vector.replicate 2 none,
    variance := Vector.replicate 2 { value := none, outside := false }, session := none,
    rjournal := (receiptStartUp x.rjournal).1, restock := .normal, goHold := none, yieldUntil := none }

/-- The site link after a restart (R147). -/
def Link.restarted (l : Link) : Link :=
  { state := .unknown, quiet := none, jam := none, queue := [], backoff := none, deferrals := 0,
    gen := none, noticeSeq := (noticeStartUp l.noticeSeq l.noticeCrc).1.1,
    noticeCrc := (noticeStartUp l.noticeSeq l.noticeCrc).1.2, clash := false,
    peers := Vector.replicate 16 none, rx := none, tx := none, sweepPos := 0, sweepDue := none,
    stockDue := none, rxErrors := 0, rxRejects := 0, seqDiscards := 0 }

/-- A restart of a cause (R162, R163, R170): volatile items at their restart values, retained ones kept
and checked. The input lines, the waiting queue and the bytes last shifted out are not the part's
retained or volatile items and stay. -/
def State.restart (cause : Byte) (s : State) : State :=
  let losses := s.startUpLosses
  { pins := s.pins, isSealed := false, now := 0, estopLatch := false, metroFault := false,
    scanDue := none, config := ConfigBlock.restarted, profiles := Vector.replicate 8 [],
    staged := none, metro := Metrology.restarted, readers := Vector.replicate 4 Reader.restarted,
    table := s.table.startUp.1,
    hoses := Vector.ofFn fun n : Fin 4 => Hose.bare .offline (journalStartUp n s.hoses[n].journal).1,
    pumps := Vector.replicate 2 Pump.restarted, meters := Vector.replicate 5 Meter.restarted,
    sampler := Sampler.restarted, log := (s.log.startUp s.journalHolders).1,
    stock := s.stock.restarted, link := s.link.restarted,
    port :=
      { held := startupReply cause losses.length, shiftedOut := s.port.shiftedOut, events := [],
        mask := 0, overflowed := false },
    losses, free := s.free, pending := s.pending }

/-! ## The metrology scan (R168) -/

/-- The interval of the scan, 60 s in µs. -/
def scanPeriod : Nat := 60 * Config.second

/-- A scan that finds a mismatch (R57, R168). -/
def State.metrologyFault (s : State) : State :=
  let s := { s with metroFault := true, scanDue := none }
  (s.post .metrologyFault .part s.metro.crc.toNat).stopAll .metrology

/-- SCAN_EXPIRY (R168). -/
def execScanExpiry (s : State) : Out :=
  .next <|
    match s.scanDue with
    | none => s
    | some due =>
      let s := s.reach due
      if s.metro.issued = some s.metro.crc then { s with scanDue := some (due + scanPeriod) }
      else s.metrologyFault

/-! ## The commands -/

def execSetConfig (tag item element : Byte) (value : BitVec 32) (s : State) : Out :=
  s.command 0x01 tag (setConfigBody item element value)

def execLoadProfile (tag profile count flag : Byte) (steps : Vector RawStep 4) (s : State) : Out :=
  s.command 0x02 tag (loadProfileBody profile count flag steps)

def execLoadProfileContinuation (tag profile count : Byte) (steps : Vector RawStep 4) (s : State) :
    Out :=
  s.command 0x02 tag (continuationBody s.staged profile count steps)

def execLoadMetrology (tag : Byte) (sect : MetroSection) (s : State) : Out :=
  s.command 0x03 tag (loadMetrologyBody sect)

def execSealPart (tag : Byte) (s : State) : Out := s.command 0x04 tag sealBody

/-- RESTART (R162, R170): its own answer is never sent. -/
def execRestart (_tag : Byte) (s : State) : Out := .next (s.beginExchange.restart 2)

/-- POWER_UP (R162). -/
def execPowerUp (s : State) : Out := .next (s.restart 0)

/-- RESETN_ASSERTION (R162). -/
def execResetnAssertion (s : State) : Out := .next (s.restart 1)

end Sys2Proof.Machine
end

