-- ==== Sys2Proof/Machine/Dispatch.lean ====
section
/-! DEFINITION. One arm a constructor of Instr: what a command or an event does. -/

namespace Sys2Proof.Machine

def exec (i : Instr) (s : State) : Host.Outcome State Fault Refusal :=
  match i with
  | .nop tag => Sys2Proof.Machine.execNop tag s
  | .unknownCommand code tag => Sys2Proof.Machine.execUnknownCommand code tag s
  | .exchangeCutShort bytes => Sys2Proof.Machine.execExchangeCutShort bytes s
  | .setConfig tag item element value => Sys2Proof.Machine.execSetConfig tag item element value s
  | .loadProfile tag profile count flag steps => Sys2Proof.Machine.execLoadProfile tag profile count flag steps s
  | .loadProfileContinuation tag profile count steps => Sys2Proof.Machine.execLoadProfileContinuation tag profile count steps s
  | .loadMetrology tag sect => Sys2Proof.Machine.execLoadMetrology tag sect s
  | .sealPart tag => Sys2Proof.Machine.execSealPart tag s
  | .restart tag => Sys2Proof.Machine.execRestart tag s
  | .powerUp => Sys2Proof.Machine.execPowerUp s
  | .resetnAssertion => Sys2Proof.Machine.execResetnAssertion s
  | .putMachine tag ring number costCentre permitted state allowance cap => Sys2Proof.Machine.execPutMachine tag ring number costCentre permitted state allowance cap s
  | .barMachine tag selector key => Sys2Proof.Machine.execBarMachine tag selector key s
  | .unbarMachine tag selector key => Sys2Proof.Machine.execUnbarMachine tag selector key s
  | .removeMachine tag selector key => Sys2Proof.Machine.execRemoveMachine tag selector key s
  | .getMachine tag selector key station page => Sys2Proof.Machine.execGetMachine tag selector key station page s
  | .setDay tag day => Sys2Proof.Machine.execSetDay tag day s
  | .authorise tag hose preset number => Sys2Proof.Machine.execAuthorise tag hose preset number s
  | .stop tag hose => Sys2Proof.Machine.execStop tag hose s
  | .setPreset tag hose preset => Sys2Proof.Machine.execSetPreset tag hose preset s
  | .getHose tag hose page => Sys2Proof.Machine.execGetHose tag hose page s
  | .estopClear tag => Sys2Proof.Machine.execEstopClear tag s
  | .readRecord tag k part drain => Sys2Proof.Machine.execReadRecord tag k part drain s
  | .readRecordDrain tag k part => Sys2Proof.Machine.execReadRecordDrain tag k part s
  | .release tag n => Sys2Proof.Machine.execRelease tag n s
  | .setStock tag comp book => Sys2Proof.Machine.execSetStock tag comp book s
  | .receiptBegin tag comp => Sys2Proof.Machine.execReceiptBegin tag comp s
  | .receiptEnd tag => Sys2Proof.Machine.execReceiptEnd tag s
  | .setParked tag value => Sys2Proof.Machine.execSetParked tag value s
  | .getStock tag page => Sys2Proof.Machine.execGetStock tag page s
  | .getLink tag station page => Sys2Proof.Machine.execGetLink tag station page s
  | .readEvent tag => Sys2Proof.Machine.execReadEvent tag s
  | .setEventMask tag mask => Sys2Proof.Machine.execSetEventMask tag mask s
  | .seatEvent hose => Sys2Proof.Machine.execSeatEvent hose s
  | .unseatEvent hose => Sys2Proof.Machine.execUnseatEvent hose s
  | .deadmanHeld hose => Sys2Proof.Machine.execDeadmanHeld hose s
  | .deadmanRelease hose => Sys2Proof.Machine.execDeadmanRelease hose s
  | .estopAssertion => Sys2Proof.Machine.execEstopAssertion s
  | .estopRelease => Sys2Proof.Machine.execEstopRelease s
  | .pfltAssertion pump => Sys2Proof.Machine.execPfltAssertion pump s
  | .pfltRelease pump => Sys2Proof.Machine.execPfltRelease pump s
  | .periodExpiry reader => Sys2Proof.Machine.execPeriodExpiry reader s
  | .padMeasurement reader count => Sys2Proof.Machine.execPadMeasurement reader count s
  | .armExpiry hose => Sys2Proof.Machine.execArmExpiry hose s
  | .pauseExpiry hose => Sys2Proof.Machine.execPauseExpiry hose s
  | .windowExpiry meter => Sys2Proof.Machine.execWindowExpiry meter s
  | .spinUpExpiry pump => Sys2Proof.Machine.execSpinUpExpiry pump s
  | .runOnExpiry pump => Sys2Proof.Machine.execRunOnExpiry pump s
  | .pwmPeriodStart pump => Sys2Proof.Machine.execPwmPeriodStart pump s
  | .analogSample sample => Sys2Proof.Machine.execAnalogSample sample s
  | .reservationExpiry slot station => Sys2Proof.Machine.execReservationExpiry slot station s
  | .scrubExpiry => Sys2Proof.Machine.execScrubExpiry s
  | .goHoldExpiry => Sys2Proof.Machine.execGoHoldExpiry s
  | .yieldExpiry => Sys2Proof.Machine.execYieldExpiry s
  | .carrierEvent => Sys2Proof.Machine.execCarrierEvent s
  | .carrierRelease => Sys2Proof.Machine.execCarrierRelease s
  | .linkCharacter char => Sys2Proof.Machine.execLinkCharacter char s
  | .quietExpiry => Sys2Proof.Machine.execQuietExpiry s
  | .jamExpiry => Sys2Proof.Machine.execJamExpiry s
  | .backoffExpiry => Sys2Proof.Machine.execBackoffExpiry s
  | .endOfTransmission => Sys2Proof.Machine.execEndOfTransmission s
  | .stalenessExpiry station => Sys2Proof.Machine.execStalenessExpiry station s
  | .machineSweep => Sys2Proof.Machine.execMachineSweep s
  | .stockSweep => Sys2Proof.Machine.execStockSweep s
  | .scanExpiry => Sys2Proof.Machine.execScanExpiry s
  | .phaseLineObservation meter a b => Sys2Proof.Machine.execPhaseLineObservation meter a b s

end Sys2Proof.Machine
end

