-- ==== Sys2Proof/Machine/Step.lean ====
section
/-! DEFINITION. A step: the command or event at the front of the queue, and what an empty queue does. -/

namespace Sys2Proof.Machine

/-- A step on an empty queue: a microsecond passes on a sealed part, and nothing before the seal, when the
seconds count stands still (DESIGN CHOICE, log entry 2; R162). -/
def State.idle (s : State) : State := if s.isSealed then { s with now := s.now + 1 } else s

/-- One step: the front of the queue is taken, and the rest waits (log entry 1). -/
def step (s : State) : Host.Outcome State Fault Refusal :=
  match s.pending with
  | [] => .next s.idle
  | c :: rest => exec c { s with pending := rest }

/-- The command a word of the table spells, put at the front of the queue; no word spells one. -/
def State.withFetchWord (s : State) (nbits w : Nat) : State :=
  match decodeTableWord nbits w with
  | none => s
  | some c => { s with pending := c :: s.pending }

end Sys2Proof.Machine
end

