-- ==== Sys2Proof/Safety.lean ====
section
/-! DEFINITION. The invariants of the part that its rules promise, and the words in which results of the
port's commands are stated. -/

namespace Sys2Proof.Machine

/-! ## Replies -/

/-- The 32 bytes of a reply: code, tag, status, result bytes, and zeros (R169, R171; the zeros beyond the
results of an OK reply are the model's choice, log entry 47). -/
def replyBytes (code tag : Byte) (status : Nat) (results : List Byte) : List Byte :=
  ([code, tag, BitVec.ofNat 8 status] ++ results ++ List.replicate 32 0).take 32

/-- A state with a given held reply. -/
def State.holding (reply : List Byte) (s : State) : State :=
  { s with port := { s.port with held := reply } }

/-- The state a refused command leaves: its status with result bytes of 0 (R171). -/
def State.refusing (code tag : Byte) (status : Status) (s : State) : State :=
  s.beginExchange.holding (replyBytes code tag status.code [])

/-- The metrology block with one meter's calibration replaced. -/
def Metrology.withMeter (i : MeterId) (c : MeterCal) (m : Metrology) : Metrology :=
  { m with meters := m.meters.set i c }

/-! ## Hoses, readers and meters -/

/-- The links between a hose, its reader and its meter channel: before the seal every hose is OFFLINE
(R36); a reader READING belongs to a hose READING (R7); a channel attached to a delivery belongs to a
hose in PRIMING through SETTLING (R91). -/
structure HoseInv (s : State) : Prop where
  offline : s.isSealed = false → ∀ n : HoseId, s.hoses[n].state = .offline
  reading : ∀ n : HoseId, s.readers[n].state = .reading → s.hoses[n].state = .reading
  attached : ∀ n : HoseId, s.meters[meterOf n].attach = .delivery → s.hoses[n].state.delivering = true

/-! ## Valves and pumps (R54, R75) -/

/-- What R54 promises: a valve is open only in FLOWING, with the pump RUNNING and both latches clear. -/
def ValvesSafe (s : State) : Prop :=
  ∀ n : HoseId, s.drivenStage n ≠ .closed →
    s.hoses[n].state = .flowing ∧ (s.pumpOf n).state = .running ∧ s.estopLatch = false ∧
      s.metroFault = false

/-- Claims, run states and latches as R54, R55 and R75 to R81 keep them. -/
structure FlowInv (s : State) : Prop where
  hoses : HoseInv s
  stopped : s.isSealed = false → ∀ k : CompId,
    s.pumps[k].state = .off ∧ s.pumps[k].spinUp = none ∧ s.pumps[k].runOn = none
  claimed : ∀ n : HoseId, (s.pumpOf n).claims[n] = s.hoses[n].state.isActive
  own : ∀ (k : CompId) (n : HoseId), s.pumps[k].claims[n] = true → s.hoseComp n = k
  flowing : ∀ n : HoseId, s.hoses[n].state = .flowing → (s.pumpOf n).state = .running
  waiting : ∀ n : HoseId, s.hoses[n].state.isActive = true →
    (s.pumpOf n).state = .starting ∨ (s.pumpOf n).state = .running
  spinning : ∀ k : CompId, s.pumps[k].spinUp.isSome = true → s.pumps[k].state = .starting
  runningOn : ∀ k : CompId, s.pumps[k].runOn.isSome = true → s.pumps[k].state = .runOn
  latched : s.estopLatch = true ∨ s.metroFault = true →
    ∀ n : HoseId, s.hoses[n].state.isActive = false ∧ s.hoses[n].state ≠ .armed

/-! ## Entry to SETTLING and cancellation (R42, R51) -/

/-- The context of a hose once it has entered SETTLING with a cause by a stop or a fault (R51, R52), its journal
as given. -/
def State.stoppedContext (s : State) (n : HoseId) (cause : EndCause) (journal : Option Journal) : Hose :=
  { s.hoses[n] with
    state := .settling, endCause := some cause, pauseExpiry := none, settleCount := 0, quietRun := 0
    settleFresh := s.meters[meterOf n].due.any fun due => s.now < due
    step := none, journal }

/-- What hose `n`'s entry to SETTLING with a cause does (R51), from `s` to `t`: the stage is CLOSED, grant,
queue place and claim are given up, the pause expiry and the step state removed, the counts 0, and the
journal is rewritten with the end cause. The window in flight is marked as not counted unless its expiry time
has come (R52, R74; log entry 8). A RUNNING pump without a further claim goes to RUN_ON, or to OFF when
PUMP_RUNON is 0, and any other stays as it is (R78); a freed grant passes to the head of the wait queue (R83),
and the demand is selected anew (R84). The context's other items, the other hoses and the other pump stay. -/
structure EntersSettling (n : HoseId) (cause : EndCause) (s t : State) : Prop where
  state : t.hoses[n].state = .settling
  context : t.hoses[n] = s.stoppedContext n cause t.hoses[n].journal
  journal : t.hoses[n].journal = some (t.hoses[n].toJournal n (s.hoseComp n))
  closed : t.drivenStage n = .closed
  claim : (t.pumpOf n).claims[n] = false
  claims : ∀ m : HoseId, m ≠ n → (t.pumpOf n).claims[m] = (s.pumpOf n).claims[m]
  runsOn : (s.pumpOf n).state = .running → (∀ m : HoseId, m ≠ n → (s.pumpOf n).claims[m] = false) →
    (0 < s.pumpRunon → (t.pumpOf n).state = .runOn ∧
      (t.pumpOf n).runOn = some (s.now / 1000000 + s.pumpRunon)) ∧
    (s.pumpRunon = 0 → (t.pumpOf n).state = .off ∧ (t.pumpOf n).duty = 0)
  staysOn : (s.pumpOf n).state ≠ .running ∨ (∃ m : HoseId, m ≠ n ∧ (s.pumpOf n).claims[m] = true) →
    (t.pumpOf n).state = (s.pumpOf n).state ∧ (t.pumpOf n).runOn = (s.pumpOf n).runOn ∧
    (t.pumpOf n).spinUp = (s.pumpOf n).spinUp ∧
    ((s.pumpOf n).grants[n] = false → (t.pumpOf n).grants = (s.pumpOf n).grants ∧
      (t.pumpOf n).queue = (s.pumpOf n).queue.filter fun m => m ≠ n) ∧
    ((s.pumpOf n).grants[n] = true → (s.pumpOf n).queue = [] →
      (t.pumpOf n).grants = (s.pumpOf n).grants.set n false ∧ (t.pumpOf n).queue = []) ∧
    (∀ (m : HoseId) (rest : List HoseId), (s.pumpOf n).grants[n] = true →
      (s.pumpOf n).queue = m :: rest →
      (t.pumpOf n).grants = ((s.pumpOf n).grants.set n false).set m true ∧
      (t.pumpOf n).queue = rest)
  demand : (t.pumpOf n).demand = t.selectedDemand (s.hoseComp n)
  grant : (t.pumpOf n).grants[n] = false ∧ n ∉ (t.pumpOf n).queue
  others : ∀ m : HoseId, m ≠ n → t.hoses[m] = s.hoses[m]
  pump : ∀ k : CompId, k ≠ s.hoseComp n → t.pumps[k] = s.pumps[k]
  frame : t = { s with hoses := t.hoses, pumps := t.pumps }

/-- Where a hose comes to rest: FINISHED with its seat line asserted, IDLE with it released. -/
def State.atRest (s : State) (n : HoseId) : Hose :=
  Hose.bare (if s.pins.seat[n] then .finished else .idle) s.hoses[n].journal

/-- What the cancellation of hose `n` leaves (R42): the context is discarded and the hose comes to rest;
an ARMED hose gives up its log slot and asks for the subject of its ring ID. -/
def State.cancelled (n : HoseId) (s : State) : State :=
  if s.hoses[n].state = .armed then
    State.ask (.machine s.hoses[n].identity.ring)
      { s with
        hoses := s.hoses.set n (s.atRest n)
        log := { s.log with reserved := s.log.reserved.set (holderOf n) false } }
  else { s with hoses := s.hoses.set n (s.atRest n) }

/-! ## Emergency stop and metrology fault (R55, R57, R81) -/

/-- The part once each ARMED hose, H0 to H3, has asked for the subject of its ring ID (R42, R55). -/
def State.askedByArmed (s : State) : State :=
  let ask (n : HoseId) (v : State) : State :=
    if s.hoses[n].state = .armed then v.ask (.machine s.hoses[n].identity.ring) else v
  ask 3 (ask 2 (ask 1 (ask 0 s)))

/-- What the response of hoses and pumps to an emergency stop or a metrology fault does (R55 steps 2 to 5, R57,
R81), from `s` to `t`: both pumps go to OFF, or to FAULT while their fault line holds them there, with no
claim, grant, place, expiry, demand or duty; every stage is CLOSED; PRIMING, FLOWING and PAUSED hoses enter
SETTLING with the cause; IDENTIFIED and ARMED ones are cancelled, the ARMED ones giving up their log slots and
asking for their subjects in hose order; and everything else stays. -/
structure StopsEverything (cause : EndCause) (s t : State) : Prop where
  pumps : ∀ k : CompId, t.pumps[k] = { s.pumps[k] with
    state := if s.pumps[k].state = .fault ∧ s.pins.pflt[k] = true then .fault else .off
    claims := Vector.replicate 4 false, grants := Vector.replicate 4 false, queue := []
    spinUp := none, runOn := none, demand := none, duty := 0 }
  closed : ∀ n : HoseId, t.drivenStage n = .closed
  settling : ∀ n : HoseId, s.hoses[n].state.isActive = true →
    t.hoses[n] = s.stoppedContext n cause t.hoses[n].journal ∧
    t.hoses[n].journal = some (t.hoses[n].toJournal n (s.hoseComp n))
  cancelled : ∀ n : HoseId, s.hoses[n].state = .identified ∨ s.hoses[n].state = .armed →
    t.hoses[n] = s.atRest n
  others : ∀ n : HoseId, s.hoses[n].state.isActive = false → s.hoses[n].state ≠ .identified →
    s.hoses[n].state ≠ .armed → t.hoses[n] = s.hoses[n]
  reserved : ∀ n : HoseId, t.log.reserved[holderOf n] =
    (s.log.reserved[holderOf n] && decide (s.hoses[n].state ≠ .armed))
  receipt : t.log.reserved[holderReceipt] = s.log.reserved[holderReceipt]
  asked : t.link = s.askedByArmed.link ∧ t.port = s.askedByArmed.port
  frame : t = { s with
    hoses := t.hoses, pumps := t.pumps, log := { s.log with reserved := t.log.reserved }
    link := t.link, port := t.port }

/-! ## A change of a book (R128) and a window accounted as stray (R90, R92) -/

/-- The part once the book of a compartment has come to a value, held at its bound (R128): the book with its
CRC, then the restock evaluation (R142) and the high-level test of a session (R138), in the model's order
(log entry 31). -/
def State.rebooked (k : CompId) (value : Int) (s : State) : State :=
  let book := bookOf k (max (-2147483647) (min 2147483647 value)) s.stock.books[k].isSet
  let changed : State := { s with stock := { s.stock with books := s.stock.books.set k book } }
  changed.evaluateRestock.highLevelTest k

/-- What accounting the window in flight of hose `n`'s channel as a stray window does (R90, R92, R93, R96 to
R98), from `s` to `t`: its whole millilitres go to the book with what follows a change of it (R128), the
residue and the remainders stay, a count opens the episode and posts STRAY_FLOW after what the book's change
posts (the model's choice, log entry 31), a quiet run of SETTLE_QUIET ends it, and the rate is the channel's
last rate. -/
def AccountsStray (n : HoseId) (s t : State) : Prop :=
  let c := s.meters[meterOf n]
  let k := s.hoseComp n
  let rate := rateOf c.count s.metro.meters[meterOf n].nf
  let gross := grossStep c.count (curveAt s.metro.meters[meterOf n].curve rate) c.stray.gRem
  let net := netStep gross.whole (vcfOf (s.alphaOf k) (s.compTemp k)) c.stray.nRem
  let residue := c.stray.residue + net.whole
  let w := truncDiv residue 1000
  let quiet := if c.count ≠ 0 then 0 else if c.stray.episode then c.stray.quiet + 1 else c.stray.quiet
  let episode := if c.count ≠ 0 then true else c.stray.episode && decide (quiet < s.settleQuiet)
  let book := bookOf k (max (-2147483647) (min 2147483647 (s.stock.books[k].value - w)))
    s.stock.books[k].isSet
  let u := if w = 0 then s else s.rebooked k (s.stock.books[k].value - w)
  t.meters[meterOf n].stray =
    { gRem := gross.rem, nRem := net.rem, residue := residue - 1000 * w, episode, quiet } ∧
  t.meters[meterOf n].lastRate = rate ∧
  t.stock.books = (if w = 0 then s.stock.books else s.stock.books.set k book) ∧
  t.stock = u.stock ∧ t.link = u.link ∧
  t.port = (if c.count ≠ 0 ∧ c.stray.episode = false then
    u.post .strayFlow (.hose n) c.count else u).port

/-! ## Grants and wait queues (R82) -/

/-- Whether a hose is FLOWING with FULL handed to its pump (R70, R72). -/
def Hose.wantsFull (h : Hose) : Bool :=
  match h.state, h.step with
  | .flowing, some st => st.handed == .full
  | _, _ => false

/-- What R82 promises of a pump's grants and queue, with the link to the hoses that keeps it. -/
structure GrantInv (s : State) : Prop where
  hoses : HoseInv s
  empty : s.isSealed = false → ∀ (k : CompId) (n : HoseId),
    s.pumps[k].grants[n] = false ∧ s.pumps[k].queue = []
  limit : ∀ k : CompId, s.pumps[k].grantCount ≤ s.maxFull k
  once : ∀ k : CompId, s.pumps[k].queue.Nodup
  apart : ∀ (k : CompId) (n : HoseId), n ∈ s.pumps[k].queue → s.pumps[k].grants[n] = false
  holders : ∀ (k : CompId) (n : HoseId), s.pumps[k].grants[n] = true ∨ n ∈ s.pumps[k].queue →
    s.hoseComp n = k ∧ s.hoses[n].wantsFull = true

/-! ## The port (R169, R175, R177) -/

/-- The held reply has 32 bytes, the event queue at most 32 events, the mask's bits 18 to 23 are 0. -/
structure PortInv (s : State) : Prop where
  held : s.port.held.length = 32
  events : s.port.events.length ≤ Config.eventRoom
  mask : s.port.mask.toNat < 2 ^ 18

/-! ## The site link (R147 to R153) -/

/-- The transmit queue, the deferral count, the generator and the expiries of the link. -/
structure LinkInv (s : State) : Prop where
  room : s.link.queue.length ≤ Config.subjectRoom
  once : s.link.queue.Nodup
  deferrals : s.link.deferrals < deferralLimit
  generator : s.link.gen ≠ some 0
  backoff : s.link.backoff.isSome = true →
    s.link.state = .idle ∧ s.link.clash = false ∧ s.link.queue ≠ []
  jam : s.link.jam.isSome = true → s.link.state = .busy ∨ s.link.state = .unknown
  quiet : s.link.quiet.isSome = true → s.link.state = .unknown ∧ s.link.jam = none
  sending : s.link.tx.isSome = true → s.link.state = .sending
  asleep : s.isSealed = false →
    s.link.state = .unknown ∧ s.link.jam = none ∧ s.link.quiet = none ∧ s.link.rx = none

/-! ## The delivery log (R113 to R117) -/

/-- Stored and reserved slots never exceed 1024. Before the seal the reservations are those of the journals;
after it they are those of the open deliveries and of the receipt session, and every journal belongs to one
of them. -/
structure LogInv (s : State) : Prop where
  hoses : HoseInv s
  room : s.log.count + s.log.reservedCount ≤ Config.logSlots
  inRing : s.log.oldest < Config.logSlots
  unsealed : s.isSealed = false → s.log.reserved = s.journalHolders
  deliveries : s.isSealed = true → ∀ n : HoseId,
    s.log.reserved[holderOf n] = s.hoses[n].state.isOpen
  receipts : s.isSealed = true → s.log.reserved[holderReceipt] = s.stock.session.isSome
  journals : s.isSealed = true → ∀ n : HoseId,
    s.hoses[n].journal.isSome = true → s.hoses[n].state.delivering = true
  sessions : s.isSealed = true → s.stock.rjournal.isSome = true → s.stock.session.isSome = true
  noSession : s.isSealed = false → s.stock.session = none

/-! ## Retained items (R163) -/

/-- Every retained item passes its check: entries, day, log index, stored records, sequence counter,
books, journals, notice counter. Every slot holds 48 bytes, and the records of the run bear the marker
STORED (R113). -/
structure CrcInv (s : State) : Prop where
  log : LogInv s
  entries : ∀ p ∈ s.table.entries, p.2.passes = true
  day : s.table.dayCrc = crc16 (beBytes 2 s.table.day.toNat)
  logIndex : s.log.indexCrc = crc16 (indexBytes s.log.oldest s.log.count)
  records : ∀ i : Nat, (s.log.slotAt i).stored = true → recordPasses (s.log.slotAt i).bytes = true
  lengths : ∀ i : Nat, (s.log.slotAt i).bytes.length = 48
  stored : ∀ i : Nat, i < s.log.count → (s.log.slotAt (s.log.position i)).stored = true
  counter : s.log.seqCrc = crc16 (beBytes 4 s.log.seq.toNat)
  books : ∀ k : CompId,
    s.stock.books[k].crc = crc16 (bookBytes k.val s.stock.books[k].isSet s.stock.books[k].value)
  journals : ∀ (n : HoseId) (j : Journal), s.hoses[n].journal = some j → j.crc = crc16 j.bytes
  receipt : ∀ j : ReceiptJournal, s.stock.rjournal = some j → j.crc = crc16 j.bytes
  notices : s.link.noticeCrc = crc16 (beBytes 2 s.link.noticeSeq.toNat)

/-! ## The machine table (R16) -/

/-- The fields of an entry are in the ranges of R16. -/
def Entry.inRange (e : Entry) : Bool :=
  isCanonical e.ring && e.number != 0 && decide (e.costCentre.toNat ≤ 63) &&
    (e.permitC0 || e.permitC1) && e.cap != 0 && e.tally.toList.all fun t => decide (t ≤ 4294967295)

/-- Slots 0..255, each at most once and in order; no two entries with one ring ID or one machine number;
every entry in range. -/
structure TableInv (s : State) : Prop where
  rising : Sparse.rising s.table.entries = true
  slots : ∀ p ∈ s.table.entries, p.1 < 256
  rings : (s.table.entries.map fun p => p.2.ring).Nodup
  numbers : (s.table.entries.map fun p => p.2.number).Nodup
  ranges : ∀ p ∈ s.table.entries, p.2.inRange = true

/-! ## The sparse stores (R113, R164) -/

/-- The log's slots and the configuration items stand in their one canonical form: keys strictly rising, no
entry equal to what an unlisted key reads as. -/
structure StoreInv (s : State) : Prop where
  slots : Sparse.wf (fun _ => LogSlot.blank) s.log.slots = true
  items : Sparse.wf itemDefault s.config.items = true

end Sys2Proof.Machine
end

