-- ==== Sys2Proof/Certificates/Slice0/Obligations.lean ====
section
/-! DEFINITION. The statements about the part. `u.holding (replyBytes c t st l)` is `u` with the held reply
of code `c`, tag `t`, status `st` and results `l` (R169, R171; the zeros beyond the results of an OK reply are
the model's choice, log entry 47); `s.refusing c t st` is what a refused command
leaves; `s.beginExchange` is `s` with the held reply shifted out and a staged load discarded (R169, R174; log
entry 17 for a refused command).
Where a statement takes an expiry or a measurement that is due at a time, `now := max s.now due` says that
the clock does not run back: the model's choice, as is the free order of events (log entry 1). -/

open Sys2Proof Sys2Proof.Machine

/-! ## The queue and the step -/

/-- A step of a state with `c` at the front of its queue is `exec c` on the state with the queue's rest. With
nothing waiting, a sealed part lets a microsecond pass and an unsealed one is unchanged: the model's choice
(log entry 2). -/
def Obligations.StepTakesFrontOrIdles : Prop :=
  (∀ (c : Instr) (rest : List Instr) (s : State), s.pending = c :: rest →
    step s = exec c { s with pending := rest }) ∧
  (∀ s : State, s.pending = [] →
    step s = .next (if s.isSealed then { s with now := s.now + 1 } else s))

/-- Every command and event is answered by a next state, in every state, and leaves the commands that wait. -/
def Obligations.EveryCommandAnswersNext : Prop :=
  ∀ (i : Instr) (s : State), ∃ t, exec i s = .next t ∧ t.pending = s.pending

/-- The frame of every well-formed command decodes to that command (R172, R174), and so do its bytes with
more clocked after the 32nd, which are ignored (R169). -/
def Obligations.FramesDecodeBack : Prop :=
  ∀ (i : Instr) (f : List Byte), i.wellFormed = true → encodeFrame i = some f →
    f.length = 32 ∧ decodeFrame f = some i ∧
    ∀ beyond : List Byte, decodeFrame (f ++ beyond) = some i

/-! ## Reset and invariants -/

/-- The part after its first power-up has the nine invariants of the statements below. -/
def Obligations.ResetHasEveryInvariant : Prop :=
  HoseInv State.reset ∧ FlowInv State.reset ∧ GrantInv State.reset ∧ PortInv State.reset ∧
    LinkInv State.reset ∧ LogInv State.reset ∧ CrcInv State.reset ∧ TableInv State.reset ∧
    StoreInv State.reset

/-- R54, R82: where FlowInv holds (a statement of its own says that every step keeps it), a valve is open
only in FLOWING, with the pump RUNNING and both latches clear. The second clause is the stage table: CLOSED
outside FLOWING; in FLOWING the stage of the current step, where FULL is driven as FULL for a hose that
holds a grant and as SLOW for one that does not. A hose whose stage is FULL holds a grant. CLOSED drives
VSLOWn and VFULLn low, SLOW VSLOWn alone high, FULL both high. -/
def Obligations.ValvesOpenOnlyWhenSafe : Prop :=
  (∀ s : State, FlowInv s → ValvesSafe s) ∧
  (∀ (n : HoseId) (s : State),
    let st := s.hoses[n].state
    let stage := s.drivenStage n
    let grant := (s.pumpOf n).grants[n]
    (st ≠ .flowing → stage = .closed) ∧
    (∀ x : StepState, st = .flowing → s.hoses[n].step = some x →
      (x.stage = .closed → stage = .closed) ∧
      (x.stage = .slow → stage = .slow) ∧
      (x.stage = .full → grant = true → stage = .full) ∧
      (x.stage = .full → grant = false → stage = .slow)) ∧
    (stage = .full → grant = true) ∧
    (stage = .closed → s.vslow n = false ∧ s.vfull n = false) ∧
    (stage = .slow → s.vslow n = true ∧ s.vfull n = false) ∧
    (stage = .full → s.vslow n = true ∧ s.vfull n = true))

/-- Every step keeps FlowInv: the links HoseInv; before the seal the pumps OFF without an expiry; a pump's
claim set the PRIMING, FLOWING and PAUSED hoses of its compartment (R75); FLOWING only on a RUNNING pump,
and a claimed pump STARTING or RUNNING (R77, R78); a spin-up expiry only in STARTING and a run-on expiry
only in RUN_ON; and no such hose and no ARMED one while the emergency-stop latch or the metrology fault is
set (R55, R57). -/
def Obligations.FlowInvKept : Prop := ∀ s t : State, FlowInv s → step s = .next t → FlowInv t

/-- Every step keeps GrantInv: the links HoseInv; before the seal no grant and an empty wait queue; grants
within the limit of R82; each hose at most once in a queue and not also granted; and a grant or a queue
place only of a FLOWING hose of the pump's compartment with FULL handed over (R72, R82). -/
def Obligations.GrantInvKept : Prop := ∀ s t : State, GrantInv s → step s = .next t → GrantInv t

/-- Every step keeps PortInv: a held reply of 32 bytes (R169), at most 32 events (R175), and bits 18 to 23
of the mask 0 (R177). Every step keeps StoreInv: the log's slots and the configuration items in their one
canonical form, keys strictly rising and no entry equal to what an unlisted key reads as. -/
def Obligations.PortAndStoreInvKept : Prop :=
  (∀ s t : State, PortInv s → step s = .next t → PortInv t) ∧
  (∀ s t : State, StoreInv s → step s = .next t → StoreInv t)

/-- Every step keeps LinkInv: a transmit queue of at most 16 subjects, none twice (R150); fewer than 32
deferrals and a generator other than 0 (R151, R152); a backoff only in IDLE with the clash latch clear and a
subject waiting; jam, quiet and transmission expiries only in the states of R149 and R153; and before the
seal the link UNKNOWN with none of them and no frame in reception. -/
def Obligations.LinkInvKept : Prop := ∀ s t : State, LinkInv s → step s = .next t → LinkInv t

/-- Every step keeps LogInv: the links HoseInv; stored and reserved slots within 1024, the oldest below 1024
(R113, R114); before the seal the reservations of the journals and no session; after it those of the open
deliveries and of the receipt session, and every journal belongs to one of them. -/
def Obligations.LogInvKept : Prop := ∀ s t : State, LogInv s → step s = .next t → LogInv t

/-- Every step keeps CrcInv: LogInv; the check of every retained item of R163 passes, be it an entry, the
day, the log index, a stored record, the sequence counter, a book, a journal or the notice counter; every
slot holds 48 bytes, and the records of the run bear the marker STORED (R113). -/
def Obligations.RetainedChecksKept : Prop := ∀ s t : State, CrcInv s → step s = .next t → CrcInv t

/-- Every step keeps TableInv: the machine table's occupied slots within 0 to 255, each once and in order;
no two entries with one ring ID or one machine number; every field of an entry in the range of R16. -/
def Obligations.TableInvKept : Prop := ∀ s t : State, TableInv s → step s = .next t → TableInv t

/-! ## The port -/

/-- R169, R171: a NOP answers OK with results of 0, a code outside the table BAD_COMMAND (keeping a staged
load: the model's choice, log entry 17), and a cut-short exchange shifts out the held reply as far as it
went and executes nothing. A command whose phase is "after" is refused with NOT_SEALED before the seal, one
whose phase is "before" with SEALED after it; a refusal changes nothing but the exchange (the held reply,
the bytes shifted out, and a staged load, which is discarded, but for a refused continuation, which keeps
it: log entry 17). PDO shifts out the 32 bytes of the held reply and is low beyond them. -/
def Obligations.PortAnswersOrRefuses : Prop :=
  (∀ s : State,
    (∀ tag, exec (.nop tag) s = .next (s.beginExchange.holding (replyBytes 0x00 tag 0 []))) ∧
    (∀ code tag, exec (.unknownCommand code tag) s =
      .next (({ s.beginExchange with staged := s.staged }).holding (replyBytes code tag 1 []))) ∧
    (∀ bytes : Fin 32, exec (.exchangeCutShort bytes) s =
      .next { s with port := { s.port with shiftedOut := s.port.held.take bytes.val } }) ∧
    (s.port.held.length = 32 → ∀ tag : Byte, ∃ t : State, exec (.nop tag) s = .next t ∧
      (∀ i < 32, t.pdo i = s.port.held.getD i 0) ∧ ∀ i, 32 ≤ i → t.pdo i = 0)) ∧
  (∀ (s : State) (tag : Byte),
    (s.isSealed = false →
      (∀ r n c p st a cap, exec (.putMachine tag r n c p st a cap) s = .next (s.refusing 0x10 tag .notSealed)) ∧
      (∀ sel key, exec (.barMachine tag sel key) s = .next (s.refusing 0x11 tag .notSealed)) ∧
      (∀ sel key, exec (.unbarMachine tag sel key) s = .next (s.refusing 0x12 tag .notSealed)) ∧
      (∀ sel key, exec (.removeMachine tag sel key) s = .next (s.refusing 0x13 tag .notSealed)) ∧
      (∀ day, exec (.setDay tag day) s = .next (s.refusing 0x15 tag .notSealed)) ∧
      (∀ h p m, exec (.authorise tag h p m) s = .next (s.refusing 0x20 tag .notSealed)) ∧
      (∀ h, exec (.stop tag h) s = .next (s.refusing 0x21 tag .notSealed)) ∧
      (∀ h p, exec (.setPreset tag h p) s = .next (s.refusing 0x22 tag .notSealed)) ∧
      exec (.estopClear tag) s = .next (s.refusing 0x24 tag .notSealed) ∧
      (∀ c b, exec (.setStock tag c b) s = .next (s.refusing 0x40 tag .notSealed)) ∧
      (∀ c, exec (.receiptBegin tag c) s = .next (s.refusing 0x41 tag .notSealed)) ∧
      exec (.receiptEnd tag) s = .next (s.refusing 0x42 tag .notSealed) ∧
      (∀ v, exec (.setParked tag v) s = .next (s.refusing 0x43 tag .notSealed))) ∧
    (s.isSealed = true →
      (∀ i e v, exec (.setConfig tag i e v) s = .next (s.refusing 0x01 tag .sealed)) ∧
      (∀ p c f st, exec (.loadProfile tag p c f st) s = .next (s.refusing 0x02 tag .sealed)) ∧
      (∀ p c st, exec (.loadProfileContinuation tag p c st) s =
        .next { s.refusing 0x02 tag .sealed with staged := s.staged }) ∧
      (∀ x, exec (.loadMetrology tag x) s = .next (s.refusing 0x03 tag .sealed)) ∧
      exec (.sealPart tag) s = .next (s.refusing 0x04 tag .sealed)))

/-- R176: READ_EVENT removes and returns the oldest event, or answers EMPTY; OVERFLOWED is reported and
cleared, and the count is that after the removal. PATN is then high when events are left behind and low when
the last one was removed or none waited (R175). An event's value is signed for STRAY_FLOW, RECEIPT_STRAY and
VARIANCE. Where a figure of the event does not fit its field, nothing is said of the bytes shown but their
number (a free value, log entry 13). The zeros beyond the results of an OK reply are the model's choice (log
entry 47). -/
def Obligations.ReadEventTakesOldest : Prop :=
  ∀ (tag : Byte) (s : State),
    (s.port.events = [] →
      exec (.readEvent tag) s = .next
        (({ s.beginExchange with port := { s.beginExchange.port with overflowed := false } }).holding
          (replyBytes 0x60 tag 20
            (List.replicate 14 0 ++ [boolByte s.port.overflowed, 0])))) ∧
    (∀ (e : Event) (rest : List Event), s.port.events = e :: rest → rest.length < 256 →
      ∃ shown : List Byte, shown.length = 14 ∧
        exec (.readEvent tag) s = .next
          (({ s.beginExchange with
              port := { s.beginExchange.port with events := rest, overflowed := false } }).holding
            (replyBytes 0x60 tag 0
              (shown ++ [boolByte s.port.overflowed, BitVec.ofNat 8 rest.length]))) ∧
        (e.subject.number < 2 ^ 32 → e.postedAt < 2 ^ 32 →
          (if e.kind.signedValue then -2 ^ 31 ≤ e.value ∧ e.value < 2 ^ 31
            else 0 ≤ e.value ∧ e.value < 2 ^ 32) →
          shown = [BitVec.ofNat 8 e.kind.code, BitVec.ofNat 8 e.subject.classCode] ++
            beBytes 4 e.subject.number ++ beBytesInt 4 e.value ++ beBytes 4 e.postedAt)) ∧
    (∀ t : State, exec (.readEvent tag) s = .next t →
      (t.patn = true ↔ 1 < s.port.events.length))

/-- R175, R177: a mask with one of bits 18 to 23 set is BAD_PARAM; another is taken, the answer being the
mask before, and the queued events stay. From then on a posting of a masked kind leaves the part unchanged;
otherwise the event joins the tail with the seconds count while the queue holds fewer than 32, and sets
OVERFLOWED when it holds 32. PATN is low exactly while the queue is empty. The zeros beyond the results of
an OK reply are the model's choice (log entry 47). -/
def Obligations.EventMaskDecidesPosting : Prop :=
  (∀ (tag : Byte) (mask : BitVec 24) (s : State),
    (mask >>> 18 ≠ 0 → exec (.setEventMask tag mask) s = .next (s.refusing 0x61 tag .badParam)) ∧
    (mask >>> 18 = 0 → ∃ t : State, exec (.setEventMask tag mask) s = .next t ∧
      t = ({ s.beginExchange with port := { s.beginExchange.port with mask } }).holding
        (replyBytes 0x61 tag 0 (beBytes 3 s.port.mask.toNat)) ∧
      t.port.events = s.port.events ∧
      ∀ (kind : EventKind) (subject : EventSubject) (value : Int),
        mask.getLsbD (kind.code - 1) = true → t.post kind subject value = t)) ∧
  (∀ (kind : EventKind) (subject : EventSubject) (value : Int) (s : State),
    (s.port.mask.getLsbD (kind.code - 1) = true → s.post kind subject value = s) ∧
    (s.port.mask.getLsbD (kind.code - 1) = false → s.port.events.length < 32 →
      s.post kind subject value =
        { s with port := { s.port with
            events := s.port.events ++ [{ kind, subject, value, postedAt := s.now / 1000000 }] } } ∧
      (s.post kind subject value).patn = true) ∧
    (s.port.mask.getLsbD (kind.code - 1) = false → 32 ≤ s.port.events.length →
      s.post kind subject value = { s with port := { s.port with overflowed := true } })) ∧
  (∀ s : State, (s.patn = false ↔ s.port.events = []) ∧ (s.patn = true ↔ s.port.events ≠ []))

/-- R173: a view changes nothing but the exchange. Its page is the 27 bytes of the stream from byte 27 ×
page, with the page number and the number of pages before it; a page at or beyond that number is BAD_PARAM,
and so are a hose above 3 and a station above 16 (R61, R161); GET_MACHINE (R23) answers BAD_PARAM for a key,
station or page out of range (a key above its number's range is one: log entry 21) and NOT_FOUND for a key
that names no entry (R18). The second clause gives the stream: the presence field, then every row's fields,
most significant byte first, those of an absent row 0 (a figure that does not fit shows a free value, log
entry 13). The next four give the rows with their figures as the tables of R61, R146, R161 and R23 name
them, and the last ones the open preset (R28) and the codes of enumerated values, and the bits of the flags,
by their places in their lists (R172). The layout of the presence field, the widths and parts that no table
names, what stands for an absent figure and the figures before the seal are the model's choices (log entries
10 to 12 and 43 to 45). -/
def Obligations.ViewsShowPages : Prop :=
  (∀ (s : State) (tag page : Byte),
    let u := s.beginExchange
    let answers (i : Instr) (code : Byte) (rows : List ViewRow) : Prop :=
      let stream := viewStream u.free rows
      let pages := (stream.length + 26) / 27
      (page.toNat < pages → exec i s = .next (u.holding
        (replyBytes code tag 0
          ([page, BitVec.ofNat 8 pages] ++ (stream.drop (27 * page.toNat)).take 27)))) ∧
      (pages ≤ page.toNat → exec i s = .next (s.refusing code tag .badParam))
    (∀ n : HoseId, answers (.getHose tag (BitVec.ofNat 8 n.val) page) 0x23 (u.hoseRows n)) ∧
    (∀ hose : Byte, 4 ≤ hose.toNat →
      exec (.getHose tag hose page) s = .next (s.refusing 0x23 tag .badParam)) ∧
    answers (.getStock tag page) 0x44 u.stockRows ∧
    (∀ station : Byte, station.toNat ≤ 16 →
      answers (.getLink tag station page) 0x50 (u.linkRows station.toNat)) ∧
    (∀ station : Byte, 16 < station.toNat →
      exec (.getLink tag station page) s = .next (s.refusing 0x50 tag .badParam)) ∧
    (∀ (selector station : Byte) (key : BitVec 24) (k : Key) (slot : Nat) (e : Entry),
      keyOf selector key = some k → s.entryOfKey k = some (slot, e) →
      1 ≤ station.toNat → station.toNat ≤ 16 →
      answers (.getMachine tag selector key station page) 0x14
        (u.machineRows slot e (Fin.ofNat 16 (station.toNat - 1)))) ∧
    (∀ (selector station : Byte) (key : BitVec 24) (k : Key),
      keyOf selector key = some k → s.entryOfKey k = none →
      1 ≤ station.toNat → station.toNat ≤ 16 → page.toNat < 2 →
      exec (.getMachine tag selector key station page) s = .next (s.refusing 0x14 tag .notFound)) ∧
    (∀ (selector station : Byte) (key : BitVec 24),
      keyOf selector key = none ∨ station.toNat = 0 ∨ 16 < station.toNat ∨ 2 ≤ page.toNat →
      exec (.getMachine tag selector key station page) s = .next (s.refusing 0x14 tag .badParam))) ∧
  (∀ (free : Nat) (rows : List ViewRow),
    let shown := rows.flatMap fun r =>
      r.fields.map fun f => { f with value := if r.present then f.value else 0 }
    let presence := ((List.range rows.length).map fun i =>
      if (rows[i]?).any fun r => r.present then 2 ^ i else 0).sum
    let fits (f : Field) : Prop :=
      if f.signed then -(256 ^ f.width : Int) ≤ 2 * f.value ∧ 2 * f.value < (256 ^ f.width : Int)
      else 0 ≤ f.value ∧ f.value < (256 ^ f.width : Int)
    (viewStream free rows).length = (rows.length + 7) / 8 + (shown.map fun f => f.width).sum ∧
    (viewStream free rows).take ((rows.length + 7) / 8) = beBytes ((rows.length + 7) / 8) presence ∧
    ((∀ f ∈ shown, 0 < f.width ∧ fits f) →
      viewStream free rows = beBytes ((rows.length + 7) / 8) presence ++
        shown.flatMap fun (f : Field) =>
          beBytes f.width (f.value % (256 ^ f.width : Nat)).toNat)) ∧
  (∀ (n : HoseId) (s : State),
    let h := s.hoses[n]
    let st := h.state
    let p := s.pumpOf n
    let f (width value : Nat) : Field := ⟨width, false, value⟩
    let volume (ml : Int) : Field := ⟨4, true, ml⟩
    let bit (b : Bool) : Field := f 1 (if b then 1 else 0)
    let left (due : Option Nat) : Field := f 4 (due.getD 0 - s.now / 1000000)
    let open_ := [HoseState.armed, .priming, .flowing, .paused, .settling]
    let metered := [HoseState.priming, .flowing, .paused, .settling]
    let i : Ident := h.ident.getD { method := .ring, slot := 0, ring := 0, number := 0, costCentre := 0 }
    let acc := h.acc.getD Accum.zero
    let step : StepState :=
      h.step.getD { index := 0, stage := .closed, handed := .closed, elapsed := 0, stall := 0 }
    let flags := h.flags
    s.hoseRows n =
      [ ⟨true, [f 1 st.code, ⟨1, false, s.item (19 + n.val)⟩, ⟨1, false, s.item (23 + n.val)⟩]⟩,
        match s.readers[n].last with
        | none => ⟨false, [f 3 0, f 4 0, f 1 0, f 1 0]⟩
        | some (.ring ring orientation tries) =>
          ⟨true, [f 3 ring.toNat, f 4 orientation, f 1 0, f 1 tries]⟩
        | some (.failed reason tries) => ⟨true, [f 3 0, f 4 0, f 1 reason.code, f 1 tries]⟩,
        ⟨decide (st = .unidentified), [f 1 ((h.reason.map UnidReason.code).getD 0)]⟩,
        ⟨decide (st ∈ .identified :: open_),
          [f 1 i.method.code, f 3 i.ring.toNat, f 2 i.number.toNat, f 1 i.costCentre.toNat]⟩,
        ⟨decide (st = .identified), [f 4 (h.lookupLimit.getD 0)]⟩,
        ⟨decide (st ∈ open_), [f 4 (h.preset.getD 0), f 4 (h.pendingPreset.getD 0)]⟩,
        ⟨decide (st = .identified ∨ st = .armed), [left h.armExpiry]⟩,
        ⟨decide (st = .paused), [left h.pauseExpiry]⟩,
        ⟨decide (st ∈ metered),
          [volume (truncDiv acc.net 1000),
            volume ((h.preset.getD 0 : Nat) - truncDiv acc.net 1000),
            volume (truncDiv acc.gross 1000)]⟩,
        ⟨true, [f 2 s.meters[meterOf n].lastRate]⟩,
        ⟨decide (st = .flowing ∨ st = .paused ∧ h.step ≠ none),
          [f 1 step.index, f 1 step.stage.code, f 1 (s.drivenStage n).code, bit p.grants[n],
            f 4 (if n ∈ p.queue then (p.queue.takeWhile fun m => m ≠ n).length + 1 else 0)]⟩,
        ⟨decide (st ∈ metered),
          [f 4 ((if flags.uncompensated then 1 else 0) + (if flags.tempHeld then 2 else 0) +
            (if flags.overspeed then 4 else 0) + (if flags.overflow then 8 else 0)),
            f 2 h.phaseErrors]⟩,
        ⟨decide (st = .settling),
          [f 1 ((h.endCause.map EndCause.code).getD 0), f 1 h.settleCount, f 1 h.quietRun]⟩,
        ⟨true, [bit s.estopLatch, bit s.metroFault, f 1 p.state.code]⟩ ]) ∧
  (∀ s : State,
    let f (width value : Nat) : Field := ⟨width, false, value⟩
    let volume (ml : Int) : Field := ⟨4, true, ml⟩
    let bit (b : Bool) : Field := f 1 (if b then 1 else 0)
    let openSum (k : CompId) : Nat := (([(0 : HoseId), 1, 2, 3].filter fun n =>
      s.hoses[n].state.isOpen && decide (s.hoseComp n = k)).map fun n => s.hoses[n].openPreset).sum
    let left (due : Option Nat) : Field := f 4 (due.getD (s.now / 1000000) - s.now / 1000000)
    let book (k : CompId) : List Field :=
      [volume s.stock.books[k].value, f 1 (if s.stock.books[k].isSet then 0 else 1)]
    let level (k : CompId) : List Field := match s.stock.levels[k] with
      | none => [f 2 0, f 4 0]
      | some l => [⟨2, false, l.mm⟩, volume l.gauge]
    let variance (k : CompId) : List Field :=
      [volume (s.stock.variance[k].value.getD 0), bit s.stock.variance[k].outside]
    let temperature (i : Fin 3) : List Field := match s.sampler.temps[i] with
      | .none => [⟨2, true, 0⟩, f 1 0]
      | .good t => [⟨2, true, t⟩, f 1 1]
      | .held t => [⟨2, true, t⟩, f 1 2]
    s.stockRows =
      [ ⟨true, book 0 ++ book 1⟩,
        ⟨true, [f 4 (s.availableStock 0 none), f 4 (s.availableStock 1 none)]⟩,
        ⟨true, [f 4 (openSum 0), f 4 (openSum 1)]⟩,
        ⟨s.stock.levels[0].isSome || s.stock.levels[1].isSome, level 0 ++ level 1⟩,
        ⟨true, variance 0 ++ variance 1⟩,
        ⟨true, temperature 0 ++ temperature 1 ++ temperature 2⟩,
        ⟨true, [f 2 s.meters[meterMR].lastRate]⟩,
        ⟨true, [bit s.stock.parked]⟩,
        match s.stock.session with
        | none => ⟨true, [f 1 0, f 1 0, f 1 0]⟩
        | some x => ⟨true, [f 1 (if x.ending then 2 else 1), f 1 x.comp.val, f 1 x.permit.code]⟩,
        match s.stock.session with
        | none => ⟨false, [volume 0, volume 0, f 4 0, f 2 0]⟩
        | some x =>
          ⟨true, [volume (truncDiv x.acc.gross 1000), volume (truncDiv x.acc.net 1000),
            f 4 ((if x.flags.uncompensated then 1 else 0) + (if x.flags.tempHeld then 2 else 0) +
              (if x.flags.overspeed then 4 else 0) + (if x.flags.overflow then 8 else 0)),
            f 2 x.phaseErrors]⟩,
        ⟨true, [f 1 s.stock.restock.code, ⟨2, false, s.urgency⟩, bit s.stock.yieldUntil.isSome]⟩,
        ⟨s.stock.goHold.isSome || s.stock.yieldUntil.isSome,
          [left s.stock.goHold, left s.stock.yieldUntil]⟩ ]) ∧
  (∀ (station : Nat) (s : State), station ≤ 16 →
    let l := s.link
    let f (width value : Nat) : Field := ⟨width, false, value⟩
    let head : List Field := match l.queue with
      | [] => [f 1 0, f 3 0]
      | .machine ring :: _ => [f 1 0, f 3 ring.toNat]
      | .stock :: _ => [f 1 1, f 3 0]
    let stock (x : Option PeerStock) : List Field := match x with
      | none => [f 1 0, f 1 0, f 2 0, f 2 0, f 2 0]
      | some x => [f 1 x.state.code, f 1 (if x.yielding then 1 else 0), f 2 x.key, f 2 x.book0.toNat,
          f 2 x.book1.toNat]
    s.linkRows station =
      [ ⟨true, [f 1 l.state.code, f 1 (if l.clash then 1 else 0)]⟩,
        ⟨true, f 4 l.queue.length :: head⟩,
        ⟨true, [f 1 l.deferrals, f 2 (l.backoff.getD (s.now / 1000) - s.now / 1000)]⟩,
        ⟨true, [f 2 l.noticeSeq.toNat]⟩,
        ⟨true, [f 2 l.rxErrors, f 2 l.rxRejects, f 2 l.seqDiscards]⟩,
        ⟨true, [f 4 (l.peers.toList.countP fun x => x.isSome)]⟩,
        ⟨decide (1 ≤ station), match l.peers[(Fin.ofNat 16 (station - 1) : StationId)] with
          | none => [f 1 0, f 2 0, f 4 0] ++ stock none
          | some x =>
            [f 1 1, f 2 x.lastSeq.toNat, f 4 (s.now / 1000000 - x.heardAt)] ++ stock x.stock⟩ ]) ∧
  (∀ (slot : Nat) (e : Entry) (station : StationId) (s : State),
    let f (width value : Nat) : Field := ⟨width, false, value⟩
    let openSum : Nat := (([(0 : HoseId), 1, 2, 3].filter fun n =>
      s.hoses[n].state.isOpen && s.hoses[n].serves slot).map fun n => s.hoses[n].openPreset).sum
    let heard : Nat := (e.heard.toList.map fun h => (h.map Heard.ml).getD 0).sum
    s.machineRows slot e station =
      [ ⟨true, [f 4 slot]⟩,
        ⟨true, [f 3 e.ring.toNat, f 2 e.number.toNat, f 1 e.costCentre.toNat,
          f 4 ((if e.permitC0 then 1 else 0) + (if e.permitC1 then 2 else 0)), f 1 e.state.code,
          f 2 e.allowance.toNat, f 2 e.cap.toNat]⟩,
        ⟨true, [f 4 (min 4294967295 e.tally.toList.sum)]⟩,
        ⟨true, [f 4 (min 4294967295 heard)]⟩,
        ⟨true, [f 4 openSum]⟩,
        ⟨true, [f 4 (s.remainingAllowance slot e none)]⟩,
        ⟨true, [f 4 e.tally[station]]⟩,
        match e.heard[station] with
        | none => ⟨false, [f 4 0, f 4 0]⟩
        | some h => ⟨true, [f 4 h.ml, f 4 (h.expiry - s.now / 1000000)]⟩ ]) ∧
  (∀ (n : HoseId) (s : State), (s.hoses[n]).openPreset =
    ((s.hoses[n].pendingPreset).or s.hoses[n].preset).getD 0) ∧
  [HoseState.offline, .idle, .reading, .identified, .unidentified, .armed, .priming, .flowing, .paused,
    .settling, .finished].map HoseState.code = List.range 11 ∧
  [UnidReason.noBaseline, .weight, .unreadable, .symmetric, .unknownMachine, .barred, .grade,
    .stockUnset, .logFull, .noAllowance, .stockShort].map UnidReason.code = List.range 11 ∧
  [PumpState.off, .starting, .running, .runOn, .fault].map PumpState.code = List.range 5 ∧
  [LinkState.unknown, .idle, .busy, .jammed, .sending].map LinkState.code = List.range 5 ∧
  [RestockState.normal, .want, .go, .receiving].map RestockState.code = List.range 4 ∧
  [Permit.raised, .dropped, .ended].map Permit.code = List.range 3 ∧
  [Stage.closed, .slow, .full].map Stage.code = List.range 3 ∧
  [Method.ring, .keyed].map Method.code = List.range 2 ∧
  [EntryState.active, .barred].map EntryState.code = List.range 2

/-! ## Loading, seal and restart -/

/-- R164, R172: before the seal SET_CONFIG stores an item's value, a strapping table's point count or a
point, in range or not, and answers the value before; an index, or an element, out of range is BAD_PARAM.
The zeros beyond the results of an OK reply are the model's choice (log entry 47). -/
def Obligations.SetConfigStoresValue : Prop :=
  ∀ (tag item element : Byte) (value : BitVec 32) (s : State), s.isSealed = false →
    ((item.toNat = 0 ∨ 119 < item.toNat ∨ (item.toNat ≤ 117 ∧ element ≠ 0) ∨ 16 < element.toNat) →
      exec (.setConfig tag item element value) s = .next (s.refusing 0x01 tag .badParam)) ∧
    (1 ≤ item.toNat → item.toNat ≤ 117 → element = 0 →
      ∃ items, exec (.setConfig tag item element value) s = .next
          (({ s.beginExchange with config := { s.config with items } }).holding
            (replyBytes 0x01 tag 0 ((i32 (s.item item.toNat)).bytes (s.free + 1) 0))) ∧
        ∀ j : Nat, Sparse.getD itemDefault items j =
          if j = item.toNat then value.toInt else s.item j) ∧
    (∀ k : CompId, item.toNat = 118 + k.val → element = 0 →
      exec (.setConfig tag item element value) s = .next
        (({ s.beginExchange with
            config := { s.config with strapCount := s.config.strapCount.set k value.toInt } }).holding
          (replyBytes 0x01 tag 0 ((i32 s.config.strapCount[k]).bytes (s.free + 1) 0)))) ∧
    (∀ (k : CompId) (p : Fin 16), item.toNat = 118 + k.val → element.toNat = p.val + 1 →
      exec (.setConfig tag item element value) s = .next
        (({ s.beginExchange with
            config := { s.config with strapPoints :=
              s.config.strapPoints.set k (s.config.strapPoints[k].set p
                ((value.extractLsb' 16 16).toNat, (value.extractLsb' 0 16).toNat)) } }).holding
          (replyBytes 0x01 tag 0
            ((u16 (s.config.strapPoints[k][p]).1).bytes (s.free + 1) 0 ++
              (u16 (s.config.strapPoints[k][p]).2).bytes (s.free + 1) 1))))

/-- R62, R171, R174: a load of up to four steps replaces its profile; a load of five to eight is staged and
leaves the profile; the continuation replaces it with all the steps; a field out of range, and a
continuation without a staged load for its profile, are BAD_PARAM, and a refused continuation changes no
state and so keeps the load staged (log entry 17). The last two clauses read the steps: the first ones of a
frame, each with its stage, its condition and parameters in range and the step that follows, its other bits
0 (a step with one of them set is out of range: log entry 40). The continuation's own count is only tested
for its range, and flag and drain bytes above 1 are out of range (log entries 18 and 19). The four log
entries are the model's choices. The zeros beyond the results of an OK reply are the model's choice (log
entry 47). -/
def Obligations.LoadProfileReplacesOrStages : Prop :=
  ∀ (tag profile count : Byte) (steps : Vector RawStep 4) (s : State), s.isSealed = false →
    (∀ l : List ProfileStep, ∀ p : Fin 8, profile.toNat = p.val → count.toNat ≤ 4 →
      stepsOf count.toNat steps = some l →
      exec (.loadProfile tag profile count 0 steps) s = .next
        (({ s.beginExchange with profiles := s.profiles.set p l }).holding (replyBytes 0x02 tag 0 []))) ∧
    (∀ l : List ProfileStep, profile.toNat < 8 → 4 < count.toNat → count.toNat ≤ 8 →
      stepsOf 4 steps = some l →
      exec (.loadProfile tag profile count 0 steps) s = .next
        (({ s.beginExchange with
            staged := some { profile := profile.toNat, count := count.toNat, steps := l } }).holding
          (replyBytes 0x02 tag 0 []))) ∧
    (∀ (x : StagedLoad) (l : List ProfileStep) (p : Fin 8), profile.toNat = p.val → count.toNat ≤ 8 →
      s.staged = some x → x.profile = p.val → stepsOf (x.count - 4) steps = some l →
      exec (.loadProfileContinuation tag profile count steps) s = .next
        (({ s.beginExchange with profiles := s.profiles.set p (x.steps ++ l) }).holding
          (replyBytes 0x02 tag 0 []))) ∧
    (7 < profile.toNat ∨ 8 < count.toNat ∨ stepsOf (min count.toNat 4) steps = none →
      exec (.loadProfile tag profile count 0 steps) s = .next (s.refusing 0x02 tag .badParam)) ∧
    (∀ flag : Byte, flag ≠ 0 →
      exec (.loadProfile tag profile count flag steps) s = .next (s.refusing 0x02 tag .badParam)) ∧
    (7 < profile.toNat ∨ 8 < count.toNat ∨ s.staged = none ∨
        (∃ x, s.staged = some x ∧
          (x.profile ≠ profile.toNat ∨ stepsOf (x.count - 4) steps = none)) →
      exec (.loadProfileContinuation tag profile count steps) s =
        .next { s.refusing 0x02 tag .badParam with staged := s.staged }) ∧
    (∀ (n : Nat) (l : List ProfileStep), n ≤ 4 →
      (stepsOf n steps = some l ↔
        l.length = n ∧ ∀ i : Fin 4, i.val < n → stepOf steps[i] = l[i.val]?)) ∧
    (∀ (r : RawStep) (x : ProfileStep),
      let kind := (r.head.extractLsb' 4 3).toNat
      let v := r.param.toNat
      let high := (r.param.extractLsb' 16 16).toNat
      let low := (r.param.extractLsb' 0 16).toNat
      (stepOf r = some x ↔
        r.head &&& 0x8C = 0 ∧ (r.head.extractLsb' 0 2).toNat = x.stage.code ∧
        (match x.next with
          | none => r.next = 255
          | some i => r.next.toNat = i ∧ i ≤ 7) ∧
        (match x.cond with
          | .deliveredAtLeast w => kind = 0 ∧ v = w ∧ w ≤ 30000000
          | .remainingAtMost w => kind = 1 ∧ v = w ∧ w ≤ 30000000
          | .elapsed n => kind = 2 ∧ high = n ∧ 1 ≤ n
          | .stall n q => kind = 3 ∧ high = n ∧ low = q ∧ 1 ≤ n ∧ n ≤ 255
          | .never => kind = 4)))

/-- R165: before the seal a section in range replaces the fields it names and no others, and answers OK; a
section out of range, or unknown, is BAD_PARAM. The zeros beyond the results of an OK reply are the model's
choice (log entry 47). -/
def Obligations.LoadMetrologyReplacesSection : Prop :=
  ∀ (tag : Byte) (s : State), s.isSealed = false →
    let loads (x : MetroSection) (m : Metrology) : Prop :=
      exec (.loadMetrology tag x) s = .next
        (({ s.beginExchange with metro := m }).holding (replyBytes 0x03 tag 0 []))
    let refuses (x : MetroSection) : Prop :=
      exec (.loadMetrology tag x) s = .next (s.refusing 0x03 tag .badParam)
    (∀ (m : MeterId) (nf : BitVec 16) (count : BitVec 32),
      (nf ≠ 0 → 2 ≤ count.toNat → count.toNat ≤ 6 →
        loads (.meterHead (BitVec.ofNat 8 m.val) nf count)
          (s.metro.withMeter m { s.metro.meters[m] with nf := nf.toNat, count := count.toNat })) ∧
      (nf = 0 ∨ count.toNat < 2 ∨ 6 < count.toNat →
        refuses (.meterHead (BitVec.ofNat 8 m.val) nf count))) ∧
    (∀ (m : MeterId) (i : Fin 6) (rate : BitVec 16) (mf : BitVec 24),
      (mf ≠ 0 → loads (.meterPoint (BitVec.ofNat 8 m.val) (BitVec.ofNat 32 i.val) rate mf)
        (s.metro.withMeter m
          { s.metro.meters[m] with
            points := s.metro.meters[m].points.set i (rate.toNat, mf.toNat) })) ∧
      refuses (.meterPoint (BitVec.ofNat 8 m.val) (BitVec.ofNat 32 i.val) rate 0)) ∧
    (∀ (k : CompId) (alpha : BitVec 16),
      (alpha.toNat ≤ 1500 → loads (.alpha (BitVec.ofNat 8 k.val) alpha)
        { s.metro with alpha := s.metro.alpha.set k (some alpha.toNat) }) ∧
      (1500 < alpha.toNat → refuses (.alpha (BitVec.ofNat 8 k.val) alpha))) ∧
    (∀ (i : Fin 3) (gain offset : BitVec 16),
      (gain ≠ 0 → loads (.tcal (BitVec.ofNat 8 i.val) gain offset)
        { s.metro with tcal := s.metro.tcal.set i (some (gain.toNat, offset.toInt)) }) ∧
      refuses (.tcal (BitVec.ofNat 8 i.val) 0 offset)) ∧
    (∀ crc : BitVec 16, loads (.issuedCrc crc) { s.metro with issued := some crc }) ∧
    (∀ (b : Byte) (i : BitVec 32) (x y : BitVec 16) (z : BitVec 24) (c : Byte),
      (5 ≤ b.toNat → refuses (.meterHead b x i) ∧ refuses (.meterPoint b i x z)) ∧
      (6 ≤ i.toNat → refuses (.meterPoint b i x z)) ∧
      (2 ≤ b.toNat → refuses (.alpha b x)) ∧ (3 ≤ b.toNat → refuses (.tcal b x y)) ∧
      refuses (.unknown c))

/-- R163, R166, R167: a SEAL that finds a failing item answers BAD_CONFIG with the first one's index, one
that finds another metrology CRC than the issued one METRO_MISMATCH with the formed CRC, either changing
nothing but the exchange. A SEAL that passes seals the part with its seconds count at 0, takes each hose to
IDLE or FINISHED by its seat line, and starts the blocks: the readers with a baseline pass where the seat is
released (R2), the pumps with their PWM period, in FAULT where their line is asserted (R80), the latch by
the line (R55), the meters STRAY (R87), the sampler (R101), the restock state (R141), the link with its
quiet expiry, or its jam expiry and a frame in reception where the carrier is asserted (R149, R155), the
scrub, the sweeps and the scan. When the first reader period, PWM period, sample and observation come is the
model's choice (log entry 29). It closes the journals in hose order and then the receipt's: each becomes the
next record of the log with its INTERRUPTED flag and end cause (R60, R137), changes its compartment's book
by the record's net, credits the entry of its ring ID and asks for it, and posts its event with the record's
sequence; the third clause gives the transmit queue and the event queue whole, with PUMP_FAULT (C0 before
C1: the model's choice, log entry 41), ESTOP, RESTOCK_STATE and then the pending losses (R163). The clauses
on the journals give the figures of a sound and of a lost one; a lost one's preset of 0 and clear flags, and
the bits of a journal's flags, are the model's choices (log entries 16 and 46); a book is held at its bounds
(R128). The last two clauses give the tests of items 1 to 137 (11.3, R63, R166). The number of journals
takes 4 bytes of the reply (R172). The zeros beyond the results of an OK reply are the model's choice (log
entry 47). -/
def Obligations.SealTestsThenCompletes : Prop :=
  (∀ (tag : Byte) (s : State), s.isSealed = false →
    (∀ i : Nat, 1 ≤ i → i ≤ 137 → s.testItem i = false → (∀ j, 1 ≤ j → j < i → s.testItem j = true) →
      exec (.sealPart tag) s = .next
        (s.beginExchange.holding (replyBytes 0x04 tag 21 [BitVec.ofNat 8 i]))) ∧
    ((∀ i, 1 ≤ i → i ≤ 137 → s.testItem i = true) → s.metro.issued ≠ some s.metro.crc →
      exec (.sealPart tag) s = .next
        (s.beginExchange.holding (replyBytes 0x04 tag 22 (beBytes 2 s.metro.crc.toNat))))) ∧
  (∀ (tag : Byte) (s : State), s.isSealed = false → LogInv s → FlowInv s →
    (∀ i : Nat, 1 ≤ i → i ≤ 137 → s.testItem i = true) → s.metro.issued = some s.metro.crc →
    ∃ t : State, exec (.sealPart tag) s = .next t ∧
      t.port.held = replyBytes 0x04 tag 0 (beBytes 4 s.journalCount) ∧
      t.isSealed = true ∧ t.now = 0 ∧ t.losses = [] ∧ t.staged = none ∧
      t.log.count = s.log.count + s.journalCount ∧ t.log.reservedCount = 0 ∧
      t.log.oldest = s.log.oldest ∧ t.stock.rjournal = none ∧ t.stock.session = none ∧
      (∀ n : HoseId, t.hoses[n] = Hose.bare (if s.pins.seat[n] then .finished else .idle) none) ∧
      (∀ k : CompId, t.pumps[k].state = if s.pins.pflt[k] then .fault else .off) ∧
      t.estopLatch = (s.estopLatch || s.pins.estop) ∧ t.metroFault = s.metroFault ∧
      t.sampler.due = some 0 ∧ t.log.scrubDue = some 5000000 ∧ t.scanDue = some 60000000 ∧
      t.stock.restock = (if t.wantsFuel then .want else .normal) ∧ t.stock.yieldUntil = none ∧
      t.link.state = .unknown ∧ t.link.gen = some (BitVec.ofNat 16 (s.station * 4097)) ∧
      (s.link.queue.length ≤ 11 → Subject.stock ∈ t.link.queue) ∧
      t.link.sweepDue = some (s.sweepPeriod * 1000000) ∧
      t.link.stockDue = some (s.stockPeriod * 1000000) ∧
      (∀ n : HoseId, t.readers[n] =
        if s.pins.seat[n] then { s.readers[n] with state := .waiting, periodDue := some 2000000 }
        else { s.readers[n] with
          state := .refreshing, pad := 0, counts := [], slotDue := some 2000, periodDue := some 2000000 }) ∧
      (∀ k : CompId,
        let stopped (st : PumpState) : Pump :=
          { state := st, claims := Vector.replicate 4 false, grants := Vector.replicate 4 false
            queue := [], spinUp := none, runOn := none, demand := none, duty := 0, pwmStart := 0
            pwmDue := some s.pwmPeriod }
        t.pumps[k] =
          if s.pins.pflt[k] then stopped .fault else if s.pins.estop then stopped .off
          else { s.pumps[k] with pwmStart := 0, pwmDue := some s.pwmPeriod }) ∧
      (∀ m : MeterId, t.meters[m] = { s.meters[m] with
        levels := some s.pins.phase[m], count := 0, sat := false, phaseErr := 0
        due := some 250000, obsDue := some 2, attach := .stray }) ∧
      t.link.quiet = (if s.pins.lcd then none else some s.linkQuiet) ∧
      t.link.jam = (if s.pins.lcd then some s.linkJam else none) ∧
      t.link.rx = (if s.pins.lcd then some { kept := [], count := 0 } else none) ∧
      (s.link.state = .unknown → t.link = { s.link with
        gen := t.link.gen, quiet := t.link.quiet, jam := t.link.jam, rx := t.link.rx
        sweepDue := t.link.sweepDue, stockDue := t.link.stockDue, queue := t.link.queue }) ∧
      t.stock = { s.stock with
        books := t.stock.books, rjournal := none, restock := t.stock.restock, goHold := none
        yieldUntil := none } ∧
      t.log = { s.log with
        slots := t.log.slots, count := t.log.count, indexCrc := t.log.indexCrc
        seq := s.log.seq + BitVec.ofNat 32 s.journalCount, seqCrc := t.log.seqCrc
        reserved := t.log.reserved, scrubDue := t.log.scrubDue } ∧
      (∀ i : Nat, (∀ place < s.journalCount, i ≠ s.log.position (s.log.count + place)) →
        t.log.slotAt i = s.log.slotAt i) ∧
      t.free = s.free + 1 + s.journalCount ∧ t.table = { s.table with entries := t.table.entries } ∧
      t = { s with
        isSealed := true, now := 0, losses := [], staged := none, estopLatch := t.estopLatch
        scanDue := t.scanDue, readers := t.readers, hoses := t.hoses, pumps := t.pumps
        meters := t.meters, sampler := { s.sampler with due := some 0 }, table := t.table, log := t.log
        stock := t.stock, link := t.link, port := t.port, free := t.free }) ∧
  (∀ (tag : Byte) (s : State), s.isSealed = false → LogInv s → FlowInv s → TableInv s →
    (∀ i : Nat, 1 ≤ i → i ≤ 137 → s.testItem i = true) → s.metro.issued = some s.metro.crc →
    let closed (n : HoseId) : Option Delivery := s.hoses[n].journal.map fun j => j.delivery n (s.hoseComp n)
    let receipt : Option Receipt := s.stock.rjournal.map ReceiptJournal.receipt
    let closings (first : Nat) : Nat :=
      [(0 : HoseId), 1, 2, 3].countP fun n => decide (n.val < first) && s.hoses[n].journal.isSome
    let atSeal (kind : EventKind) (subject : EventSubject) (value : Nat) : Event :=
      { kind, subject, value, postedAt := s.now / 1000000 }
    ∃ t : State, exec (.sealPart tag) s = .next t ∧
      (∀ (n : HoseId) (d : Delivery), closed n = some d →
        let place := closings n.val
        t.log.slotAt (s.log.position (s.log.count + place)) =
          { stored := true
            bytes := (s.deliveryRecord d).bytes (s.log.seq + BitVec.ofNat 32 place) s.table.day
              (s.free + 1 + place) } ∧
        (s.port.mask.getLsbD 3 = false → s.port.events.length ≤ 18 →
          atSeal .deliveryClosed (.hose n) (s.log.seq + BitVec.ofNat 32 place).toNat ∈ t.port.events) ∧
        ((s.entryOfRing d.ring).isSome = true → s.link.queue.length ≤ 11 →
          Subject.machine d.ring ∈ t.link.queue)) ∧
      (∀ r : Receipt, receipt = some r →
        t.log.slotAt (s.log.position (s.log.count + closings 4)) =
          { stored := true
            bytes := (r.record s.receiptTemp).bytes (s.log.seq + BitVec.ofNat 32 (closings 4))
              s.table.day (s.free + 1 + closings 4) } ∧
        (s.port.mask.getLsbD 17 = false → s.port.events.length ≤ 18 →
          atSeal .receiptClosed (.comp r.comp) (s.log.seq + BitVec.ofNat 32 (closings 4)).toNat ∈
            t.port.events)) ∧
      (∀ k : CompId,
        let moves : List Int :=
          ([(0 : HoseId), 1, 2, 3].filterMap closed).filterMap
              (fun d => if d.comp = k then some (-(s.deliveryRecord d).net) else none) ++
            receipt.toList.filterMap
              (fun r => if r.comp = k then some (r.record s.receiptTemp).net else none)
        t.stock.books[k] = if moves = [] then s.stock.books[k] else
          bookOf k (moves.foldl (fun b d => max (-2147483647) (min 2147483647 (b + d)))
            s.stock.books[k].value) s.stock.books[k].isSet) ∧
      (∀ slot : Nat, s.entryAt slot = none → t.entryAt slot = none) ∧
      (∀ (slot : Nat) (e : Entry), s.entryAt slot = some e →
        let nets : List Nat := ([(0 : HoseId), 1, 2, 3].filterMap closed).filterMap
          fun d => if d.ring = e.ring then some (s.deliveryRecord d).net.toNat else none
        t.entryAt slot = some (if nets = [] then e else Entry.withCrc { e with
          tally := e.tally.set s.ownIndex (min 4294967295 (e.tally[s.ownIndex] + nets.sum)) })) ∧
      (s.port.mask.getLsbD 16 = false → s.port.events.length + s.losses.length ≤ 18 →
        let posted (x : Loss) : Event :=
          { kind := .retainedLoss, subject := .retained x.item, value := x.value, postedAt := 0 }
        s.losses.map posted <:+ t.port.events) ∧
      (let close (n : HoseId) (v : State) : State := match closed n with
         | none => v
         | some d => State.post .deliveryClosed (.hose n)
           (s.log.seq + BitVec.ofNat 32 (closings n.val)).toNat
           (if (s.entryOfRing d.ring).isSome then v.ask (.machine d.ring) else v)
       let fault (k : CompId) (v : State) : State :=
         if s.pins.pflt[k] then v.post .pumpFault (.comp k) 0 else v
       let a := close 3 (close 2 (close 1 (close 0 s.beginExchange)))
       let b := match receipt with
         | none => a
         | some r => a.post .receiptClosed (.comp r.comp)
           (s.log.seq + BitVec.ofNat 32 (closings 4)).toNat
       let c := fault 1 (fault 0 { b with now := 0 })
       let d := State.ask .stock (if s.pins.estop then c.post .estop .part 0 else c)
       let e := if t.wantsFuel then d.post .restockState (.station s.station) RestockState.want.code else d
       let f := s.losses.foldl (fun v x => v.post .retainedLoss (.retained x.item) x.value) e
       t.link.queue = f.link.queue ∧ t.port = { f.port with held := t.port.held })) ∧
  (∀ (j : Journal) (n : HoseId) (mapped : CompId),
    let d := j.delivery n mapped
    d.method = j.method ∧ d.ring = j.ring ∧ d.number = j.number ∧ d.costCentre = j.costCentre ∧
    (j.lost = false →
      d.hose = j.hose ∧ d.comp = (if j.comp = 1 then 1 else 0) ∧ d.preset = j.preset.toNat ∧
      d.acc.gross = j.gross.toInt ∧ d.acc.net = j.net.toInt ∧ d.acc.sumGT = j.sumGT.toInt ∧
      d.acc.sumG = j.sumG.toInt ∧ d.flags = DFlags.ofWord j.flags ∧
      d.phaseErrors = j.phaseErrors.toNat ∧ d.extra = flagInterrupted ∧
      d.endCause = if j.endCause = 0 then 13 else j.endCause) ∧
    (j.lost = true →
      d.hose = BitVec.ofNat 8 n.val ∧
      d.comp = (if j.comp = 0 then 0 else if j.comp = 1 then 1 else mapped) ∧ d.preset = 0 ∧
      d.acc = Accum.zero ∧ d.flags = DFlags.clear ∧ d.phaseErrors = 0 ∧ d.endCause = 13 ∧
      d.extra = flagInterrupted ||| flagJournalLost)) ∧
  (∀ j : ReceiptJournal,
    let r := j.receipt
    r.comp = (if j.comp = 1 then 1 else 0) ∧
    (j.lost = false →
      r.acc.gross = j.gross.toInt ∧ r.acc.net = j.net.toInt ∧ r.acc.sumGT = j.sumGT.toInt ∧
      r.acc.sumG = j.sumG.toInt ∧ r.flags = DFlags.ofWord j.flags ∧
      r.phaseErrors = j.phaseErrors.toNat ∧ r.extra = flagInterrupted ∧
      r.endCause = if j.permit = 1 then .highLevel else if j.permit = 2 then .hostEnd else .interrupted) ∧
    (j.lost = true →
      r.acc = Accum.zero ∧ r.flags = DFlags.clear ∧ r.phaseErrors = 0 ∧ r.endCause = .interrupted ∧
      r.extra = flagInterrupted ||| flagJournalLost)) ∧
  (∀ (s : State) (i : Nat),
    let relation : Prop := match i with
      | 12 => 2 * s.item 9 ≤ s.item 12
      | 17 => s.item 16 < s.item 17
      | 30 => s.item 29 ≤ s.item 30
      | 37 => s.item 36 ≤ s.item 37
      | 38 => s.item 37 ≤ s.item 38
      | 107 => s.item 107 < s.item 105
      | 108 => s.item 108 < s.item 106
      | 109 => s.item 109 ≤ s.item 105
      | 110 => s.item 110 ≤ s.item 106
      | _ => True
    let ranges : List (Nat × Nat × Int × Int) :=
      [(1, 1, 1, 16), (2, 3, 0, 65535), (4, 4, 0, 2), (5, 5, 10, 1000), (6, 6, 500, 10000),
        (7, 7, 2, 200), (8, 8, 100, 10000), (9, 9, 5, 300), (10, 11, 10, 600), (12, 12, 10, 1200),
        (13, 13, 100, 100000), (14, 14, 0, 1), (15, 15, 1, 65535), (16, 16, 257, 1022),
        (17, 17, 258, 1023), (18, 18, 1, 5), (19, 22, 0, 1), (23, 26, 0, 7), (27, 27, 10, 600),
        (28, 28, 5, 900), (29, 29, 2, 16), (30, 30, 4, 80), (31, 32, 1, 4)] ++
      [(33, 33, 100, 10000), (34, 34, 0, 120), (35, 35, 50, 20000), (36, 38, 0, 1000),
        (39, 40, 0, 1000000), (41, 104, -500, 500), (105, 106, 1, 65535), (107, 110, 0, 65535),
        (111, 111, 500, 1000), (112, 112, 1, 65535), (113, 113, 300, 14400), (114, 115, 0, 4095),
        (116, 117, 1, 65535)]
    ∀ range ∈ ranges, range.1 ≤ i → i ≤ range.2.1 →
      (s.testItem i = true ↔ range.2.2.1 ≤ s.item i ∧ s.item i ≤ range.2.2.2 ∧ relation)) ∧
  (∀ s : State,
    (∀ k : CompId, s.testItem (118 + k.val) = true ↔
      2 ≤ s.config.strapCount[k] ∧ s.config.strapCount[k] ≤ 16 ∧
      ∀ p q : Fin 16, p < q → (q.val : Int) < s.config.strapCount[k] →
        s.config.strapPoints[k][p].1 < s.config.strapPoints[k][q].1) ∧
    (∀ p : Fin 8, s.testItem (120 + p.val) = true ↔
      (s.profiles[p] = [] → ∀ n : HoseId, s.hoseProfile n ≠ p.val) ∧ s.profiles[p].length ≤ 8 ∧
      ∀ x ∈ s.profiles[p], (∀ i, x.next = some i → i < s.profiles[p].length) ∧
        match x.cond with
        | .deliveredAtLeast v => v ≤ 30000000
        | .remainingAtMost v => v ≤ 30000000
        | .elapsed n => 1 ≤ n ∧ n ≤ 65535
        | .stall n r => 1 ≤ n ∧ n ≤ 255 ∧ r ≤ 65535
        | .never => True) ∧
    (∀ m : MeterId, s.testItem (128 + m.val) = true ↔
      let c := s.metro.meters[m]
      2 ≤ c.count ∧ c.count ≤ 6 ∧ 1 ≤ c.nf ∧ c.nf ≤ 65535 ∧
      (∀ p q : Fin 6, p < q → q.val < c.count → c.points[p].1 < c.points[q].1) ∧
      ∀ p : Fin 6, p.val < c.count →
        c.points[p].1 ≤ 65535 ∧ 1 ≤ c.points[p].2 ∧ c.points[p].2 ≤ 16777215) ∧
    (∀ k : CompId, s.testItem (133 + k.val) = true ↔ ∃ a, s.metro.alpha[k] = some a ∧ a ≤ 1500) ∧
    (∀ i : Fin 3, s.testItem (135 + i.val) = true ↔
      ∃ c, s.metro.tcal[i] = some c ∧ 1 ≤ c.1 ∧ c.1 ≤ 65535))

/-- R162, R163, R170: POWER_UP, RESETN and RESTART complete in every state: they put every volatile item at
its restart value, the stock keeper's (R127) and the site link's (R147) among them, drive every output low
and no pad, and leave the start-up reply with their cause and the number of losses; the input lines and the
waiting commands stay (the model's choice, log entry 4). Where every retained item passes its check they
keep them all, heard reservations apart, and find no loss. The last clause gives what each item that fails
its check becomes: an entry is dropped; the day is 0 with every tally 0 (R17); the log's index and sequence
counter are rebuilt from the markers and the contents (R126); a stored record that fails is marked corrupt;
a book is UNSET with 0 (R127); a journal is JOURNAL_LOST (R60, R137); the notice counter is 0 (R147); and
the losses stand in the order of R163. Of two records with one greatest sequence either may be the one taken
(the model takes the first: log entry 35). The bytes under the checks of the index, the counters and the
books are the model's layout (log entry 15). The zeros of the start-up reply from byte 6 on are the model's
choice (log entry 47). -/
def Obligations.RestartClearsAndKeeps : Prop :=
  (∀ (tag : Byte) (s : State) (i : Instr) (cause : Byte),
    (i, cause) ∈ [(Instr.powerUp, (0 : Byte)), (.resetnAssertion, 1), (.restart tag, 2)] →
    ∃ t : State, exec i s = .next t ∧
      t.port.held = startupReply cause t.losses.length ∧ t.port.events = [] ∧ t.port.mask = 0 ∧
      t.port.overflowed = false ∧
      t.isSealed = false ∧ t.now = 0 ∧ t.estopLatch = false ∧ t.metroFault = false ∧
      t.scanDue = none ∧ t.config = ConfigBlock.restarted ∧ t.profiles = Vector.replicate 8 [] ∧
      t.staged = none ∧ t.metro = Metrology.restarted ∧
      t.readers = Vector.replicate 4 Reader.restarted ∧
      t.pumps = Vector.replicate 2 Pump.restarted ∧ t.meters = Vector.replicate 5 Meter.restarted ∧
      t.sampler = Sampler.restarted ∧
      (∀ n : HoseId, ∃ j, t.hoses[n] = Hose.bare .offline j ∧ j.isSome = s.hoses[n].journal.isSome) ∧
      t.log.drain = none ∧ t.log.scrub = none ∧ t.log.scrubDue = none ∧
      t.log.reserved = s.journalHolders ∧
      t.stock = {
        books := t.stock.books, rjournal := t.stock.rjournal, parked := false
        history := Vector.replicate 2 [], levels := Vector.replicate 2 none
        variance := Vector.replicate 2 { value := none, outside := false }, session := none
        restock := .normal, goHold := none, yieldUntil := none } ∧
      t.link = {
        noticeSeq := t.link.noticeSeq, noticeCrc := t.link.noticeCrc, state := .unknown, quiet := none
        jam := none, queue := [], backoff := none, deferrals := 0, gen := none, clash := false
        peers := Vector.replicate 16 none, rx := none, tx := none, sweepPos := 0, sweepDue := none
        stockDue := none, rxErrors := 0, rxRejects := 0, seqDiscards := 0 } ∧
      (∀ (n : HoseId) (p : Fin 24), t.padDrive n p = .undriven) ∧
      (∀ n : HoseId, t.vslow n = false ∧ t.vfull n = false) ∧
      (∀ k : CompId, t.prun k = false ∧ t.ppwm k = false) ∧ t.rperm = false ∧ t.ltxe = false ∧
      t.patn = false ∧ t.pins = s.pins ∧ t.pending = s.pending) ∧
  (∀ (tag : Byte) (s : State) (i : Instr), CrcInv s →
    i ∈ [Instr.powerUp, .resetnAssertion, .restart tag] →
    ∃ t : State, exec i s = .next t ∧ t.losses = [] ∧
      t.table = { s.table with entries := s.table.entries.map fun (p : Nat × Entry) =>
        (p.1, { p.2 with heard := Vector.replicate 16 none }) } ∧
      t.log = { s.log with
        corrupt := [], drain := none, scrub := none, scrubDue := none, reserved := s.journalHolders } ∧
      t.stock.books = s.stock.books ∧ t.stock.rjournal = s.stock.rjournal ∧
      (∀ n : HoseId, t.hoses[n].journal = s.hoses[n].journal) ∧
      t.link.noticeSeq = s.link.noticeSeq ∧ t.link.noticeCrc = s.link.noticeCrc) ∧
  (∀ (tag : Byte) (s : State) (i : Instr), StoreInv s →
    i ∈ [Instr.powerUp, .resetnAssertion, .restart tag] →
    let sound (e : Entry) : Bool := decide (e.crc = crc16 e.bytes)
    let dayOk : Bool := decide (s.table.dayCrc = crc16 (beBytes 2 s.table.day.toNat))
    let indexOk : Bool :=
      decide (s.log.indexCrc = crc16 (beBytes 2 s.log.oldest ++ beBytes 2 s.log.count))
    let seqOk : Bool := decide (s.log.seqCrc = crc16 (beBytes 4 s.log.seq.toNat))
    let bookOk (k : CompId) : Bool := decide (s.stock.books[k].crc =
      crc16 (bookBytes k.val s.stock.books[k].isSet s.stock.books[k].value))
    let noticeOk : Bool := decide (s.link.noticeCrc = crc16 (beBytes 2 s.link.noticeSeq.toNat))
    let stored (i : Nat) : Prop := (s.log.slotAt (i % 1024)).stored = true
    let passes (i : Nat) : Bool := recordPasses (s.log.slotAt i).bytes
    let kept := (s.table.entries.filter fun p => sound p.2).map fun (p : Nat × Entry) =>
      (p.1, { p.2 with heard := Vector.replicate 16 none })
    let newest (p : Nat × LogSlot) : Prop := p ∈ s.log.slots ∧ recordPasses p.2.bytes = true ∧
      ∀ q ∈ s.log.slots, recordPasses q.2.bytes = true → recordSeq q.2.bytes ≤ recordSeq p.2.bytes
    let nonePasses : Prop := ∀ q ∈ s.log.slots, recordPasses q.2.bytes = false
    ∃ t : State, exec i s = .next t ∧
      (dayOk = true → t.table = { s.table with entries := kept }) ∧
      (dayOk = false → t.table =
        { day := 0, dayCrc := crc16 (beBytes 2 0)
          entries := kept.map fun (p : Nat × Entry) =>
            (p.1, Entry.withCrc { p.2 with tally := Vector.replicate 16 0 }) }) ∧
      (indexOk = true → t.log.slots = s.log.slots ∧ t.log.oldest = s.log.oldest ∧
        t.log.count = s.log.count ∧ t.log.indexCrc = s.log.indexCrc) ∧
      (indexOk = false → ∃ start length : Nat,
        let excess := length + s.journalCount - 1024
        start < 1024 ∧ length ≤ 1024 ∧ (∀ j < length, stored (start + j)) ∧
        ((∀ j < 1024, stored j) → length = 1024 ∧
          ((∃ p, newest p ∧ start = (p.1 + 1) % 1024) ∨ nonePasses ∧ start = 0)) ∧
        ((∃ j < 1024, ¬ stored j) → (length = 0 → start = 0) ∧
          ∀ a n : Nat, a < 1024 → 0 < n → n ≤ 1024 → (∀ j < n, stored (a + j)) →
            n < length ∨ n = length ∧ start ≤ a) ∧
        t.log.oldest = (start + excess) % 1024 ∧ t.log.count = length - excess ∧
        t.log.indexCrc = crc16 (beBytes 2 t.log.oldest ++ beBytes 2 t.log.count) ∧
        ∀ i < 1024, (t.log.slotAt i).bytes = (s.log.slotAt i).bytes ∧
          ((t.log.slotAt i).stored = true ↔ ∃ j < t.log.count, i = (t.log.oldest + j) % 1024)) ∧
      (∀ i : Nat, i ∈ t.log.corrupt ↔
        ∃ j < t.log.count, i = (t.log.oldest + j) % 1024 ∧ passes i = false) ∧
      (seqOk = true → t.log.seq = s.log.seq) ∧
      (seqOk = false →
        (∃ p, newest p ∧ t.log.seq = BitVec.ofNat 32 (recordSeq p.2.bytes + 1)) ∨
        nonePasses ∧ t.log.seq = 1) ∧
      t.log.seqCrc = crc16 (beBytes 4 t.log.seq.toNat) ∧
      (∀ k : CompId, t.stock.books[k] = if bookOk k then s.stock.books[k] else bookOf k 0 false) ∧
      (∀ n : HoseId, t.hoses[n].journal = s.hoses[n].journal.map fun j =>
        if j.crc = crc16 j.bytes then j else { j with lost := true }) ∧
      (t.stock.rjournal = s.stock.rjournal.map fun j =>
        if j.crc = crc16 j.bytes then j else { j with lost := true }) ∧
      (t.link.noticeSeq = if noticeOk then s.link.noticeSeq else 0) ∧
      t.link.noticeCrc = crc16 (beBytes 2 t.link.noticeSeq.toNat) ∧
      t.losses =
        ((s.table.entries.filter fun p => !sound p.2).map fun p => ⟨1, p.1⟩) ++
        (if dayOk then [] else [⟨2, 0⟩]) ++ (if indexOk then [] else [⟨3, t.log.count⟩]) ++
        ((((List.range t.log.count).map fun j => (t.log.oldest + j) % 1024).filter
          fun i => !passes i).map fun i => ⟨4, i⟩) ++
        (if seqOk then [] else [⟨5, t.log.seq.toNat⟩]) ++
        (([0, 1] : List CompId).filter fun k => !bookOk k).map (fun k => ⟨6, k.val⟩) ++
        (([0, 1, 2, 3] : List HoseId).filter fun n =>
          s.hoses[n].journal.any fun j => decide (j.crc ≠ crc16 j.bytes)).map (fun n => ⟨7, n.val⟩) ++
        (if s.stock.rjournal.any fun j => decide (j.crc ≠ crc16 j.bytes) then [⟨7, 4⟩] else []) ++
        (if noticeOk then [] else [⟨8, 0⟩]))

/-! ## The machine table -/

/-- R19 to R22: PUT_MACHINE replaces the entry of the ring ID in its own slot, keeping its tallies and heard
reservations, or inserts into the lowest free slot with tallies of 0. BAR_MACHINE and UNBAR_MACHINE set the
named entry's state with its CRC and answer its slot and the state before; an entry already in the state is
not rewritten. REMOVE_MACHINE deletes the named entry, unless a hose is IDENTIFIED or open for it (IN_USE).
An unknown key is NOT_FOUND. A key that is no ring ID or machine number of the selector 0 or 1 is BAD_PARAM
(R18; a machine number above 65535 by the model's reading, log entry 21). The last clause gives
PUT_MACHINE's refusals in their order: BAD_PARAM, DUPLICATE, TABLE_FULL. A slot number takes 4 bytes of the
reply (R172); the byte that says inserted or replaced is the model's choice (log entry 10). The zeros beyond
the results of an OK reply are the model's choice (log entry 47). -/
def Obligations.TableCommandsActOnEntry : Prop :=
  (∀ (tag : Byte) (ring : BitVec 24) (number : BitVec 16) (costCentre : Byte)
    (permitted : BitVec 32) (state : Byte) (allowance cap : BitVec 16) (p : Bool × Bool) (st : EntryState) (s : State),
    s.isSealed = true → permitsOf permitted = some p → entryStateOf state = some st →
    isCanonical ring = true → number ≠ 0 → costCentre.toNat ≤ 63 → cap ≠ 0 →
    (∀ q ∈ s.table.entries, q.2.number = number → q.2.ring = ring) →
    let puts (slot : Nat) (replaced : Byte) (e : Entry) : Prop :=
      ∃ entries, exec (.putMachine tag ring number costCentre permitted state allowance cap) s = .next
          (({ s.beginExchange with table := { s.table with entries } }).holding
            (replyBytes 0x10 tag 0 (beBytes 4 slot ++ [replaced]))) ∧
        ∀ j, Sparse.find? entries j =
          if j = slot then some { e with crc := crc16 e.bytes } else s.entryAt j
    (∀ (slot : Nat) (e : Entry), slot < 256 → s.entryOfRing ring = some (slot, e) →
      puts slot 1
        { e with number, costCentre, permitC0 := p.1, permitC1 := p.2, state := st, allowance, cap }) ∧
    (∀ slot : Nat, s.entryOfRing ring = none → slot < 256 → s.entryAt slot = none →
      (∀ j < slot, (s.entryAt j).isSome = true) →
      puts slot 0
        { ring, number, costCentre, permitC0 := p.1, permitC1 := p.2, state := st, allowance, cap,
          tally := Vector.replicate 16 0, heard := Vector.replicate 16 none, crc := 0 })) ∧
  (∀ (tag selector : Byte) (key : BitVec 24) (k : Key) (s : State),
    s.isSealed = true → entryKeyOf selector key = some k →
    let acts (i : Instr) (code : Byte) (st : EntryState) : Prop :=
      (s.entryOfKey k = none → exec i s = .next (s.refusing code tag .notFound)) ∧
      ∀ (slot : Nat) (e : Entry), slot < 256 → s.entryOfKey k = some (slot, e) →
        let reply := replyBytes code tag 0 (beBytes 4 slot ++ [BitVec.ofNat 8 e.state.code])
        (e.state = st → exec i s = .next (s.beginExchange.holding reply)) ∧
        (e.state ≠ st → ∃ entries,
          exec i s = .next
            (({ s.beginExchange with table := { s.table with entries } }).holding reply) ∧
          ∀ j, Sparse.find? entries j =
            if j = slot then some ({ e with state := st }).withCrc else s.entryAt j)
    acts (.barMachine tag selector key) 0x11 .barred ∧ acts (.unbarMachine tag selector key) 0x12 .active) ∧
  (∀ (tag selector : Byte) (key : BitVec 24) (s : State), s.isSealed = true →
    (selector = 0 → entryKeyOf selector key = some (.byRing key)) ∧
    (selector = 1 → 1 ≤ key.toNat → key.toNat ≤ 65535 →
      entryKeyOf selector key = some (.byNumber (key.setWidth 16))) ∧
    (2 ≤ selector.toNat ∨ selector = 1 ∧ (key = 0 ∨ 65535 < key.toNat) →
      entryKeyOf selector key = none ∧
      exec (.barMachine tag selector key) s = .next (s.refusing 0x11 tag .badParam) ∧
      exec (.unbarMachine tag selector key) s = .next (s.refusing 0x12 tag .badParam) ∧
      exec (.removeMachine tag selector key) s = .next (s.refusing 0x13 tag .badParam)) ∧
    (∀ ring : BitVec 24, s.entryOfKey (.byRing ring) = s.entryOfRing ring) ∧
    (∀ number : BitVec 16, s.entryOfKey (.byNumber number) = s.entryOfNumber number)) ∧
  (∀ (tag selector : Byte) (key : BitVec 24) (k : Key) (s : State),
    s.isSealed = true → entryKeyOf selector key = some k →
    (s.entryOfKey k = none →
      exec (.removeMachine tag selector key) s = .next (s.refusing 0x13 tag .notFound)) ∧
    ∀ (slot : Nat) (e : Entry), slot < 256 → s.entryOfKey k = some (slot, e) →
      ((∃ n : HoseId, s.hoses[n].state.holdsEntry = true ∧ s.hoses[n].serves slot = true) →
        exec (.removeMachine tag selector key) s = .next (s.refusing 0x13 tag .inUse)) ∧
      ((∀ n : HoseId, s.hoses[n].state.holdsEntry = true → s.hoses[n].serves slot = false) →
        ∃ entries, exec (.removeMachine tag selector key) s = .next
            (({ s.beginExchange with table := { s.table with entries } }).holding
              (replyBytes 0x13 tag 0 (beBytes 4 slot))) ∧
          ∀ j, Sparse.find? entries j = if j = slot then none else s.entryAt j)) ∧
  (∀ (tag : Byte) (ring : BitVec 24) (number : BitVec 16) (costCentre : Byte)
    (permitted : BitVec 32) (state : Byte) (allowance cap : BitVec 16) (s : State), s.isSealed = true →
    let refuses (status : Status) : Prop :=
      exec (.putMachine tag ring number costCentre permitted state allowance cap) s =
        .next (s.refusing 0x10 tag status)
    let inRange : Prop := isCanonical ring = true ∧ number ≠ 0 ∧ costCentre.toNat ≤ 63 ∧
      1 ≤ permitted.toNat ∧ permitted.toNat ≤ 3 ∧ state.toNat ≤ 1 ∧ cap ≠ 0
    let double : Prop := ∃ q ∈ s.table.entries, q.2.number = number ∧ q.2.ring ≠ ring
    (¬ inRange → refuses .badParam) ∧
    (inRange → double → refuses .duplicate) ∧
    (inRange → ¬ double → (∀ q ∈ s.table.entries, q.2.ring ≠ ring) →
      (∀ j < 256, (s.entryAt j).isSome = true) → refuses .tableFull))

/-- R24: SET_DAY with another day sets every tally to 0 and clears every heard reservation, sets the day
with its CRC, and queues the subject of every entry with an open delivery in slot order; the day before is
the answer, and the same day changes nothing. The zeros beyond the results of an OK reply are the model's
choice (log entry 47). -/
def Obligations.SetDayStartsDay : Prop :=
  ∀ (tag : Byte) (day : BitVec 16) (s : State), s.isSealed = true →
    let reply := replyBytes 0x15 tag 0 (beBytes 2 s.table.day.toNat)
    (day = s.table.day → exec (.setDay tag day) s = .next (s.beginExchange.holding reply)) ∧
    (day ≠ s.table.day →
      let entries := s.table.entries.map fun (p : Nat × Entry) =>
        (p.1, Entry.withCrc { p.2 with
          tally := Vector.replicate 16 0, heard := Vector.replicate 16 none })
      let opened := s.table.entries.filter fun p => s.hasOpen p.1
      exec (.setDay tag day) s = .next
        ((opened.foldl (fun (u : State) (p : Nat × Entry) => u.ask (.machine p.2.ring))
          { s.beginExchange with
            table := { entries, day, dayCrc := crc16 (beBytes 2 day.toNat) } }).holding reply))

/-- R28, R29, R129: the remaining allowance of an entry, the available stock of a compartment, and the limit
as the least of its terms, with one own delivery left out or none. -/
def Obligations.LimitIsLeastOfTerms : Prop :=
  ∀ (s : State) (slot : Nat) (e : Entry) (k : CompId) (m : Method) (without : Option HoseId),
    let others := [(0 : HoseId), 1, 2, 3].filter fun n => decide (some n ≠ without)
    let openOf (p : HoseId → Bool) : Int :=
      ((others.filter fun n => s.hoses[n].state.isOpen && p n).map fun n =>
        ((s.hoses[n].openPreset : Nat) : Int)).sum
    let heard : Int := (e.heard.toList.map fun h => (((h.map Heard.ml).getD 0 : Nat) : Int)).sum
    let remaining : Int := max 0 (e.allowance.toNat * 1000 - (e.tally.toList.sum : Nat) - heard -
      openOf fun n => s.hoses[n].serves slot)
    let available : Int := max 0 (s.stock.books[k].value - s.heel k * 1000 -
      openOf fun n => decide (s.hoseComp n = k))
    (s.remainingAllowance slot e without : Int) = remaining ∧
    (s.availableStock k without : Int) = available ∧
    (s.limit slot e k m without : Int) =
      min (min (min remaining (e.cap.toNat * 1000))
        (min available (if m = .keyed then s.keyedCap * 1000 else 30000000))) 30000000

/-! ## Hose commands -/

/-- R30, R41: an AUTHORISE of an IDENTIFIED hose, or a keyed one of an UNIDENTIFIED hose, that passes every
check arms the hose: the preset is granted against a fresh limit, a log slot is reserved, the context is
started, the arm expiry set and the subject of the ring ID asked for. The second clause gives the checks of
an entry in their order (R25 to R27), the third the refusals of AUTHORISE with their statuses in the order
of R30, R40 and R41. The answer's machine number and cost centre are the current entry's (log entry 34), and
the lookup's limit stays in the context (log entry 39): the model's choices. The zeros beyond the results of
an OK reply are the model's choice (log entry 47). -/
def Obligations.AuthoriseArms : Prop :=
  (∀ (tag : Byte) (n : HoseId) (preset : BitVec 32) (number : BitVec 16) (i : Ident) (e : Entry)
    (s : State), s.isSealed = true →
    s.metroFault = false → s.estopLatch = false → (s.pumpOf n).state ≠ .fault →
    (s.hoses[n].state = .identified ∧ number = 0 ∧ s.hoses[n].ident = some i ∧
        s.entryAt i.slot = some e ∨
      s.hoses[n].state = .unidentified ∧ number ≠ 0 ∧ s.keyedAllowed = true ∧
        s.entryOfNumber number = some (i.slot, e) ∧
        i = { method := .keyed, slot := i.slot, ring := e.ring, number := e.number,
              costCentre := e.costCentre }) →
    s.objection i.slot e (s.hoseComp n) i.method = none →
    let limit := s.limit i.slot e (s.hoseComp n) i.method none
    let granted := if preset = 0 then limit else min preset.toNat limit
    let h : Hose := { s.hoses[n] with
      state := .armed, reason := none, ident := some i, preset := some granted, pendingPreset := none,
      acc := some Accum.zero, flags := DFlags.clear, phaseErrors := 0, endCause := none,
      beenFlowing := false, armExpiry := some (s.now / 1000000 + s.armTtl) }
    exec (.authorise tag (BitVec.ofNat 8 n.val) preset number) s = .next
      ((State.ask (.machine i.ring)
        { s.beginExchange with
          hoses := s.hoses.set n h
          log := { s.log with reserved := s.log.reserved.set (holderOf n) true } }).holding
        (replyBytes 0x20 tag 0
          (beBytes 4 granted ++ beBytes 4 limit ++ [BitVec.ofNat 8 i.method.code] ++
            beBytes 2 e.number.toNat ++ [e.costCentre])))) ∧
  (∀ (slot : Nat) (e : Entry) (k : CompId) (m : Method) (s : State),
    let stock := s.availableStock k none
    let others := min (min (s.remainingAllowance slot e none) (e.cap.toNat * 1000))
      (min (if m = .keyed then s.keyedCap * 1000 else 30000000) 30000000)
    s.objection slot e k m =
      if e.state = .barred then some .barred
      else if (if k = 0 then e.permitC0 else e.permitC1) = false then some .grade
      else if s.stock.books[k].isSet = false then some .stockUnset
      else if s.log.count + s.log.reserved.toList.countP id ≥ 1024 then some .logFull
      else if s.minPreset ≤ min others stock then none
      else if others ≤ stock then some .noAllowance
      else some .stockShort) ∧
  (∀ (tag hose : Byte) (preset : BitVec 32) (number : BitVec 16) (s : State), s.isSealed = true →
    let refuses (status : Nat) : Prop := exec (.authorise tag hose preset number) s =
      .next (s.beginExchange.holding (replyBytes 0x20 tag status []))
    let code (r : UnidReason) : Nat := match r with
      | .barred => 14 | .grade => 15 | .stockUnset => 13 | .logFull => 10 | .noAllowance => 11
      | .stockShort => 12 | _ => 0
    (4 ≤ hose.toNat → refuses 2) ∧
    ∀ n : HoseId, hose.toNat = n.val →
      let st := s.hoses[n].state
      let held : Prop := st = .identified ∧ number = 0
      let keyed : Prop := st = .unidentified ∧ number ≠ 0
      let ready : Prop := s.metroFault = false ∧ s.estopLatch = false ∧ (s.pumpOf n).state ≠ .fault
      (st = .identified → number ≠ 0 → refuses 2) ∧
      (¬ held → ¬ keyed → st ≠ .identified → refuses 5) ∧
      (held ∨ keyed → s.metroFault = true → refuses 19) ∧
      (held ∨ keyed → s.metroFault = false → s.estopLatch = true → refuses 17) ∧
      (held ∨ keyed → s.metroFault = false → s.estopLatch = false → (s.pumpOf n).state = .fault →
        refuses 18) ∧
      (∀ (i : Ident) (e : Entry) (r : UnidReason), ready → held → s.hoses[n].ident = some i →
        s.entryAt i.slot = some e → s.objection i.slot e (s.hoseComp n) i.method = some r →
        refuses (code r)) ∧
      (ready → keyed → s.keyedAllowed = false → refuses 16) ∧
      (ready → keyed → s.keyedAllowed = true → (∀ q ∈ s.table.entries, q.2.number ≠ number) →
        refuses 6) ∧
      (∀ (slot : Nat) (e : Entry) (r : UnidReason), ready → keyed → s.keyedAllowed = true →
        s.entryOfNumber number = some (slot, e) →
        s.objection slot e (s.hoseComp n) .keyed = some r → refuses (code r)))

/-- R50: STOP by the hose's state; the answer is the state before it. A hose that a claim is taken from
gives up its grant to the head of the queue, and its pump runs on, stops or goes on (R78, R83). The reader
of a read cut off holds pad 0 and no try (the model's choice, log entry 22). A cancelled hose comes to rest
by its seat line (the model's reading, log entry 37). The window in flight is left uncounted unless its
expiry time has come (the model's reading, log entry 8). The zeros beyond the results of an OK reply are the
model's choice (log entry 47). -/
def Obligations.StopActsByState : Prop :=
  ∀ (tag : Byte) (n : HoseId) (s : State), s.isSealed = true → GrantInv s →
    let st := s.hoses[n].state
    let reply := replyBytes 0x21 tag 0 [BitVec.ofNat 8 st.code]
    let stops (u : State) : Prop :=
      exec (.stop tag (BitVec.ofNat 8 n.val)) s = .next (u.holding reply)
    (st = .idle ∨ st = .finished ∨ st = .settling ∨ st = .offline → stops s.beginExchange) ∧
    (st = .reading → stops { s.beginExchange with
      hoses := s.hoses.set n (Hose.bare .finished s.hoses[n].journal)
      readers := s.readers.set n { s.readers[n] with
        state := .waiting, pad := 0, counts := [], slotDue := none } }) ∧
    (st = .identified ∨ st = .unidentified ∨ st = .armed → stops (s.beginExchange.cancelled n)) ∧
    (st = .priming ∨ st = .flowing ∨ st = .paused →
      ∃ u, stops u ∧ EntersSettling n .hostStop s.beginExchange u) ∧
    (∀ hose : Byte, 4 ≤ hose.toNat →
      exec (.stop tag hose) s = .next (s.refusing 0x21 tag .badParam))

/-- R49: SET_PRESET of an ARMED, PRIMING, FLOWING or PAUSED hose grants the preset against a limit that
leaves the delivery out, holds it as the pending preset and asks for the subject; in another state it is
WRONG_STATE. The zeros beyond the results of an OK reply are the model's choice (log entry 47). -/
def Obligations.SetPresetHoldsGrant : Prop :=
  ∀ (tag : Byte) (n : HoseId) (preset : BitVec 32) (s : State), s.isSealed = true →
    (∀ (i : Ident) (e : Entry),
      s.hoses[n].state ∈ [HoseState.armed, .priming, .flowing, .paused] →
      s.hoses[n].ident = some i → s.entryAt i.slot = some e →
      let limit := s.limit i.slot e (s.hoseComp n) i.method (some n)
      let granted := if preset = 0 then limit else min preset.toNat limit
      exec (.setPreset tag (BitVec.ofNat 8 n.val) preset) s = .next
        ((State.ask (.machine i.ring)
          { s.beginExchange with
            hoses := s.hoses.set n { s.hoses[n] with pendingPreset := some granted } }).holding
          (replyBytes 0x22 tag 0 (beBytes 4 granted ++ beBytes 4 limit)))) ∧
    (s.hoses[n].state ∉ [HoseState.armed, .priming, .flowing, .paused] →
      exec (.setPreset tag (BitVec.ofNat 8 n.val) preset) s =
        .next (s.refusing 0x22 tag .wrongState)) ∧
    (∀ hose : Byte, 4 ≤ hose.toNat →
      exec (.setPreset tag hose preset) s = .next (s.refusing 0x22 tag .badParam))

/-- R56: ESTOP_CLEAR before the seal, with the latch clear, with the input asserted, and with the latch set
and the input released; clearing changes the latch alone. The zeros beyond the results of an OK reply are
the model's choice (log entry 47). -/
def Obligations.EstopClearClearsLatch : Prop :=
  ∀ (tag : Byte) (s : State),
    (s.isSealed = false → exec (.estopClear tag) s = .next (s.refusing 0x24 tag .notSealed)) ∧
    (s.isSealed = true → s.estopLatch = false →
      exec (.estopClear tag) s = .next (s.beginExchange.holding (replyBytes 0x24 tag 0 [0]))) ∧
    (s.isSealed = true → s.estopLatch = true → s.pins.estop = true →
      exec (.estopClear tag) s = .next (s.refusing 0x24 tag .wrongState)) ∧
    (s.isSealed = true → s.estopLatch = true → s.pins.estop = false →
      exec (.estopClear tag) s = .next
        (({ s.beginExchange with estopLatch := false }).holding (replyBytes 0x24 tag 0 [1])))

/-! ## Lines of the nozzle and the pumps -/

/-- R6, R7, R13, R37: a seat event moves the line, and starts a read on an IDLE hose: a pass in flight is
abandoned, and the try starts at pad 0, or the read fails with NO_BASELINE where a baseline is invalid. An
unseat event moves the line and acts by the hose's state. Where no pass or try is in flight the model holds
pad and try counts at 0 (log entry 22). The window in flight is left uncounted unless its expiry time has
come (the model's reading, log entry 8). -/
def Obligations.SeatLineActsByState : Prop :=
  (∀ (n : HoseId) (s : State),
    let u : State := { s with pins := { s.pins with seat := s.pins.seat.set n true } }
    let r : Reader := { s.readers[n] with last := none, tryNo := 1, pad := 0, counts := [] }
    (s.hoses[n].state ≠ .idle → exec (.seatEvent n) s = .next u) ∧
    (s.hoses[n].state = .idle → (∀ p ∈ s.readers[n].baseline.toList, p.isSome = true) →
      exec (.seatEvent n) s = .next
        { u with
          hoses := s.hoses.set n { s.hoses[n] with state := .reading }
          readers := s.readers.set n { r with state := .reading, slotDue := some (s.now + 2000) } }) ∧
    (s.hoses[n].state = .idle → none ∈ s.readers[n].baseline.toList →
      exec (.seatEvent n) s = .next
        (State.post .hoseUnidentified (.hose n) 0
          { u with
            hoses := s.hoses.set n { s.hoses[n] with
              state := .unidentified, reason := some .noBaseline, ident := none }
            readers := s.readers.set n { r with
              state := .waiting, slotDue := none, last := some (.failed .noBaseline 1) } }))) ∧
  (∀ (n : HoseId) (s : State), GrantInv s →
    let u : State := { s with pins := { s.pins with seat := s.pins.seat.set n false } }
    let st := s.hoses[n].state
    (st = .offline ∨ st = .idle ∨ st = .settling → exec (.unseatEvent n) s = .next u) ∧
    (st = .reading → exec (.unseatEvent n) s = .next
      { u with
        hoses := s.hoses.set n (Hose.bare .idle s.hoses[n].journal)
        readers := s.readers.set n { s.readers[n] with
          state := .waiting, pad := 0, counts := [], slotDue := none } }) ∧
    (st = .identified ∨ st = .unidentified ∨ st = .armed →
      exec (.unseatEvent n) s = .next (u.cancelled n)) ∧
    (st = .priming ∨ st = .flowing ∨ st = .paused →
      ∃ t, exec (.unseatEvent n) s = .next t ∧ EntersSettling n .unseated u t) ∧
    (st = .finished → exec (.unseatEvent n) s = .next
      { u with hoses := s.hoses.set n (Hose.bare .idle s.hoses[n].journal) }))

/-- R44, R45, R72, R76, R77, R82, R84, R92: a deadman held for an ARMED hose, its pump not in FAULT, starts
the delivery: the hose claims its pump, and is FLOWING at step 0 of its profile when the pump is then
RUNNING and PRIMING otherwise. Entering a step whose stage is FULL it asks its pump for a grant, and the
demand is selected anew. The window in flight ends as a stray window, with its whole millilitres, its
residue, its episode and its rate (STRAY_FLOW after what the book's change posts: the model's choice, log
entry 31), and a new window attached to the delivery starts; the journal is written. The spin-up expiry is
due at a whole millisecond (the model's choice, log entry 42). -/
def Obligations.DeadmanHeldStartsDelivery : Prop :=
  ∀ (n : HoseId) (s : State), s.hoses[n].state = .armed → (s.pumpOf n).state ≠ .fault →
    let runs : Prop := (s.pumpOf n).state = .running ∨ (s.pumpOf n).state = .runOn
    let k := s.hoseComp n
    let p := s.profileOf n
    let first : StepState :=
      { index := 0, stage := stageOf p 0, handed := stageOf p 0, elapsed := 0, stall := 0 }
    let joined : Pump := { s.pumps[k] with claims := s.pumps[k].claims.set n true }
    let running : Pump := { joined with
      state := .running, runOn := if (s.pumpOf n).state = .runOn then none else (s.pumpOf n).runOn }
    ∃ t : State, exec (.deadmanHeld n) s = .next t ∧
      (runs → t.hoses[n].state = .flowing ∧ t.hoses[n].beenFlowing = true ∧
        (t.pumpOf n).state = .running ∧
        (s.hoses[n].beenFlowing = false →
          t.hoses[n].step = some first ∧
          t.pumps = s.pumps.set k { (if first.stage = .full then running.request (s.maxFull k) n
            else running) with demand := t.selectedDemand k })) ∧
      (¬ runs → t.hoses[n].state = .priming ∧
        t.hoses[n].beenFlowing = s.hoses[n].beenFlowing ∧
        t.hoses[n].step = s.hoses[n].step ∧
        t.pumps = s.pumps.set k { joined with
          state := .starting, demand := some .slow
          spinUp := if (s.pumpOf n).state = .off then some (s.now / 1000 + s.pumpSpinup)
            else (s.pumpOf n).spinUp }) ∧
      (t.pumpOf n).claims = (s.pumpOf n).claims.set n true ∧
      t.hoses[n].armExpiry = none ∧
      t.hoses[n].preset = s.hoses[n].preset ∧ t.hoses[n].pendingPreset = s.hoses[n].pendingPreset ∧
      t.hoses[n].acc = s.hoses[n].acc ∧ t.hoses[n].flags = s.hoses[n].flags ∧
      t.hoses[n].phaseErrors = s.hoses[n].phaseErrors ∧ t.hoses[n].ident = s.hoses[n].ident ∧
      t.hoses[n].journal = some (s.hoses[n].toJournal n (s.hoseComp n)) ∧
      AccountsStray n s t ∧
      t.meters = s.meters.set (meterOf n) { s.meters[meterOf n] with
        attach := .delivery, count := 0, sat := false, phaseErr := 0, due := some (s.now + 250000)
        lastRate := t.meters[meterOf n].lastRate, stray := t.meters[meterOf n].stray } ∧
      (∀ m : HoseId, m ≠ n → t.hoses[m] = s.hoses[m]) ∧
      (∀ j : CompId, j ≠ k → t.pumps[j] = s.pumps[j]) ∧
      t = { s with
        pins := { s.pins with dman := s.pins.dman.set n true }
        hoses := t.hoses, pumps := t.pumps, meters := t.meters
        stock := t.stock, link := t.link, port := t.port }

/-- R38, R45, R47, R48, R72, R82 to R84: a release in PRIMING or FLOWING pauses the hose, keeping its claim
and giving up its grant or queue place. A held event resumes a PAUSED hose: FLOWING with its frozen step, or
step 0 when it has never flowed, when the pump is RUNNING, and PRIMING otherwise; a hose that resumes at a
step whose stage is FULL asks for a grant afresh. The demand is selected anew. Elsewhere, and with the pump
of an ARMED hose in FAULT, the line alone moves. -/
def Obligations.DeadmanPausesAndResumes : Prop :=
  (∀ (n : HoseId) (s : State), GrantInv s →
    let moved (b : Bool) : State := { s with pins := { s.pins with dman := s.pins.dman.set n b } }
    let st := s.hoses[n].state
    (st ≠ .armed → st ≠ .paused → exec (.deadmanHeld n) s = .next (moved true)) ∧
    (st = .armed → (s.pumpOf n).state = .fault → exec (.deadmanHeld n) s = .next (moved true)) ∧
    (st ≠ .priming → st ≠ .flowing → exec (.deadmanRelease n) s = .next (moved false)) ∧
    (st = .priming ∨ st = .flowing →
      ∃ t : State, exec (.deadmanRelease n) s = .next t ∧
        t.hoses = s.hoses.set n { s.hoses[n] with
          state := .paused, pauseExpiry := some (s.now / 1000000 + s.pauseMax) } ∧
        t.drivenStage n = .closed ∧
        (t.pumpOf n).grants[n] = false ∧ n ∉ (t.pumpOf n).queue ∧
        (t.pumpOf n).claims = (s.pumpOf n).claims ∧ (t.pumpOf n).state = (s.pumpOf n).state ∧
        t.pumps = s.pumps.set (s.hoseComp n) { (s.pumpOf n).giveUp n with
          demand := t.selectedDemand (s.hoseComp n) } ∧
        (∀ k : CompId, k ≠ s.hoseComp n → t.pumps[k] = s.pumps[k]) ∧
        t = { moved false with hoses := t.hoses, pumps := t.pumps })) ∧
  (∀ (n : HoseId) (s : State), s.hoses[n].state = .paused →
    let k := s.hoseComp n
    let p := s.profileOf n
    let first : StepState :=
      { index := 0, stage := stageOf p 0, handed := stageOf p 0, elapsed := 0, stall := 0 }
    ∃ t : State, exec (.deadmanHeld n) s = .next t ∧
      t.hoses[n].pauseExpiry = none ∧
      ((s.pumpOf n).state ≠ .running →
        t.hoses[n] = { s.hoses[n] with state := .priming, pauseExpiry := none }) ∧
      ((s.pumpOf n).state = .running →
        t.hoses[n] = { s.hoses[n] with
          state := .flowing, pauseExpiry := none, beenFlowing := true, step := t.hoses[n].step } ∧
        (∀ st : StepState, s.hoses[n].beenFlowing = true → s.hoses[n].step = some st →
          t.hoses[n].step = some { st with handed := st.stage }) ∧
        (s.hoses[n].beenFlowing = false → t.hoses[n].step = some first)) ∧
      (∀ st : StepState, (s.pumpOf n).state = .running → t.hoses[n].step = some st →
        t.pumps = s.pumps.set k { (if st.stage = .full then (s.pumpOf n).request (s.maxFull k) n
          else s.pumpOf n) with demand := t.selectedDemand k }) ∧
      ((s.pumpOf n).state ≠ .running →
        t.pumps = s.pumps.set k { s.pumpOf n with demand := t.selectedDemand k }) ∧
      (t.pumpOf n).claims = (s.pumpOf n).claims ∧ (t.pumpOf n).state = (s.pumpOf n).state ∧
      (∀ m : HoseId, m ≠ n → t.hoses[m] = s.hoses[m]) ∧
      (∀ k : CompId, k ≠ s.hoseComp n → t.pumps[k] = s.pumps[k]) ∧
      t = { s with
        pins := { s.pins with dman := s.pins.dman.set n true }, hoses := t.hoses, pumps := t.pumps })

/-- R42, R55, R81: an emergency-stop assertion sets the latch, takes both pumps to OFF (a faulted one stays
in FAULT), sends every PRIMING, FLOWING or PAUSED hose to SETTLING with cause ESTOP, cancels every
IDENTIFIED or ARMED one (R42), leaves the rest as they are, and posts ESTOP with the number of hoses
reached. A cancelled hose comes to rest by its seat line (the model's reading, log entry 37). The cancelled
ARMED hoses give up their log slots and ask for their subjects in hose order, and nothing else of the part
changes. A release moves the line alone, and so does an assertion before the seal. The window in flight is
left uncounted unless its expiry time has come (the model's reading, log entry 8). -/
def Obligations.EstopStopsEverything : Prop :=
  ∀ s : State,
    let moved (b : Bool) : State := { s with pins := { s.pins with estop := b } }
    let reached : Nat := s.hoses.toList.countP fun h =>
      h.state.isActive || h.state == .identified || h.state == .armed
    exec .estopRelease s = .next (moved false) ∧
    (s.isSealed = false → exec .estopAssertion s = .next (moved true)) ∧
    (s.isSealed = true → ∃ t u : State, exec .estopAssertion s = .next t ∧
      StopsEverything .estop { moved true with estopLatch := true } u ∧
      t = u.post .estop .part reached ∧ t.estopLatch = true ∧
      (s.port.mask.getLsbD 6 = false → s.port.events.length ≤ 27 →
        t.port.events.getLast? = some
          { kind := .estop, subject := .part, postedAt := s.now / 1000000, value := reached }) ∧
      (∀ n : HoseId, s.hoses[n].state = .armed → s.link.queue.length ≤ 12 →
        Subject.machine s.hoses[n].identity.ring ∈ t.link.queue))

/-- R58, R80: an assertion of a pump's fault line, from any state of the pump, puts it into FAULT, sends
every claimant of its compartment to SETTLING with cause PUMP_FAULT, leaves the other hoses and the other
pump, and posts PUMP_FAULT with their number; the release takes a faulted pump to OFF. The window in flight
is left uncounted unless its expiry time has come (the model's reading, log entry 8). -/
def Obligations.PumpFaultStopsClaimants : Prop :=
  ∀ (k : CompId) (s : State),
    let moved (b : Bool) : State := { s with pins := { s.pins with pflt := s.pins.pflt.set k b } }
    (s.isSealed = false → exec (.pfltAssertion k) s = .next (moved true) ∧
      exec (.pfltRelease k) s = .next (moved false)) ∧
    (s.isSealed = true → ∃ t : State, exec (.pfltAssertion k) s = .next t ∧
      t.port = (s.post .pumpFault (.comp k)
        (([(0 : HoseId), 1, 2, 3].countP fun n =>
          s.hoses[n].state.isActive && decide (s.hoseComp n = k) : Nat) : Int)).port ∧
      t.pumps[k].state = .fault ∧ t.pumps[k].spinUp = none ∧ t.pumps[k].runOn = none ∧
      t.pumps[k].demand = none ∧ t.pumps[k].duty = 0 ∧ t.prun k = false ∧
      (∀ n : HoseId, t.pumps[k].claims[n] = false ∧ t.pumps[k].grants[n] = false ∧
        n ∉ t.pumps[k].queue) ∧
      (∀ j : CompId, j ≠ k → t.pumps[j] = s.pumps[j]) ∧
      (∀ n : HoseId,
        (s.hoses[n].state.isActive = true → s.hoseComp n = k →
          t.hoses[n] = s.stoppedContext n .pumpFault t.hoses[n].journal ∧
          t.hoses[n].journal = some (t.hoses[n].toJournal n k)) ∧
        (s.hoses[n].state.isActive = false ∨ s.hoseComp n ≠ k → t.hoses[n] = s.hoses[n])) ∧
      t = { moved true with hoses := t.hoses, pumps := t.pumps, port := t.port }) ∧
    (s.isSealed = true → s.pumps[k].state ≠ .fault →
      exec (.pfltRelease k) s = .next (moved false)) ∧
    (s.isSealed = true → s.pumps[k].state = .fault → ∃ p : Pump,
      exec (.pfltRelease k) s = .next { moved false with pumps := s.pumps.set k p } ∧
      p.state = .off ∧ p.demand = none ∧ p.duty = 0 ∧ p.spinUp = none ∧ p.runOn = none ∧
      p.queue = [] ∧ p.pwmDue = s.pumps[k].pwmDue ∧
      ∀ n : HoseId, p.claims[n] = false ∧ p.grants[n] = false)

/-! ## Ring readers -/

/-- R2, R4, R5: a period expiry sets the next one 2 s later, and starts a baseline pass when the reader is
WAITING, the seat line released and the hose IDLE or FINISHED. A pad's measurement in a pass updates that
pad's baseline alone: a pad fault leaves it, a good count sets an invalid one, and a valid one takes the
floor of (3 × old + new) / 4; after the 24th pad the reader is WAITING, with its pad index 0 (the model's
choice, log entry 22). The last clause gives the drive of the pads: none of a STOPPED reader's is driven
(R1), and of another's the pad that a pass or a try measures is the one not held discharged (R3). That the
clock does not run back is the model's choice (log entry 1). -/
def Obligations.BaselinePassMeasuresPads : Prop :=
  (∀ (n : HoseId) (due : Nat) (s : State), s.readers[n].periodDue = some due →
    let r : Reader := { s.readers[n] with periodDue := some (due + 2000000) }
    let starts : Prop := s.readers[n].state = .waiting ∧ s.pins.seat[n] = false ∧
      (s.hoses[n].state = .idle ∨ s.hoses[n].state = .finished)
    let now := max s.now due
    let pass : Reader :=
      { r with state := .refreshing, pad := 0, counts := [], slotDue := some (now + 2000) }
    (starts → exec (.periodExpiry n) s = .next { s with now, readers := s.readers.set n pass }) ∧
    (¬ starts → exec (.periodExpiry n) s = .next { s with now, readers := s.readers.set n r })) ∧
  (∀ (n : HoseId) (due : Nat) (p : Fin 24) (count : BitVec 16) (s : State),
    s.readers[n].slotDue = some due → s.readers[n].state = .refreshing →
    s.readers[n].pad = p.val →
    let old := s.readers[n].baseline[p]
    let new : Option Nat :=
      if count = 0 ∨ count = 65535 then old
      else match old with
        | none => some count.toNat
        | some b => some ((3 * b + count.toNat) / 4)
    let r : Reader := { s.readers[n] with baseline := s.readers[n].baseline.set p new }
    let after : Reader :=
      if p.val = 23 then { r with state := .waiting, pad := 0, counts := [], slotDue := none }
      else { r with pad := p.val + 1, slotDue := some (due + 2000) }
    exec (.padMeasurement n count) s = .next
      { s with now := max s.now due, readers := s.readers.set n after }) ∧
  (∀ (n : HoseId) (p : Fin 24) (s : State),
    let r := s.readers[n]
    (r.state = .stopped → s.padDrive n p = .undriven) ∧
    (r.state = .waiting → s.padDrive n p = .discharged) ∧
    (r.state = .refreshing ∨ r.state = .reading →
      s.padDrive n p = if p.val = r.pad then .measured else .discharged))

/-- R3, R7, R11, R12: a measurement of a try is kept; at the 24th the try ends: it identifies the hose by
the lookup, or leaves it UNIDENTIFIED with the lookup's reason, and a failed try starts the next one while
tries remain, and otherwise ends the read with its reason. After a read the pad index is 0 (the model's
choice, log entry 22). The clauses after give the classification of a pad by its count and baseline (R8),
the resolution of the weight (R9), the outcome of a try, and the lookup of a ring ID (R25). That the clock
does not run back is the model's choice (log entry 1). -/
def Obligations.TryEndsAtLastPad : Prop :=
  (∀ (n : HoseId) (due : Nat) (count : BitVec 16) (s : State),
    s.readers[n].slotDue = some due → s.readers[n].state = .reading → s.readers[n].pad ≤ 23 →
    let r := s.readers[n]
    let u : State := { s with now := max s.now due }
    let outcome := tryOutcome s.tLo s.tHi r.baseline.toList (r.counts ++ [count.toNat])
    let waiting (result : ReadResult) : Reader :=
      { r with state := .waiting, pad := 0, counts := [], slotDue := none, last := some result }
    let ended (result : ReadResult) : State := { u with readers := s.readers.set n (waiting result) }
    let unidentified (reason : UnidReason) : Hose :=
      { s.hoses[n] with state := .unidentified, reason := some reason, ident := none }
    let refused (reason : UnidReason) (t : State) : State :=
      State.post .hoseUnidentified (.hose n) reason.code
        { t with hoses := s.hoses.set n (unidentified reason) }
    let kept : Reader :=
      { r with
        counts := r.counts ++ [count.toNat], pad := r.pad + 1, slotDue := some (due + 2000) }
    let again : Reader :=
      { r with pad := 0, counts := [], slotDue := some (u.now + 2000), tryNo := r.tryNo + 1 }
    (r.pad < 23 → exec (.padMeasurement n count) s = .next
      { u with readers := s.readers.set n kept }) ∧
    (∀ (ring : BitVec 24) (orientation : Nat), r.pad = 23 → outcome = .ok (ring, orientation) →
      let t := ended (.ring ring orientation r.tryNo)
      (∀ (i : Ident) (limit : Nat), s.ringLookup ring (s.hoseComp n) = .found i limit →
        let h : Hose := { s.hoses[n] with
          state := .identified, reason := none, ident := some i, lookupLimit := some limit,
          armExpiry := some (u.now / 1000000 + s.armTtl) }
        exec (.padMeasurement n count) s = .next
          (State.post .hoseIdentified (.hose n) limit { t with hoses := s.hoses.set n h })) ∧
      (∀ reason, s.ringLookup ring (s.hoseComp n) = .refused reason →
        exec (.padMeasurement n count) s = .next (refused reason t))) ∧
    (∀ reason : UnidReason, r.pad = 23 → outcome = .error reason →
      (r.tryNo < s.readTries → exec (.padMeasurement n count) s = .next
        { u with readers := s.readers.set n again }) ∧
      (s.readTries ≤ r.tryNo → exec (.padMeasurement n count) s = .next
        (refused reason (ended (.failed reason r.tryNo)))))) ∧
  (∀ (lo hi count : Nat), classify lo hi none count = .unsure ∧
    ∀ b : Nat, lo < hi → classify lo hi (some b) count =
      if count = 0 ∨ 65535 ≤ count then .unsure
      else if hi ≤ count * 256 / b then .one
      else if count * 256 / b ≤ lo then .zero
      else .unsure) ∧
  (∀ pads : List Pad,
    let unsure := pads.countP fun p => p == .unsure
    let sure := pads.countP fun p => p == .one
    (2 ≤ unsure → resolveWeight pads = .error .unreadable) ∧
    (unsure = 1 → sure = 8 → resolveWeight pads = .ok (pads.map fun p => p != .zero)) ∧
    (unsure ≤ 1 → sure = 9 → resolveWeight pads = .ok (pads.map fun p => p == .one)) ∧
    (unsure ≤ 1 → sure ≠ 9 → ¬(unsure = 1 ∧ sure = 8) → resolveWeight pads = .error .weight) ∧
    (∀ bits, resolveWeight pads = .ok bits → bits.length = pads.length ∧ bits.countP id = 9)) ∧
  (∀ (lo hi : Nat) (baseline : List (Option Nat)) (counts : List Nat),
    let pads := List.zipWith (classify lo hi) baseline counts
    (∀ reason, resolveWeight pads = .error reason →
      tryOutcome lo hi baseline counts = .error reason) ∧
    (∀ bits, resolveWeight pads = .ok bits → tryOutcome lo hi baseline counts = canonical bits)) ∧
  (∀ (ring : BitVec 24) (k : CompId) (s : State),
    ((∀ q ∈ s.table.entries, q.2.ring ≠ ring) → s.ringLookup ring k = .refused .unknownMachine) ∧
    ∀ (slot : Nat) (e : Entry), s.entryOfRing ring = some (slot, e) →
      (slot, e) ∈ s.table.entries ∧ e.ring = ring ∧
      (∀ r, s.objection slot e k .ring = some r → s.ringLookup ring k = .refused r) ∧
      (s.objection slot e k .ring = none → s.ringLookup ring k =
        .found { method := .ring, slot, ring, number := e.number, costCentre := e.costCentre }
          (s.limit slot e k .ring none)))

/-- R10: the ring ID of a pattern of 24 pads is the least of its rotations, each read as a number whose
first element is the most significant bit, and the orientation is the rotation that gives it, when one alone
does; when two or more do, the try fails with SYMMETRIC, and the end of the try does not depend on the
machine table. The ring ID does not depend on how the nozzle was turned, and the orientation turns with it.
A SYMMETRIC pattern of weight 9 repeats with a period of 8 pads. -/
def Obligations.CanonicalRotationFound : Prop :=
  (∀ bits : List Bool, bits.length = 24 →
    let value (j : Nat) := patternValue (bits.drop j ++ bits.take j)
    (∀ (ring : BitVec 24) (j : Nat), canonical bits = .ok (ring, j) →
      j < 24 ∧ ring.toNat = value j ∧ ∀ i < 24, i ≠ j → value j < value i) ∧
    (canonical bits = .error .symmetric →
      ∃ i j, i < j ∧ j < 24 ∧ value i = value j ∧ ∀ m < 24, value i ≤ value m) ∧
    (∀ reason, canonical bits = .error reason → reason = .symmetric) ∧
    (∀ (k : Nat) (ring : BitVec 24) (j : Nat), k < 24 → canonical bits = .ok (ring, j) →
      canonical (bits.drop k ++ bits.take k) = .ok (ring, (j + 24 - k) % 24)) ∧
    (bits.countP id = 9 → canonical bits = .error .symmetric → bits.drop 8 ++ bits.take 8 = bits)) ∧
  (patternValue [] = 0 ∧ ∀ (b : Bool) (l : List Bool),
    patternValue (b :: l) = (if b then 2 ^ l.length else 0) + patternValue l) ∧
  (∀ (n : HoseId) (counts : List Nat) (table : MachineTable) (s : State),
    tryOutcome s.tLo s.tHi s.readers[n].baseline.toList counts = .error .symmetric →
    State.endTry n counts { s with table } = { State.endTry n counts s with table })

/-! ## Expiries of a hose and of a pump -/

/-- R42, R43: the arm expiry of an IDENTIFIED or ARMED hose cancels it and posts ARM_EXPIRED with the state
left; the pause expiry of a PAUSED hose sends it to SETTLING with cause PAUSE_TIMEOUT (R48), and what
becomes of its pump and grant is that of every entry into SETTLING (R78, R83). A cancelled hose comes to
rest by its seat line (the model's reading, log entry 37). Without its timer neither does anything (log
entry 3). The window in flight is left uncounted unless its expiry time has come (the model's reading, log
entry 8). That the clock does not run back is the model's choice (log entry 1). -/
def Obligations.HoseExpiriesEndWaiting : Prop :=
  ∀ (n : HoseId) (s : State), GrantInv s →
    (∀ due : Nat, s.hoses[n].armExpiry = some due →
      s.hoses[n].state = .identified ∨ s.hoses[n].state = .armed →
      let u : State := { s with now := max s.now (due * 1000000) }
      exec (.armExpiry n) s = .next
        ((u.cancelled n).post .armExpired (.hose n) s.hoses[n].state.code)) ∧
    (∀ due : Nat, s.hoses[n].pauseExpiry = some due → s.hoses[n].state = .paused →
      let u : State := { s with now := max s.now (due * 1000000) }
      ∃ t, exec (.pauseExpiry n) s = .next t ∧ EntersSettling n .pauseTimeout u t) ∧
    (s.hoses[n].armExpiry = none → exec (.armExpiry n) s = .next s) ∧
    (s.hoses[n].pauseExpiry = none → exec (.pauseExpiry n) s = .next s)

/-- R72, R77, R79, R82, R84, R85: at the spin-up expiry a pump with claimants is RUNNING and every PRIMING
claimant FLOWING, at its frozen step when it has been flowing and at step 0 of its profile otherwise; those
whose step stage is FULL ask for a grant in hose order. A pump without claimants goes to RUN_ON for
PUMP_RUNON seconds, or to OFF when that is 0; the demand is selected anew. The run-on expiry takes the pump
to OFF with both lines low. A PWM period starts with the duty of the demand in force, and the next is due a
period later. The last clause gives the selection of the demand. Times in ms are whole milliseconds since
the seal (the model's choice, log entry 42). That the clock does not run back is the model's choice (log
entry 1). -/
def Obligations.PumpExpiriesMovePump : Prop :=
  (∀ (k : CompId) (due : Nat) (s : State), s.pumps[k].spinUp = some due →
    (∀ n : HoseId, s.pumps[k].claims[n] = true → s.hoseComp n = k) →
    let now := max s.now (due * 1000)
    let claimed := s.pumps[k].claims.toList.any id
    let entered (n : HoseId) : StepState :=
      match s.hoses[n].beenFlowing, s.hoses[n].step with
      | true, some st => { st with handed := st.stage }
      | _, _ =>
        let stage := stageOf (s.profileOf n) 0
        { index := 0, stage, handed := stage, elapsed := 0, stall := 0 }
    let asking := [(0 : HoseId), 1, 2, 3].filter fun n =>
      s.pumps[k].claims[n] && decide (s.hoses[n].state = .priming) && decide ((entered n).stage = .full)
    ∃ t : State, exec (.spinUpExpiry k) s = .next t ∧
      t.pumps[k].spinUp = none ∧ t.pumps[k].demand = t.selectedDemand k ∧
      (claimed = true → t.pumps[k].state = .running ∧ t.pumps[k].claims = s.pumps[k].claims ∧
        (∀ n : HoseId, s.pumps[k].claims[n] = true → s.hoses[n].state = .priming →
          t.hoses[n] = { s.hoses[n] with
            state := .flowing, beenFlowing := true, pauseExpiry := none, step := some (entered n) }) ∧
        t.pumps[k] = { (asking.foldl (fun (p : Pump) n => p.request (s.maxFull k) n)
          { s.pumps[k] with spinUp := none, state := .running }) with
            demand := t.selectedDemand k }) ∧
      (claimed = false → 0 < s.pumpRunon →
        t.pumps[k].state = .runOn ∧ t.pumps[k].runOn = some (now / 1000000 + s.pumpRunon)) ∧
      (claimed = false → s.pumpRunon = 0 →
        t.pumps[k].state = .off ∧ t.pumps[k].runOn = none ∧ t.pumps[k].duty = 0) ∧
      (∀ n : HoseId, s.pumps[k].claims[n] = false ∨ s.hoses[n].state ≠ .priming →
        t.hoses[n] = s.hoses[n]) ∧
      (∀ j : CompId, j ≠ k → t.pumps[j] = s.pumps[j]) ∧
      t = { s with now, hoses := t.hoses, pumps := t.pumps }) ∧
  (∀ (k : CompId) (due : Nat) (s : State),
    (s.pumps[k].runOn = some due →
      ∃ t : State, exec (.runOnExpiry k) s = .next t ∧
        t = { s with now := max s.now (due * 1000000), pumps := s.pumps.set k t.pumps[k] } ∧
        t.pumps[k] = { s.pumps[k] with
          state := .off, claims := Vector.replicate 4 false, grants := Vector.replicate 4 false,
          queue := [], spinUp := none, runOn := none, demand := none, duty := 0 } ∧
        t.prun k = false ∧ t.ppwm k = false) ∧
    (s.pumps[k].pwmDue = some due →
      let duty : Nat := match s.pumps[k].demand with
        | none => 0
        | some .full => s.pwmPeriod * s.demandFull / 1000
        | some .slow => s.pwmPeriod * s.demandSlow / 1000
        | some .idle => s.pwmPeriod * s.demandIdle / 1000
      exec (.pwmPeriodStart k) s = .next
        { s with
          now := max s.now due
          pumps := s.pumps.set k { s.pumps[k] with
            duty, pwmStart := due, pwmDue := some (due + s.pwmPeriod) } })) ∧
  (∀ (k : CompId) (s : State),
    let p := s.pumps[k]
    let granted : Prop := ∃ n : HoseId, p.grants[n] = true
    let slow : Prop := ∃ n : HoseId, p.claims[n] = true ∧
      (s.hoses[n].state = .priming ∨ s.hoses[n].state = .flowing ∧ s.drivenStage n = .slow)
    (p.state = .off ∨ p.state = .fault → s.selectedDemand k = none) ∧
    (p.state = .starting → s.selectedDemand k = some .slow) ∧
    (p.state = .runOn → s.selectedDemand k = some .idle) ∧
    (p.state = .running → granted → s.selectedDemand k = some .full) ∧
    (p.state = .running → ¬ granted → slow → s.selectedDemand k = some .slow) ∧
    (p.state = .running → ¬ granted → ¬ slow → s.selectedDemand k = some .idle))

/-- R68, R69, R70, R82, R83: the evaluation of a FLOWING hose at a window: the pending preset is applied,
the window counted, and the hard stop comes before the step test; the chain of the step test ends the
delivery, or stays at a step whose stage is handed over, which asks the pump for a grant or gives one up.
The second clause gives the pump's answers: a request takes a grant when fewer than MAX_FULL are held and no
hose waits, and otherwise joins the tail with the grants as they are; a grant given up passes to the head of
the queue. The clauses after give the chain: a condition that is not met stays, one that is met goes to the
step named, which starts with fresh counts, or ends the profile, and after eight transitions the chain has
looped. -/
def Obligations.EvaluationFollowsProfile : Prop :=
  (∀ (n : HoseId) (rate : Nat) (st : StepState) (s : State), s.hoses[n].step = some st →
    let h : Hose := { s.hoses[n] with
      preset := (s.hoses[n].pendingPreset).or s.hoses[n].preset, pendingPreset := none }
    let u : State := { s with hoses := s.hoses.set n h }
    let k := s.hoseComp n
    let p := s.profileOf n
    let delivered : Int := truncDiv h.accum.net 1000
    let remaining : Int := (h.preset.getD 0 : Nat) - delivered
    let counted : StepState :=
      { st with
        elapsed := min 65535 (st.elapsed + 1)
        stall := match condOf p st.index with
          | .stall _ r => if rate < r then min 255 (st.stall + 1) else 0
          | _ => 0 }
    (remaining ≤ 0 → s.evaluateHose n rate = u.enterSettling n .presetReached) ∧
    (0 < remaining →
      match chain p delivered remaining 8 counted with
      | .ended => s.evaluateHose n rate = u.enterSettling n .profileEnd
      | .looped => s.evaluateHose n rate = u.enterSettling n .profileLoop
      | .stays x =>
        ∃ t : State, s.evaluateHose n rate = t ∧ t = { u with hoses := t.hoses, pumps := t.pumps } ∧
          t.hoses = s.hoses.set n { h with step := some { x with handed := x.stage } } ∧
          t.pumps = s.pumps.set k { (if x.handed ≠ .full ∧ x.stage = .full then
              (s.pumpOf n).request (s.maxFull k) n
            else if x.handed = .full ∧ x.stage ≠ .full then (s.pumpOf n).giveUp n
            else s.pumpOf n) with demand := t.selectedDemand k })) ∧
  (∀ (maxFull : Nat) (n : HoseId) (p : Pump),
    let held := [(0 : HoseId), 1, 2, 3].countP fun m => p.grants[m]
    (held < maxFull → p.queue = [] →
      p.request maxFull n = { p with grants := p.grants.set n true }) ∧
    (maxFull ≤ held ∨ p.queue ≠ [] → p.request maxFull n = { p with queue := p.queue ++ [n] }) ∧
    (p.grants[n] = false → p.giveUp n = { p with queue := p.queue.filter fun m => m ≠ n }) ∧
    (p.grants[n] = true → p.queue = [] →
      p.giveUp n = { p with grants := p.grants.set n false }) ∧
    (∀ (m : HoseId) (rest : List HoseId), p.grants[n] = true → p.queue = m :: rest →
      p.giveUp n = { p with grants := (p.grants.set n false).set m true, queue := rest })) ∧
  (∀ (p : List ProfileStep) (delivered remaining : Int) (st : StepState) (fuel : Nat),
    let met : Prop := match condOf p st.index with
      | .deliveredAtLeast v => v ≤ delivered
      | .remainingAtMost v => remaining ≤ v
      | .elapsed n => n ≤ st.elapsed
      | .stall n _ => n ≤ st.stall
      | .never => False
    (¬ met → chain p delivered remaining fuel st = .stays st) ∧
    (met → chain p delivered remaining 0 st = .looped) ∧
    (met → nextOf p st.index = none → chain p delivered remaining (fuel + 1) st = .ended) ∧
    (∀ i : Nat, met → nextOf p st.index = some i →
      chain p delivered remaining (fuel + 1) st =
        chain p delivered remaining fuel
          { index := i, stage := stageOf p i, handed := st.handed, elapsed := 0, stall := 0 })) ∧
  (∀ (p : List ProfileStep) (i : Nat) (x : ProfileStep), p[i]? = some x →
    condOf p i = x.cond ∧ stageOf p i = x.stage ∧ nextOf p i = x.next)

/-! ## Meter channels and their arithmetic -/

/-- R88, R89: an observation of the phase lines counts a step forward or backward, counts a change of both
lines as a phase error, and saturates the window at ±32,767, where the count stays. That the clock does not
run back is the model's choice (log entry 1). -/
def Obligations.ObservationCounts : Prop :=
  ∀ (m : MeterId) (due : Nat) (a b : Bool) (s : State), s.meters[m].obsDue = some due →
    let c := s.meters[m]
    let next (p : Bool × Bool) : Bool × Bool := (!p.2, p.1)
    let u (x : Meter) : Prop := exec (.phaseLineObservation m a b) s = .next
      { s with
        now := max s.now due
        pins := { s.pins with phase := s.pins.phase.set m (a, b) }
        meters := s.meters.set m { x with levels := some (a, b), obsDue := some (due + 2) } }
    let by_ (d : Int) : Meter :=
      if c.sat then c else { c with count := c.count + d, sat := decide ((c.count + d).natAbs = 32767) }
    (c.levels = none → u c) ∧
    ∀ old : Bool × Bool, c.levels = some old →
      ((a, b) = old → u c) ∧
      ((a, b) = next old → u (by_ 1)) ∧
      (next (a, b) = old → u (by_ (-1))) ∧
      ((a, b) = (!old.1, !old.2) → u { c with phaseErr := min 65535 (c.phaseErr + 1) })

/-- R94: the meter factor of a window is taken from the channel's curve by the window's rate: that of the
first point at or below its rate, that of the last at or above its rate, and between two points the linear
interpolation truncated toward zero, which lies between their factors, both ends included, and is an inner
point's own factor at its rate. A window of count 0 has rate 0. Factors in 1 to 16,777,215 give a factor in
that range. The last clauses say the same of a curve as a list of points. -/
def Obligations.MeterFactorFollowsCurve : Prop :=
  (∀ (m : MeterId) (s : State),
    (s.windowOf m).mf = (s.metro.meters[m] : MeterCal).factor (s.windowOf m).rate ∧
    (s.meters[m].count = 0 → (s.windowOf m).rate = 0)) ∧
  (∀ (c : MeterCal) (r : Nat), 2 ≤ c.count → c.count ≤ 6 →
    (∀ p q : Fin 6, p < q → q.val < c.count → c.points[p].1 < c.points[q].1) →
    let mf := c.factor r
    (r ≤ (c.points[(0 : Fin 6)]).1 → mf = (c.points[(0 : Fin 6)]).2) ∧
    (∀ p : Fin 6, p.val + 1 = c.count → c.points[p].1 ≤ r → mf = c.points[p].2) ∧
    (∀ p q : Fin 6, q.val = p.val + 1 → q.val < c.count → c.points[p].1 ≤ r → r < c.points[q].1 →
      mf = c.points[p].2 + Int.tdiv (((c.points[q].2 : Int) - c.points[p].2) * (r - c.points[p].1))
        (c.points[q].1 - c.points[p].1) ∧
      min (c.points[p].2 : Int) c.points[q].2 ≤ mf ∧ mf ≤ max (c.points[p].2 : Int) c.points[q].2 ∧
      (r = c.points[p].1 → mf = c.points[p].2)) ∧
    ((∀ p : Fin 6, p.val < c.count → 1 ≤ c.points[p].2 ∧ c.points[p].2 ≤ 16777215) →
      1 ≤ mf ∧ mf ≤ 16777215)) ∧
  (∀ (p : Nat × Nat) (l : List (Nat × Nat)) (x : Nat), x ≤ p.1 → curveAt (p :: l) x = p.2) ∧
  (∀ (l : List (Nat × Nat)) (p : Nat × Nat) (x : Nat),
    (∀ q ∈ l, q.1 < p.1) → p.1 ≤ x → curveAt (l ++ [p]) x = p.2) ∧
  (∀ (l r : List (Nat × Nat)) (p q : Nat × Nat) (x : Nat),
    ascending ((l ++ p :: q :: r).map Prod.fst) = true → p.1 ≤ x → x < q.1 →
    curveAt (l ++ p :: q :: r) x =
      p.2 + Int.tdiv (((q.2 : Int) - p.2) * (x - p.1)) (q.1 - p.1))

/-- R90, R93, R96 to R99, R128: a stray window of a hose meter moves its whole millilitres to the book with
what follows a change of the book, keeps the residue, opens or quiets the episode, and starts the next
window; STRAY_FLOW is the last event posted, after RESTOCK_STATE (the model's choice, log entry 31). An
ARMED hose takes its pending preset there (log entry 9). A stray window of MR has its rate and its episode
alone. Without its timer a window expiry does nothing (log entry 3). That the clock does not run back is the
model's choice (log entry 1). The last clauses give the rate of a window, the gross and net steps, which
carry their remainders without loss, and the volume correction factor (R93, R95, R105, R106). -/
def Obligations.StrayWindowMovesToBook : Prop :=
  (∀ (n : HoseId) (due : Nat) (s : State), s.meters[meterOf n].due = some due →
    s.meters[meterOf n].attach = .stray →
    let c := s.meters[meterOf n]
    ∃ t : State, exec (.windowExpiry (meterOf n)) s = .next t ∧
      t.now = max s.now due ∧ AccountsStray n { s with now := max s.now due } t ∧
      (c.count ≠ 0 → c.stray.episode = false → s.port.mask.getLsbD 4 = false →
        s.port.events.length ≤ 28 →
        t.port.events.getLast? = some
          { kind := .strayFlow, subject := .hose n, value := c.count, postedAt := t.now / 1000000 }) ∧
      t.meters = s.meters.set (meterOf n) { c with
        count := 0, sat := false, phaseErr := 0, due := some (due + 250000)
        lastRate := t.meters[meterOf n].lastRate, stray := t.meters[meterOf n].stray } ∧
      t.hoses = (if s.hoses[n].state = .armed then
        s.hoses.set n { s.hoses[n] with
          preset := (s.hoses[n].pendingPreset).or s.hoses[n].preset, pendingPreset := none }
        else s.hoses) ∧
      t = { s with
        now := t.now, hoses := t.hoses, meters := t.meters
        stock := t.stock, link := t.link, port := t.port }) ∧
  (∀ (due : Nat) (s : State), s.meters[meterMR].due = some due → s.meters[meterMR].attach = .stray →
    let c := s.meters[meterMR]
    let opens : Bool := !c.stray.episode && decide (c.count ≠ 0)
    let now := max s.now due
    let quiet := if c.stray.episode = true ∧ c.count = 0 then c.stray.quiet + 1
      else if c.count = 0 then c.stray.quiet else 0
    let episode := if c.count = 0 then c.stray.episode && decide (quiet < s.settleQuiet) else true
    let u : State := { s with
      now
      meters := s.meters.set meterMR { c with
        count := 0, sat := false, phaseErr := 0, due := some (due + 250000)
        lastRate := rateOf c.count s.metro.meters[meterMR].nf
        stray := { c.stray with episode, quiet } } }
    exec (.windowExpiry meterMR) s = .next (if opens then u.post .receiptStray .none c.count else u)) ∧
  (∀ (m : MeterId) (s : State), s.meters[m].due = none → exec (.windowExpiry m) s = .next s) ∧
  (∀ (c : Int) (nf : Nat), rateOf c nf = min 65535 (c.natAbs * nf * 240 / 100000)) ∧
  (∀ c mf gRem : Int,
    256 * (grossStep c mf gRem).whole + (grossStep c mf gRem).rem = c * mf + gRem ∧
    0 ≤ (grossStep c mf gRem).rem ∧ (grossStep c mf gRem).rem < 256) ∧
  (∀ dg vcf nRem : Int,
    1000000 * (netStep dg vcf nRem).whole + (netStep dg vcf nRem).rem = dg * vcf + nRem ∧
    0 ≤ (netStep dg vcf nRem).rem ∧ (netStep dg vcf nRem).rem < 1000000) ∧
  (∀ alpha : Nat, vcfOf alpha .none = 1000000) ∧
  (∀ (alpha : Nat) (t e : Int), 100 * e - 50 < alpha * (t - 1500) → alpha * (t - 1500) < 100 * e + 50 →
    vcfOf alpha (.good t) = 1000000 - e ∧ vcfOf alpha (.held t) = 1000000 - e) ∧
  (∀ (alpha : Nat) (t e : Int), 0 < e → alpha * (t - 1500) = 100 * e - 50 →
    vcfOf alpha (.good t) = 1000000 - e ∧ vcfOf alpha (.good (3000 - t)) = 1000000 + e)

/-- R46, R49, R51, R95, R106, R107, R109: a delivery window takes its count into the context's accumulators,
flags and phase error count; a hose not yet SETTLING goes there for a saturated window, a saturated
accumulator or more than three phase errors, in that order. Otherwise the pending preset is applied after
the arithmetic (the model's reading, log entry 9), and a hose with nothing remaining ends with
PRESET_REACHED. Each end is the entry to SETTLING with all it gives up (R51, R78, R83), where GrantInv
holds; the window itself is not counted (R52, log entry 8). A PRIMING or PAUSED hose that nothing ends keeps
everything else, and its pump stays. The window of a FLOWING hose that no fault ends is evaluated by its
profile (R68): its pumps and its context, journal apart, are those the evaluation leaves. That the clock
does not run back is the model's choice (log entry 1). The last clause gives a window's sums: an accumulator
that passes its bound holds the bound and stays there, and a window newly saturates when one that was not
saturated is (R107, R109). -/
def Obligations.DeliveryWindowAccounts : Prop :=
  (∀ (n : HoseId) (due : Nat) (a : Accum) (s : State), s.meters[meterOf n].due = some due →
    s.meters[meterOf n].attach = .delivery → s.hoses[n].acc = some a →
    (s.hoses[n].state = .priming ∨ s.hoses[n].state = .flowing ∨ s.hoses[n].state = .paused) →
    let c := s.meters[meterOf n]
    let k := s.hoseComp n
    let rate := rateOf c.count s.metro.meters[meterOf n].nf
    let gross := grossStep c.count (curveAt s.metro.meters[meterOf n].curve rate) a.gRem
    let net := netStep gross.whole (vcfOf (s.alphaOf k) (s.compTemp k)) a.nRem
    let b := a.window gross net (s.compTemp k).used
    let errors := min 65535 (s.hoses[n].phaseErrors + c.phaseErr)
    let flags : DFlags :=
      { overspeed := s.hoses[n].flags.overspeed || c.sat
        overflow := s.hoses[n].flags.overflow || a.newlySaturated b
        tempHeld := s.hoses[n].flags.tempHeld ||
          (decide (gross.whole ≠ 0) && (s.compTemp k).statusCode == 2)
        uncompensated := s.hoses[n].flags.uncompensated ||
          (decide (gross.whole ≠ 0) && (s.compTemp k).statusCode == 0) }
    let preset := (s.hoses[n].pendingPreset).or s.hoses[n].preset
    let counted : Hose := { s.hoses[n] with acc := some b, phaseErrors := errors, flags }
    let applied : Hose := { counted with preset, pendingPreset := none }
    let accounted (h : Hose) : State := { s with
      now := max s.now due
      hoses := s.hoses.set n h
      meters := s.meters.set (meterOf n) { c with lastRate := rate } }
    ∃ t : State, exec (.windowExpiry (meterOf n)) s = .next t ∧
      t.now = max s.now due ∧
      t.hoses[n].acc = some b ∧ t.hoses[n].phaseErrors = errors ∧
      t.hoses[n].flags = flags ∧
      (let ends (h : Hose) (cause : EndCause) : Prop :=
         t.hoses[n].state = .settling ∧ t.hoses[n].endCause = some cause ∧
         (GrantInv s → EntersSettling n cause (accounted h) { t with meters := (accounted h).meters })
       let waits : Prop := s.hoses[n].state = .priming ∨ s.hoses[n].state = .paused
       (c.sat = true → ends counted .overspeed) ∧
       (c.sat = false → a.newlySaturated b = true → ends counted .overflow) ∧
       (c.sat = false → a.newlySaturated b = false → 3 < errors → ends counted .meterFault) ∧
       (c.sat = false → a.newlySaturated b = false → errors ≤ 3 →
         t.hoses[n].preset = preset ∧ t.hoses[n].pendingPreset = none ∧
         ((preset.getD 0 : Nat) ≤ truncDiv b.net 1000 →
           (s.hoses[n].state = .flowing → s.hoses[n].step.isSome = true) →
           ends applied .presetReached) ∧
         (truncDiv b.net 1000 < (preset.getD 0 : Nat) → waits →
           t.hoses[n] = { applied with settleFresh := false, journal := t.hoses[n].journal } ∧
           t.pumps = s.pumps))) ∧
      (c.sat = false → a.newlySaturated b = false → errors ≤ 3 → s.hoses[n].state = .flowing →
        s.hoses[n].step.isSome = true →
        let evaluated := State.evaluateHose n rate (accounted counted)
        t.pumps = evaluated.pumps ∧
        t.hoses[n] = { evaluated.hoses[n] with
          settleFresh := false, journal := t.hoses[n].journal }) ∧
      t.hoses[n].journal = some (t.hoses[n].toJournal n k) ∧
      t.meters = s.meters.set (meterOf n) { c with
        count := 0, sat := false, phaseErr := 0, lastRate := rate, due := some (due + 250000) } ∧
      (∀ m : HoseId, m ≠ n → t.hoses[m] = s.hoses[m]) ∧
      (∀ j : CompId, j ≠ k → t.pumps[j] = s.pumps[j]) ∧
      t = { s with now := t.now, hoses := t.hoses, pumps := t.pumps, meters := t.meters }) ∧
  (∀ (a : Accum) (gross net : Step) (t : Int),
    let b := a.window gross net t
    let adds (bound old d new : Int) (was is : Bool) : Prop :=
      (was = true → new = old ∧ is = true) ∧
      (was = false → bound < old + d → new = bound ∧ is = true) ∧
      (was = false → old + d < -bound → new = -bound ∧ is = true) ∧
      (was = false → -bound ≤ old + d → old + d ≤ bound → new = old + d ∧ is = false)
    b.gRem = gross.rem ∧ b.nRem = net.rem ∧
    adds (2 ^ 47 - 1) a.gross gross.whole b.gross a.satGross b.satGross ∧
    adds (2 ^ 47 - 1) a.net net.whole b.net a.satNet b.satNet ∧
    (0 < gross.whole →
      adds (2 ^ 63 - 1) a.sumG gross.whole b.sumG a.satG b.satG ∧
      adds (2 ^ 79 - 1) a.sumGT (gross.whole * t) b.sumGT a.satGT b.satGT) ∧
    (gross.whole ≤ 0 → b.sumG = a.sumG ∧ b.satG = a.satG ∧ b.sumGT = a.sumGT ∧ b.satGT = a.satGT) ∧
    (a.newlySaturated b = true ↔
      a.satGross = false ∧ b.satGross = true ∨ a.satNet = false ∧ b.satNet = true ∨
      a.satGT = false ∧ b.satGT = true ∨ a.satG = false ∧ b.satG = true))

/-- R52, R53, R110, R111, R118, R119, R128, R138, R142: a settling window that ends settling closes the
delivery in one event: its record is appended at the tail and its reservation consumed, the entry of its
ring ID credited and the subject asked for, the book debited by the record's net, held at its bound, with
the restock evaluation and the high-level test that follow (in this order: the model's choice, log entry
31), the journal cleared, the meter detached, DELIVERY_CLOSED posted with the record's sequence, and the
hose comes to rest; another settling window is counted. The second clause is the window during which
SETTLING was entered: it is accounted and not counted (R52; which entries it covers is the model's reading,
log entry 8). The third gives the window's figures and the context after its arithmetic (R46, R93 to R95,
R106, R107), and the fourth the record's figures, the charge from the bounded net (log entry 28), with the
fields of the context it is formed from. The last clauses give the 48 bytes of a record with its CRC (R117,
R121; the bytes of a mean that does not fit are a free value, log entry 13), the bytes of a number, most
significant first, and the codes of the end causes. That the clock does not run back is the model's choice
(log entry 1). -/
def Obligations.SettlingClosesWithRecord : Prop :=
  (∀ (n : HoseId) (due : Nat) (s : State), s.meters[meterOf n].due = some due →
    s.meters[meterOf n].attach = .delivery → s.hoses[n].state = .settling →
    s.hoses[n].settleFresh = false →
    let c := s.meters[meterOf n]
    let k := s.hoseComp n
    let w := s.windowOf (meterOf n)
    let h := (s.windowContext n w).applyPending
    let quiet := if c.count = 0 then s.hoses[n].quietRun + 1 else 0
    let r := s.deliveryRecord (h.delivery n k)
    ∃ t : State, exec (.windowExpiry (meterOf n)) s = .next t ∧
      t.now = max s.now due ∧
      t.meters[meterOf n].lastRate = w.rate ∧ t.meters[meterOf n].count = 0 ∧
      t.meters[meterOf n].due = some (due + 250000) ∧
      (∀ m : HoseId, m ≠ n → t.hoses[m] = s.hoses[m]) ∧ t.pumps = s.pumps ∧
      (quiet < s.settleQuiet → s.hoses[n].settleCount + 1 < s.settleMax →
        t.hoses[n] = { h with
          settleCount := s.hoses[n].settleCount + 1, quietRun := quiet
          journal := some (h.toJournal n k) } ∧
        t.meters[meterOf n].attach = .delivery ∧
        t.log = s.log ∧ t.table = s.table ∧ t.stock = s.stock ∧ t.link = s.link ∧ t.port = s.port) ∧
      (s.settleQuiet ≤ quiet ∨ s.settleMax ≤ s.hoses[n].settleCount + 1 →
        t.hoses[n] = Hose.bare (if s.pins.seat[n] then .finished else .idle) none ∧
        t.meters[meterOf n].attach = .stray ∧
        t.log.slotAt s.log.tail =
          { stored := true, bytes := r.bytes s.log.seq s.table.day s.free } ∧
        (∀ i : Nat, i ≠ s.log.tail → t.log.slotAt i = s.log.slotAt i) ∧
        t.log = { s.log with
          slots := t.log.slots, count := s.log.count + 1, indexCrc := t.log.indexCrc
          seq := s.log.seq + 1, seqCrc := t.log.seqCrc
          reserved := s.log.reserved.set (holderOf n) false } ∧
        (∀ (slot : Nat) (e : Entry), s.entryOfRing h.identity.ring = some (slot, e) →
          t.entryAt slot = some (Entry.withCrc { e with
            tally := e.tally.set s.ownIndex
              (min 4294967295 (e.tally[s.ownIndex] + r.net.toNat)) }) ∧
          (∀ j : Nat, j ≠ slot → t.entryAt j = s.entryAt j) ∧
          (s.link.queue.length < 16 → Subject.machine h.identity.ring ∈ t.link.queue)) ∧
        (s.entryOfRing h.identity.ring = none → t.table = s.table) ∧
        t.stock.books = s.stock.books.set k
          (bookOf k (max (-2147483647) (min 2147483647 (s.stock.books[k].value - r.net)))
            s.stock.books[k].isSet) ∧
        (s.port.mask.getLsbD 3 = false → s.port.events.length ≤ 27 →
          t.port.events.getLast? = some
            { kind := .deliveryClosed, subject := .hose n, value := s.log.seq.toNat
              postedAt := t.now / 1000000 }) ∧
        (let u : State := { s with now := max s.now due, free := s.free + 1 }
         let asked := if (s.entryOfRing h.identity.ring).isSome then u.ask (.machine h.identity.ring) else u
         let v := asked.rebooked k (s.stock.books[k].value - r.net)
         t.stock = v.stock ∧ t.link = v.link ∧ t.free = s.free + 1 ∧
         t.port = (v.post .deliveryClosed (.hose n) s.log.seq.toNat).port)) ∧
      (∀ m : MeterId, m ≠ meterOf n → t.meters[m] = s.meters[m]) ∧
      t = { s with
        now := t.now, hoses := t.hoses, meters := t.meters, log := t.log, table := t.table
        stock := t.stock, link := t.link, port := t.port, free := t.free }) ∧
  (∀ (n : HoseId) (due : Nat) (s : State), s.meters[meterOf n].due = some due →
    s.meters[meterOf n].attach = .delivery → s.hoses[n].state = .settling →
    s.hoses[n].settleFresh = true →
    let w := s.windowOf (meterOf n)
    let h := (s.windowContext n w).applyPending
    exec (.windowExpiry (meterOf n)) s = .next
      { s with
        now := max s.now due
        hoses := s.hoses.set n { h with
          settleCount := s.hoses[n].settleCount, quietRun := s.hoses[n].quietRun
          settleFresh := false, journal := some (h.toJournal n (s.hoseComp n)) }
        meters := s.meters.set (meterOf n) { s.meters[meterOf n] with
          lastRate := w.rate, count := 0, sat := false, phaseErr := 0, due := some (due + 250000) } }) ∧
  (∀ (n : HoseId) (s : State),
    let c := s.meters[meterOf n]
    let k := s.hoseComp n
    let a := s.hoses[n].acc.getD Accum.zero
    let w := s.windowOf (meterOf n)
    let rate := rateOf c.count s.metro.meters[meterOf n].nf
    let mf := curveAt s.metro.meters[meterOf n].curve rate
    let gross := grossStep c.count mf a.gRem
    let net := netStep gross.whole (vcfOf (s.alphaOf k) (s.compTemp k)) a.nRem
    let b := a.window gross net (s.compTemp k).used
    let h := s.windowContext n w
    w = { count := c.count, sat := c.sat, phaseErr := c.phaseErr, rate, mf } ∧
    h = { s.hoses[n] with
      acc := some b
      phaseErrors := min 65535 (s.hoses[n].phaseErrors + c.phaseErr)
      flags :=
        { overspeed := s.hoses[n].flags.overspeed || c.sat
          overflow := s.hoses[n].flags.overflow || a.newlySaturated b
          tempHeld := s.hoses[n].flags.tempHeld ||
            (decide (gross.whole ≠ 0) && (s.compTemp k).statusCode == 2)
          uncompensated := s.hoses[n].flags.uncompensated ||
            (decide (gross.whole ≠ 0) && (s.compTemp k).statusCode == 0) } } ∧
    h.applyPending = { h with
      preset := (s.hoses[n].pendingPreset).or s.hoses[n].preset, pendingPreset := none }) ∧
  (∀ (d : Delivery) (rate sur : Int) (t : Temperature), 0 ≤ rate → -1000 ≤ sur →
    let r := d.record rate sur t
    let net := max (-2147483647) (min 2147483647 (truncDiv d.acc.net 1000))
    let charge := floorDiv (max 0 net * rate * (1000 + sur) + 5000000) 10000000
    r.kind = 1 ∧ r.net = net ∧
    r.gross = max (-2147483647) (min 2147483647 (truncDiv d.acc.gross 1000)) ∧
    (r.overrun : Int) = max 0 (net - d.preset) ∧
    (r.charge : Int) = min 4294967295 charge ∧
    (0 < d.acc.sumG → r.mean = roundAway d.acc.sumGT d.acc.sumG) ∧
    (d.acc.sumG ≤ 0 → r.mean = t.used) ∧
    (d.extra = 0 ∨ d.extra = flagInterrupted ∨ d.extra = flagInterrupted ||| flagJournalLost →
      r.flags.getLsbD 0 = decide (net < 0) ∧
      r.flags.getLsbD 1 = (d.flags.uncompensated || (decide (d.acc.sumG ≤ 0) && t == .none)) ∧
      r.flags.getLsbD 2 = d.flags.tempHeld ∧ r.flags.getLsbD 3 = d.flags.overspeed ∧
      r.flags.getLsbD 4 = (d.flags.overflow || decide (net ≠ truncDiv d.acc.net 1000) ||
        decide (r.gross ≠ truncDiv d.acc.gross 1000)) ∧
      r.flags.getLsbD 5 = decide (4294967295 < charge) ∧
      r.flags.getLsbD 6 = decide (d.extra ≠ 0) ∧
      r.flags.getLsbD 7 = decide (d.extra = flagInterrupted ||| flagJournalLost) ∧
      r.flags.toNat < 256) ∧
    r.comp = BitVec.ofNat 8 d.comp.val ∧ r.method = d.method ∧
    r.hose = d.hose ∧ r.ring = d.ring ∧ r.number = d.number ∧ r.costCentre = d.costCentre ∧
    r.preset = d.preset ∧ r.endCause = d.endCause ∧ r.phaseErrors = min 65535 d.phaseErrors) ∧
  (∀ (n : HoseId) (i : Ident) (cause : EndCause) (h : Hose) (s : State), h.ident = some i →
    h.endCause = some cause →
    let k := s.hoseComp n
    let d := h.delivery n k
    d = { hose := BitVec.ofNat 8 n.val, comp := k, method := BitVec.ofNat 8 i.method.code, ring := i.ring
          number := i.number, costCentre := i.costCentre, preset := h.preset.getD 0
          acc := h.acc.getD Accum.zero, flags := h.flags, phaseErrors := h.phaseErrors
          endCause := BitVec.ofNat 8 cause.code, extra := 0 } ∧
    s.deliveryRecord d = d.record (s.rate k) (s.surcharge i.costCentre) (s.compTemp k)) ∧
  (∀ (seq : BitVec 32) (day : BitVec 16) (free : Nat) (r : Record), ∃ mean : List Byte,
    mean.length = 2 ∧
    (-32768 ≤ r.mean → r.mean ≤ 32767 → mean = beBytes 2 (r.mean % 65536).toNat) ∧
    let body := beBytes 4 seq.toNat ++ [BitVec.ofNat 8 r.kind] ++ beBytes 2 day.toNat ++
      [r.hose, r.comp, r.method] ++ beBytes 3 r.ring.toNat ++ beBytes 2 r.number.toNat ++
      [r.costCentre] ++ beBytes 4 r.preset ++ beBytes 4 (r.gross % 4294967296).toNat ++
      beBytes 4 (r.net % 4294967296).toNat ++ beBytes 4 r.overrun ++ mean ++ beBytes 4 r.charge ++
      [r.endCause] ++ beBytes 2 r.flags.toNat ++ beBytes 2 r.phaseErrors ++ [0, 0, 0]
    body.length = 46 ∧ r.bytes seq day free = body ++ beBytes 2 (crc16 body).toNat) ∧
  (∀ n v : Nat, (beBytes n v).length = n ∧
    ∀ i < n, (beBytes n v)[i]? = some (BitVec.ofNat 8 (v / 256 ^ (n - 1 - i)))) ∧
  [EndCause.profileEnd, .presetReached, .hostStop, .unseated, .pauseTimeout, .estop, .pumpFault,
    .meterFault, .overspeed, .overflow, .metrology, .profileLoop, .interrupted, .hostEnd,
    .highLevel].map EndCause.code = [1, 2, 3, 4, 5, 6, 7, 8, 9, 10, 11, 12, 13, 14, 15]

/-! ## The delivery log -/

/-- R122, R123, R172: READ_RECORD returns its half of the view of the record at position k with the counts
(the 48 bytes as stored, but for bit 8 of the flags, which the scrub's mark sets), or EMPTY with the counts
in the same places (the model's choice, log entry 29), and changes nothing but the exchange. In drain mode
it first releases the record it returned last if that is still the oldest, then returns part 0 of the oldest
and remembers it, or EMPTY. A parameter out of range is BAD_PARAM, and so is a drain byte other than 0 and 1
(log entry 19). The ill-formed drain byte 1 of a READ_RECORD without drain mode is taken with these. The
zeros beyond the results of an OK reply are the model's choice (log entry 47). -/
def Obligations.RecordReadsReturnHalves : Prop :=
  (∀ (tag : Byte) (k : BitVec 32) (s : State), CrcInv s →
    let counts : List Byte := beBytes 2 s.log.count ++ [BitVec.ofNat 8 s.log.reservedCount]
    let b := s.log.viewOf (s.log.position k.toNat)
    (k.toNat ≤ 1023 → k.toNat < s.log.count →
      exec (.readRecord tag k 0 0) s = .next (s.beginExchange.holding
        (replyBytes 0x30 tag 0 (b.take 24 ++ counts))) ∧
      exec (.readRecord tag k 1 0) s = .next (s.beginExchange.holding
        (replyBytes 0x30 tag 0 (b.take 4 ++ (b.drop 24).take 19 ++ counts ++ b.drop 46)))) ∧
    (k.toNat ≤ 1023 → s.log.count ≤ k.toNat →
      exec (.readRecord tag k 0 0) s = .next (s.beginExchange.holding
        (replyBytes 0x30 tag 20 (List.replicate 24 0 ++ counts))) ∧
      exec (.readRecord tag k 1 0) s = .next (s.beginExchange.holding
        (replyBytes 0x30 tag 20 (List.replicate 23 0 ++ counts ++ [0, 0])))) ∧
    (∀ part drain : Byte, 1023 < k.toNat ∨ 1 < part.toNat ∨ drain ≠ 0 →
      exec (.readRecord tag k part drain) s = .next (s.refusing 0x30 tag .badParam)) ∧
    (s.log.slotAt (s.log.position k.toNat)).bytes.take 39 = b.take 39 ∧
    (b.getD 39 0).getLsbD 0 = ((((s.log.slotAt (s.log.position k.toNat)).bytes.getD 39 0).getLsbD 0) ||
      decide (s.log.position k.toNat ∈ s.log.corrupt)) ∧
    (∀ i < 8, 1 ≤ i → (b.getD 39 0).getLsbD i =
      ((s.log.slotAt (s.log.position k.toNat)).bytes.getD 39 0).getLsbD i) ∧
    b.drop 40 = (s.log.slotAt (s.log.position k.toNat)).bytes.drop 40 ∧ b.length = 48) ∧
  (∀ (tag : Byte) (k : BitVec 32) (part : Byte) (s : State), CrcInv s →
    let seqAt (l : Log) := recordSeq (l.slotAt l.oldest).bytes
    let last : Prop := 0 < s.log.count ∧ ∃ q : BitVec 32, s.log.drain = some (s.log.oldest, q) ∧
      seqAt s.log = q.toNat
    (k ≠ 0 ∨ part ≠ 0 →
      exec (.readRecordDrain tag k part) s = .next (s.refusing 0x30 tag .badParam)) ∧
    ∀ l : Log, (last → l = s.log.release 1) → (¬ last → l = s.log) →
      let counts : List Byte := beBytes 2 l.count ++ [BitVec.ofNat 8 l.reservedCount]
      (0 < l.count → exec (.readRecordDrain tag 0 0) s = .next
        (({ s.beginExchange with
            log := { l with drain := some (l.oldest, BitVec.ofNat 32 (seqAt l)) } }).holding
          (replyBytes 0x30 tag 0 ((l.viewOf l.oldest).take 24 ++ counts)))) ∧
      (l.count = 0 → exec (.readRecordDrain tag 0 0) s = .next
        (({ s.beginExchange with log := { l with drain := none } }).holding
          (replyBytes 0x30 tag 20 (List.replicate 24 0 ++ counts)))))

/-- R124: RELEASE frees the lesser of n and the stored count of the oldest records: their markers become
EMPTY with the contents left, their corrupt marks go, the oldest slot and the stored count move, the index
CRC is rewritten, and the drain memory stays. The number released takes 4 bytes of the answer (R172). The
entry of RELEASE gives n as 0 to 65535 and its field has 4 bytes: an n above 65535 is taken as the others
(log entry 20), and the bytes under the index CRC are the model's layout (log entry 15). The zeros beyond
the results of an OK reply are the model's choice (log entry 47). -/
def Obligations.ReleaseFreesOldest : Prop :=
  ∀ (tag : Byte) (n : BitVec 32) (s : State), s.log.count ≤ 1024 → s.log.oldest < 1024 →
    let m := min n.toNat s.log.count
    ∃ log : Log, exec (.release tag n) s = .next
        (({ s.beginExchange with log }).holding
          (replyBytes 0x31 tag 0 (beBytes 4 m ++ beBytes 2 (s.log.count - m)))) ∧
      (∀ j < m, log.slotAt (s.log.position j) =
        { s.log.slotAt (s.log.position j) with stored := false }) ∧
      (∀ i, (∀ j < m, i ≠ s.log.position j) → log.slotAt i = s.log.slotAt i) ∧
      (∀ i, i ∈ log.corrupt ↔ i ∈ s.log.corrupt ∧ ∀ j < m, i ≠ s.log.position j) ∧
      log.oldest = (s.log.oldest + m) % 1024 ∧ log.count = s.log.count - m ∧
      log.indexCrc = crc16 (beBytes 2 log.oldest ++ beBytes 2 log.count) ∧
      log.drain = s.log.drain ∧ log.seq = s.log.seq ∧ log.seqCrc = s.log.seqCrc ∧
      log.reserved = s.log.reserved ∧ log.scrub = s.log.scrub ∧ log.scrubDue = s.log.scrubDue

/-- R125: a scrub expiry chooses the record after the last one checked, or the oldest, remembers it, and
marks it with RECORD_CORRUPT posted when its contents fail and it bears no mark; the next is due 5 s later.
That the clock does not run back is the model's choice (log entry 1). -/
def Obligations.ScrubMarksFailingRecord : Prop :=
  ∀ (due : Nat) (s : State), s.log.scrubDue = some due →
    let u : State := { s with
      now := max s.now due, log := { s.log with scrubDue := some (due + 5000000) } }
    (s.log.count = 0 → exec .scrubExpiry s = .next u) ∧
    ∀ slot : Nat, 0 < s.log.count →
      (∀ last, s.log.scrub = some last → (s.log.slotAt last).stored = true →
        last ≠ s.log.position (s.log.count - 1) → slot = (last + 1) % 1024) →
      ((∀ last, s.log.scrub = some last → (s.log.slotAt last).stored = false ∨
        last = s.log.position (s.log.count - 1)) → slot = s.log.oldest) →
      let v : State := { u with log := { u.log with scrub := some slot } }
      (recordPasses (s.log.slotAt slot).bytes = true ∨ slot ∈ s.log.corrupt →
        exec .scrubExpiry s = .next v) ∧
      (recordPasses (s.log.slotAt slot).bytes = false → slot ∉ s.log.corrupt →
        ∃ corrupt, exec .scrubExpiry s = .next
            (State.post .recordCorrupt
              (.record (BitVec.ofNat 32 (recordSeq (s.log.slotAt slot).bytes))) slot
              { v with log := { v.log with corrupt } }) ∧
          ∀ i, i ∈ corrupt ↔ i = slot ∨ i ∈ s.log.corrupt)

/-! ## The stock keeper -/

/-- R130, R144: SET_STOCK appends an ADJUST record of the book before and after, sets the book, removes a GO
hold expiry and recomputes the restock state as WANT or NORMAL; PARKED, the levels with their history, the
session with its journal and the yield flag stay. When the restock state changed, the STOCK subject is asked
for and RESTOCK_STATE posted with the new state, and nothing is when it did not; its refusals come in the
order of the rule. The zeros beyond the results of an OK reply are the model's choice (log entry 47). -/
def Obligations.SetStockReplacesBook : Prop :=
  ∀ (tag : Byte) (k : CompId) (book : BitVec 32) (s : State), s.isSealed = true →
    let set (i : Byte) := exec (.setStock tag i book) s
    let k8 : Byte := BitVec.ofNat 8 k.val
    (∀ i : Byte, 2 ≤ i.toNat ∨ 2147483647 < book.toNat →
      set i = .next (s.refusing 0x40 tag .badParam)) ∧
    (book.toNat ≤ 2147483647 → s.stock.session.isSome = true →
      set k8 = .next (s.refusing 0x40 tag .wrongState)) ∧
    (book.toNat ≤ 2147483647 → s.stock.session = none → s.log.freeCount = 0 →
      set k8 = .next (s.refusing 0x40 tag .logFull)) ∧
    (book.toNat ≤ 2147483647 → s.stock.session = none → 1 ≤ s.log.freeCount →
      ∃ t : State, set k8 = .next t ∧
        t.port.held = replyBytes 0x40 tag 0
          ((i32 s.stock.books[k].value).bytes (s.free + 2) 0 ++ beBytes 4 s.log.seq.toNat) ∧
        t.log.slotAt s.log.tail =
          { stored := true
            bytes := ({ kind := 3, comp := k8, gross := s.stock.books[k].value, net := book.toNat
                        : Record }).bytes s.log.seq s.table.day (s.free + 1) } ∧
        (∀ i : Nat, i ≠ s.log.tail → t.log.slotAt i = s.log.slotAt i) ∧
        t.log.count = s.log.count + 1 ∧ t.log.oldest = s.log.oldest ∧ t.log.seq = s.log.seq + 1 ∧
        t.log.reserved = s.log.reserved ∧
        t.stock.books = s.stock.books.set k (bookOf k book.toNat true) ∧
        t.stock.goHold = none ∧ t.stock.yieldUntil = s.stock.yieldUntil ∧
        t.stock.restock = (if t.wantsFuel then .want else .normal) ∧
        t.stock = { s.stock with
          books := t.stock.books, goHold := none, restock := t.stock.restock } ∧
        (let told (v : State) : Prop := t.link = v.link ∧
           t.port = { v.port with held := t.port.held, shiftedOut := s.port.held }
         (t.stock.restock = s.stock.restock → told s) ∧
         (t.stock.restock ≠ s.stock.restock → told ((s.ask .stock).post .restockState
           (.station s.station) t.stock.restock.code))) ∧
        (t.stock.restock ≠ s.stock.restock → s.link.queue.length < 16 → Subject.stock ∈ t.link.queue) ∧
        t = { s with
          log := t.log, stock := t.stock, link := t.link, port := t.port, free := t.free
          staged := none })

/-- R134: SET_PARKED before the seal is NOT_SEALED, a value other than off or on BAD_PARAM; otherwise PARKED
takes the value, the answer being PARKED before, and the next level's reconciliation uses it. The zeros
beyond the results of an OK reply are the model's choice (log entry 47). -/
def Obligations.SetParkedTakesValue : Prop :=
  ∀ (tag value : Byte) (s : State),
    (s.isSealed = false → exec (.setParked tag value) s = .next (s.refusing 0x43 tag .notSealed)) ∧
    (s.isSealed = true → 1 < value.toNat →
      exec (.setParked tag value) s = .next (s.refusing 0x43 tag .badParam)) ∧
    (s.isSealed = true → value.toNat ≤ 1 → ∃ t : State, exec (.setParked tag value) s = .next t ∧
      t = ({ s.beginExchange with
        stock := { s.stock with parked := decide (value = 1) } }).holding
          (replyBytes 0x43 tag 0 [boolByte s.stock.parked]) ∧
      ∀ k : CompId, t.reconciles k = (decide (value = 1) && s.stock.books[k].isSet &&
        s.stock.session.isNone &&
        allHoses.all fun n => !(s.hoses[n].state.isOpen && decide (s.hoseComp n = k))))

/-- R92, R99, R136, R138, R139, R144: RECEIPT_BEGIN takes the receipt's reservation, opens a session with
figures of zero and the permit RAISED, ends MR's window as a stray one, with its episode, its rate and
RECEIPT_STRAY, and starts a window attached to it, writes its journal, makes the restock state RECEIVING
without a GO hold or a yield (R144), and drops the permit at once when the compartment is already high,
posting HIGH_LEVEL with 0 for the book and 1 for the gauge alone; the free count takes 4 bytes of the answer
(R172). RECEIPT_END makes an OPEN session ENDING, ends a RAISED permit and rewrites the journal; of an
ENDING one it changes nothing. The refusals come in the order of the rules. The zeros beyond the results of
an OK reply are the model's choice (log entry 47). -/
def Obligations.ReceiptOpensAndEnds : Prop :=
  (∀ (tag : Byte) (k : CompId) (s : State), s.isSealed = true →
    let begin_ := exec (.receiptBegin tag (BitVec.ofNat 8 k.val)) s
    (∀ i : Byte, 2 ≤ i.toNat → exec (.receiptBegin tag i) s = .next (s.refusing 0x41 tag .badParam)) ∧
    (s.stock.session.isSome = true → begin_ = .next (s.refusing 0x41 tag .wrongState)) ∧
    (s.stock.session = none → s.stock.books[k].isSet = false →
      begin_ = .next (s.refusing 0x41 tag .stockUnset)) ∧
    (s.stock.session = none → s.stock.books[k].isSet = true → s.log.freeCount = 0 →
      begin_ = .next (s.refusing 0x41 tag .logFull)) ∧
    (s.stock.session = none → s.stock.books[k].isSet = true → 1 ≤ s.log.freeCount →
      let high : Prop := s.highFillOf k ≤ s.stock.books[k].value ∨
        ∃ l : Level, s.stock.levels[k] = some l ∧ s.highFillOf k ≤ l.gauge
      let c := s.meters[meterMR]
      let quiet := if c.count ≠ 0 then 0
        else if c.stray.episode then c.stray.quiet + 1 else c.stray.quiet
      let episode := if c.count ≠ 0 then true else c.stray.episode && decide (quiet < s.settleQuiet)
      let u : State := if c.count ≠ 0 ∧ c.stray.episode = false then
        s.post .receiptStray .none c.count else s
      let received : State := if s.stock.restock = .receiving then u else
        (State.ask .stock u).post .restockState (.station s.station) 3
      let shows (t v : State) : Prop :=
        t.port = { v.port with held := t.port.held, shiftedOut := s.port.held }
      ∃ (t : State) (x : Session), begin_ = .next t ∧
        t.port.held = replyBytes 0x41 tag 0 (beBytes 4 t.log.freeCount) ∧
        t.log = { s.log with reserved := s.log.reserved.set holderReceipt true } ∧
        t.stock.session = some x ∧ t.stock.rjournal = some x.journal ∧
        x = { ending := false, comp := k, acc := Accum.zero, flags := DFlags.clear, phaseErrors := 0
              permit := x.permit } ∧
        (high → x.permit = .dropped ∧ t.rperm = false) ∧
        (¬ high → x.permit = .raised ∧ t.rperm = true) ∧
        t.stock.restock = .receiving ∧ t.stock.goHold = none ∧ t.stock.yieldUntil = none ∧
        t.stock = { s.stock with
          session := some x, rjournal := some x.journal, restock := .receiving, goHold := none
          yieldUntil := none } ∧
        t.meters = s.meters.set meterMR { c with
          attach := .receipt, count := 0, sat := false, phaseErr := 0, due := some (s.now + 250000)
          lastRate := rateOf c.count s.metro.meters[meterMR].nf
          stray := { c.stray with episode, quiet } } ∧
        t.link = received.link ∧
        (s.highFillOf k ≤ s.stock.books[k].value → shows t (received.post .highLevel (.comp k) 0)) ∧
        (s.stock.books[k].value < s.highFillOf k → high →
          shows t (received.post .highLevel (.comp k) 1)) ∧
        (¬ high → shows t received) ∧
        t = { s with
          meters := t.meters, log := t.log, stock := t.stock, link := t.link, port := t.port
          staged := none, free := s.free + 1 })) ∧
  (∀ (tag : Byte) (s : State), s.isSealed = true →
    (s.stock.session = none →
      exec (.receiptEnd tag) s = .next (s.refusing 0x42 tag .wrongState)) ∧
    ∀ x : Session, s.stock.session = some x →
      let y : Session := { x with
        ending := true, permit := if x.permit = .raised then .ended else x.permit }
      let reply := replyBytes 0x42 tag 0 ((i32 (truncDiv x.acc.net 1000)).bytes (s.free + 1) 0)
      (x.ending = true → exec (.receiptEnd tag) s = .next (s.beginExchange.holding reply)) ∧
      (x.ending = false → exec (.receiptEnd tag) s = .next
        (({ s.beginExchange with
            stock := { s.stock with session := some y, rjournal := some y.journal } }).holding reply)))

/-- R93, R94, R112, R128, R137 to R139, R142, R144: a window of MR during a session takes MR's count, with
the rate and the factor of MR's calibration, into the session's accumulators, flags and phase error count;
an OPEN session goes on with its journal rewritten, its permit dropping with HIGH_LEVEL posted when the
high-level test is met by the book or by the gauge and its stock otherwise as it was; and an ENDING one
closes into a RECEIPT record that credits the compartment's book, with the restock evaluation that follows a
change of it, and posts RECEIPT_CLOSED with the record's sequence. The restock state is then recomputed as
WANT or NORMAL; when that changes it, the STOCK subject is asked for and RESTOCK_STATE posted. Every other
item of stock stays. The events that follow a change of the book come in the model's order (log entry 31).
The second clause gives the high-level test: without a session, for another compartment, a permit not RAISED
or neither figure met it does nothing; met, it drops the permit, rewrites the journal and posts HIGH_LEVEL,
with 0 for the book and 1 for the gauge alone. That the clock does not run back is the model's choice (log
entry 1). -/
def Obligations.ReceiptWindowAccounts : Prop :=
  (∀ (due : Nat) (x : Session) (s : State), s.meters[meterMR].due = some due →
    s.meters[meterMR].attach = .receipt → s.stock.session = some x →
    let w := s.windowOf meterMR
    let y := s.windowSession x w
    let gross := grossStep w.count w.mf x.acc.gRem
    let net := netStep gross.whole (vcfOf (s.alphaOf x.comp) s.receiptTemp) x.acc.nRem
    let r := y.receipt.record s.receiptTemp
    ∃ t : State, exec (.windowExpiry meterMR) s = .next t ∧
      t.now = max s.now due ∧
      (let c := s.meters[meterMR]
       let cal := s.metro.meters[meterMR]
       let rate := rateOf c.count cal.nf
       w = { count := c.count, sat := c.sat, phaseErr := c.phaseErr, rate, mf := curveAt cal.curve rate }) ∧
      y.acc = x.acc.window gross net s.receiptTemp.used ∧
      y.phaseErrors = min 65535 (x.phaseErrors + w.phaseErr) ∧
      y.flags =
        { overspeed := x.flags.overspeed || w.sat
          overflow := x.flags.overflow || x.acc.newlySaturated y.acc
          tempHeld := x.flags.tempHeld ||
            (decide (gross.whole ≠ 0) && s.receiptTemp.statusCode == 2)
          uncompensated := x.flags.uncompensated ||
            (decide (gross.whole ≠ 0) && s.receiptTemp.statusCode == 0) } ∧
      t.meters = s.meters.set meterMR { s.meters[meterMR] with
        count := 0, sat := false, phaseErr := 0, lastRate := w.rate, due := some (due + 250000)
        attach := if x.ending then .stray else .receipt } ∧
      t.hoses = s.hoses ∧ t.pumps = s.pumps ∧ t.table = s.table ∧
      (x.ending = false →
        ∃ z : Session, t.stock.session = some z ∧ t.stock.rjournal = some z.journal ∧
          z = { y with permit := z.permit } ∧
          t.stock = { s.stock with session := some z, rjournal := some z.journal } ∧
          t.link = s.link ∧ t.free = s.free ∧
          (x.permit ≠ .raised → z.permit = x.permit) ∧
          (x.permit = .raised → (s.highByBook y || s.highByGauge y) = true →
            z.permit = .dropped ∧ t.rperm = false ∧
            t.port = (State.post .highLevel (.comp x.comp) (if s.highByBook y then 0 else 1)
              { s with now := t.now }).port) ∧
          (x.permit = .raised → (s.highByBook y || s.highByGauge y) = false → z.permit = .raised) ∧
          (x.permit ≠ .raised ∨ (s.highByBook y || s.highByGauge y) = false → t.port = s.port) ∧
          t.log = s.log) ∧
      (x.ending = true →
        t.stock.session = none ∧ t.stock.rjournal = none ∧
        t.rperm = false ∧
        t.log.slotAt s.log.tail =
          { stored := true, bytes := r.bytes s.log.seq s.table.day s.free } ∧
        (∀ i : Nat, i ≠ s.log.tail → t.log.slotAt i = s.log.slotAt i) ∧
        t.log = { s.log with
          slots := t.log.slots, count := s.log.count + 1, indexCrc := t.log.indexCrc
          seq := s.log.seq + 1, seqCrc := t.log.seqCrc
          reserved := s.log.reserved.set holderReceipt false } ∧
        r.endCause = BitVec.ofNat 8 (if x.permit = .dropped then 15 else 14) ∧
        t.stock.books = s.stock.books.set x.comp
          (bookOf x.comp (max (-2147483647) (min 2147483647 (s.stock.books[x.comp].value + r.net)))
            s.stock.books[x.comp].isSet) ∧
        (s.port.mask.getLsbD 17 = false → s.port.events.length ≤ 28 →
          ({ kind := .receiptClosed, subject := .comp x.comp, value := s.log.seq.toNat
             postedAt := t.now / 1000000 } : Event) ∈ t.port.events) ∧
        t.stock.restock = (if t.wantsFuel then .want else .normal) ∧
        (let u : State := { s with
          now := max s.now due, free := s.free + 1
          stock := { s.stock with session := some y, rjournal := some y.journal } }
         let v := u.rebooked x.comp (s.stock.books[x.comp].value + r.net)
         let closed := State.post .receiptClosed (.comp x.comp) s.log.seq.toNat
           { v with stock := { v.stock with session := none, rjournal := none } }
         let told (z : State) : Prop := t.link = z.link ∧ t.port = z.port
         t.stock = { v.stock with session := none, rjournal := none, restock := t.stock.restock } ∧
         t.free = s.free + 1 ∧
         (t.stock.restock = v.stock.restock → told closed) ∧
         (t.stock.restock ≠ v.stock.restock → told ((closed.ask .stock).post .restockState
           (.station s.station) t.stock.restock.code)))) ∧
      t = { s with
        now := t.now, meters := t.meters, log := t.log, stock := t.stock
        link := t.link, port := t.port, free := t.free }) ∧
  (∀ (k : CompId) (s : State),
    (s.stock.session = none → s.highLevelTest k = s) ∧
    ∀ x : Session, s.stock.session = some x →
      let byBook : Prop :=
        s.capacity x.comp * s.highFill ≤ s.stock.books[x.comp].value + truncDiv x.acc.net 1000
      let byGauge : Prop := ∃ l : Level, s.stock.levels[x.comp] = some l ∧
        s.capacity x.comp * s.highFill ≤ l.gauge
      let dropped : Session := { x with permit := .dropped }
      let drops (value : Int) : Prop := s.highLevelTest k = State.post .highLevel (.comp k) value
        { s with stock := { s.stock with session := some dropped, rjournal := some dropped.journal } }
      (s.highByBook x = true ↔ byBook) ∧ (s.highByGauge x = true ↔ byGauge) ∧
      (x.comp ≠ k ∨ x.permit ≠ .raised ∨ ¬ (byBook ∨ byGauge) → s.highLevelTest k = s) ∧
      (x.comp = k → x.permit = .raised → byBook → drops 0) ∧
      (x.comp = k → x.permit = .raised → ¬ byBook → byGauge → drops 1))

/-- R140, R142, R144: the state a restock evaluation gives, from the own state, the books against their
reorder levels, the yield flag and the peers' states and keys; and what it does to the state, the GO hold
expiry and the yield flag. A change asks for the STOCK subject and posts RESTOCK_STATE. The last two clauses
give the urgency key (over a capacity not above 0, before the seal, it is a free value: log entry 26) and
the peers in question, the FRESH ones that have sent a stock notice (R158). -/
def Obligations.RestockEvaluated : Prop :=
  ∀ s : State,
    let wants : Prop := ∃ k : CompId, s.stock.books[k].value < s.reorder k * 1000
    let peers := s.peerStocks
    let lower (key : Int) (station : Nat) (key' : Int) (station' : Nat) : Prop :=
      key < key' ∨ (key = key' ∧ station < station')
    let busy : Prop := ∃ p ∈ peers, p.2.state = .go ∨ p.2.state = .receiving
    let first : Prop := ∀ p ∈ peers, p.2.state = .want → p.2.yielding = false →
      lower s.urgency s.station p.2.key p.1
    let taken : Prop := ∃ p ∈ peers, p.2.state = .receiving ∨
      (p.2.state = .go ∧ lower p.2.key p.1 s.urgency s.station)
    (s.stock.restock = .receiving → s.evaluated = .receiving) ∧
    (s.stock.restock ≠ .receiving → ¬ wants → s.evaluated = .normal) ∧
    (s.stock.restock = .normal ∨ s.stock.restock = .want → wants →
      (¬ busy → s.stock.yieldUntil = none → first → s.evaluated = .go) ∧
      (busy ∨ s.stock.yieldUntil ≠ none ∨ ¬ first → s.evaluated = .want)) ∧
    (s.stock.restock = .go → wants →
      (taken → s.evaluated = .want) ∧ (¬ taken → s.evaluated = .go)) ∧
    (s.evaluateRestock).stock.restock = s.evaluated ∧
    (s.evaluated = .go → s.stock.restock ≠ .go →
      (s.evaluateRestock).stock.goHold = some (s.now / 1000000 + s.goHoldTime)) ∧
    (s.evaluated ≠ .go → s.stock.restock = .go → (s.evaluateRestock).stock.goHold = none) ∧
    (s.evaluateRestock).stock.yieldUntil = s.stock.yieldUntil ∧
    (s.evaluated = s.stock.restock → s.evaluateRestock = s) ∧
    (s.evaluated ≠ s.stock.restock → s.evaluateRestock =
      (State.ask .stock { s with stock := { s.stock with
        restock := s.evaluated, goHold := (s.evaluateRestock).stock.goHold } }).post .restockState
          (.station s.station) s.evaluated.code) ∧
    ((∀ k : CompId, 0 < s.capacity k) →
      let fill (k : CompId) : Int := min 1000 (max 0 s.stock.books[k].value / s.capacity k)
      s.urgency = min (fill 0) (fill 1)) ∧
    (∀ (station : Nat) (x : PeerStock), (station, x) ∈ s.peerStocks ↔
      ∃ (i : StationId) (p : Peer), station = i.val + 1 ∧ s.link.peers[i] = some p ∧
        p.stock = some x)

/-- R33, R143: a heard reservation's expiry clears it and nothing else of the table. The GO hold expiry
takes GO to WANT and sets the yield flag for GO_HOLD seconds; the yield expiry clears it, asks for the stock
subject and makes an evaluation. Where the timer is absent nothing happens (log entry 3). That the clock
does not run back is the model's choice (log entry 1). -/
def Obligations.ReservationsAndHoldsExpire : Prop :=
  (∀ (slot : SlotId) (station : StationId) (s : State),
    (∀ (e : Entry) (h : Heard), s.entryAt slot.val = some e → e.heard[station] = some h →
      ∃ entries, exec (.reservationExpiry slot station) s = .next
          { s with now := max s.now (h.expiry * 1000000), table := { s.table with entries } } ∧
        ∀ j, Sparse.find? entries j =
          if j = slot.val then some { e with heard := e.heard.set station none } else s.entryAt j) ∧
    ((∀ e, s.entryAt slot.val = some e → e.heard[station] = none) →
      exec (.reservationExpiry slot station) s = .next s)) ∧
  (∀ (due : Nat) (s : State),
    let u : State := { s with now := max s.now (due * 1000000) }
    (s.stock.goHold = some due → s.stock.restock = .go →
      exec .goHoldExpiry s = .next
        ((State.ask .stock { u with stock := { s.stock with
            goHold := none, yieldUntil := some (u.now / 1000000 + s.goHoldTime)
            restock := .want } }).post .restockState (.station s.station) 1)) ∧
    (s.stock.yieldUntil = some due →
      exec .yieldExpiry s = .next
        (State.ask .stock { u with
          stock := { s.stock with yieldUntil := none } }).evaluateRestock) ∧
    (s.stock.goHold = none → exec .goHoldExpiry s = .next s) ∧
    (s.stock.yieldUntil = none → exec .yieldExpiry s = .next s))

/-! ## The sampler -/

/-- R101, R102, R103: a sample enters the filling block of the input at the scan position, which moves on;
the sixteenth completes the block, whose mean is the input's value and, for a temperature input, converts to
its temperature; the next sample is due 2 ms later. The last clause is a level input's block (R131 to R133,
R138): the history of five values, their median, the level in mm, the gauge net by the strapping table, the
variance while reconciliation applies with its event, and the high-level test by the gauge. That the clock
does not run back is the model's choice (log entry 1). -/
def Obligations.SampleFillsBlock : Prop :=
  (∀ (v : BitVec 12) (due : Nat) (s : State), s.sampler.due = some due →
    let pos := s.sampler.pos
    let x := s.sampler.inputs[pos]
    let block := (if x.fillSecond then x.second else x.first) ++ [v.toNat]
    let mean := block.sum / 16
    let inputs (y : SamplerInput) := s.sampler.inputs.set pos y
    let u : State := { s with now := max s.now due }
    (block.length < 16 → ∃ y : SamplerInput, exec (.analogSample v) s = .next
        { u with sampler := { s.sampler with
          due := some (due + 2000), pos := pos + 1, inputs := inputs y } } ∧
      (if y.fillSecond then y.second else y.first) = block ∧ y.fillSecond = x.fillSecond ∧
      y.value = x.value) ∧
    (16 ≤ block.length → ∃ (y : SamplerInput) (t : State), exec (.analogSample v) s = .next t ∧
      y.value = some mean ∧ y.fillSecond = !x.fillSecond ∧
      (if y.fillSecond then y.second else y.first) = [] ∧
      (if y.fillSecond then y.first else y.second) = block ∧
      t.sampler.pos = pos + 1 ∧ t.sampler.due = some (due + 2000) ∧ t.sampler.inputs = inputs y ∧
      (∀ i : Fin 3, pos.val = i.val + 2 → ∀ cal : Nat × Int, s.metro.tcal[i] = some cal →
        t = { u with sampler := { s.sampler with
          due := some (due + 2000), pos := pos + 1, inputs := inputs y
          temps := s.sampler.temps.set i
            (if 16 ≤ mean ∧ mean ≤ 4079 then
              .good (max (-4000) (min 7000 (((mean : Int) * cal.1) / 4096 + cal.2)))
            else match s.sampler.temps[i] with
              | .none => .none
              | .good c => .held c
              | .held c => .held c) } }) ∧
      (∀ k : CompId, pos.val = k.val →
        t = State.levelBlock k mean { u with sampler := { s.sampler with
          due := some (due + 2000), pos := pos + 1, inputs := inputs y } }))) ∧
  (∀ (k : CompId) (value : Nat) (s : State), s.stock.history[k].length ≤ 5 →
    let t := s.levelBlock k value
    let joined := s.stock.history[k] ++ [value]
    let history := if joined.length = 6 then joined.tail else joined
    let book := s.stock.books[k].value
    (history.length < 5 → t = { s with stock := { s.stock with
      history := s.stock.history.set k history } }) ∧
    ∀ median : Nat, history.length = 5 → median ∈ history →
      (history.countP fun x => decide (x < median)) ≤ 2 →
      (history.countP fun x => decide (median < x)) ≤ 2 →
      let mm : Int := max 0 ((((median : Nat) : Int) - s.zero k) * s.span k / 4096)
      let gauge : Int :=
        curveAt (s.strapping k) mm.toNat * 1000 * vcfOf (s.alphaOf k) (s.compTemp k) / 1000000
      let variance := gauge - book
      let outside : Bool := decide (s.varianceTol * 1000 < |variance|)
      let figure (x : Session) : Int := s.capacity x.comp * s.highFill
      t.stock.history = s.stock.history.set k history ∧
      t.stock.levels = s.stock.levels.set k (some { mm, gauge }) ∧
      (s.reconciles k = true →
        t.stock.variance = s.stock.variance.set k { value := some variance, outside } ∧
        t.stock.session = none ∧
        (outside = true → s.stock.variance[k].outside = false →
          t.port = (s.post .variance (.comp k) (truncDiv variance 1000)).port) ∧
        (outside = false ∨ s.stock.variance[k].outside = true → t.port = s.port)) ∧
      (s.reconciles k = false →
        t.stock.variance = s.stock.variance.set k { value := none, outside := false } ∧
        (∀ x : Session, s.stock.session = some x → x.comp = k → x.permit = .raised →
          let byBook := figure x ≤ book + truncDiv x.acc.net 1000
          (byBook ∨ figure x ≤ gauge →
            t.stock.session = some { x with permit := .dropped } ∧
            t.stock.rjournal = some ({ x with permit := .dropped } : Session).journal ∧
            t.port = (s.post .highLevel (.comp k) (if byBook then 0 else 1)).port) ∧
          (¬ byBook → gauge < figure x → t.stock.session = some x ∧ t.port = s.port)) ∧
        ((∀ x : Session, s.stock.session = some x → x.comp ≠ k ∨ x.permit ≠ .raised) →
          t.stock.session = s.stock.session ∧ t.stock.rjournal = s.stock.rjournal ∧
          t.port = s.port)) ∧
      t = { s with
        port := t.port
        stock := { s.stock with
          history := t.stock.history, levels := t.stock.levels, variance := t.stock.variance
          session := t.stock.session, rjournal := t.stock.rjournal } })

/-! ## The site link -/

/-- R149, R152: a carrier event by the link state; in IDLE a pending backoff is a deferral, and the 32nd
discards the head with LINK_DROP. In BUSY, JAMMED and SENDING, for which R149 has no row, the line alone
moves (the model's choice, log entry 25), and so it does before the seal. Times in ms are due at whole
milliseconds since the seal, the part of one already run dropped (the model's choice, log entry 42). -/
def Obligations.CarrierEventFollowsState : Prop :=
  ∀ s : State,
    let u (l : Link) : State := { s with pins := { s.pins with lcd := true }, link := l }
    let l := s.link
    let jam := some (s.now / 1000 + s.linkJam)
    let busy : Link := { l with state := .busy, jam, rx := some { kept := [], count := 0 } }
    (s.isSealed = false ∨ l.state = .busy ∨ l.state = .jammed ∨ l.state = .sending →
      exec .carrierEvent s = .next (u l)) ∧
    (s.isSealed = true → l.state = .unknown → exec .carrierEvent s = .next
      (u { l with quiet := none, jam, rx := some { kept := [], count := 0 } })) ∧
    (s.isSealed = true → l.state = .idle → l.backoff = none →
      exec .carrierEvent s = .next (u busy)) ∧
    (s.isSealed = true → l.state = .idle → l.backoff ≠ none → l.deferrals < 31 →
      exec .carrierEvent s = .next
        (u { busy with backoff := none, deferrals := l.deferrals + 1 })) ∧
    (∀ (sub : Subject) (rest : List Subject), s.isSealed = true → l.state = .idle →
      l.backoff ≠ none → l.deferrals = 31 → l.queue = sub :: rest →
      exec .carrierEvent s = .next
        ((u { busy with backoff := none, deferrals := 0, queue := rest }).post .linkDrop
          (.station s.station) sub.dropValue))

/-- R149, R153, R155: the quiet expiry takes the link to IDLE with the draw that may start, the jam expiry
to JAMMED with LINK_JAMMED posted. A character joins the frame in reception, of which 22 are kept; without
one it is dropped (the model's choice, log entry 25). The end of a transmission takes the link to IDLE, or
to BUSY with a frame in reception when the carrier is asserted. LTXE is low at that end; it is high exactly
in SENDING. Where the timer is absent nothing happens (log entry 3). Times in ms are due at whole
milliseconds since the seal, the part of one already run dropped (the model's choice, log entry 42). That
the clock does not run back is the model's choice (log entry 1). -/
def Obligations.LinkTimersAndCharacters : Prop :=
  (∀ (due : Nat) (char : Byte) (s : State),
    let u : State := { s with now := max s.now (due * 1000) }
    (s.link.quiet = some due → exec .quietExpiry s = .next
      (State.draw { u with link := { s.link with state := .idle, quiet := none } })) ∧
    (s.link.jam = some due → exec .jamExpiry s = .next
      (State.post .linkJammed (.station s.station) 0
        { u with link := { s.link with state := .jammed, jam := none } })) ∧
    (∀ f : RxFrame, s.link.rx = some f → exec (.linkCharacter char) s = .next
      (let g : RxFrame :=
        { kept := f.kept ++ (if f.kept.length < 22 then [char] else [])
          count := min 255 (f.count + 1) }
       { s with link := { s.link with rx := some g } })) ∧
    (s.link.quiet = none → exec .quietExpiry s = .next s) ∧
    (s.link.jam = none → exec .jamExpiry s = .next s) ∧
    (s.link.rx = none → exec (.linkCharacter char) s = .next s)) ∧
  (∀ (x : TxFrame) (s : State), s.link.tx = some x →
    let now := max s.now x.due
    (s.pins.lcd = false → exec .endOfTransmission s = .next
      (State.draw { s with now, link := { s.link with state := .idle, tx := none } })) ∧
    (s.pins.lcd = true → exec .endOfTransmission s = .next
      { s with
        now
        link := { s.link with
          state := .busy, tx := none, jam := some (now / 1000 + s.linkJam)
          rx := some { kept := [], count := 0 } } }) ∧
    (∀ t : State, exec .endOfTransmission s = .next t → t.ltxe = false)) ∧
  (∀ s : State, s.ltxe = true ↔ s.link.state = .sending)

/-- R150 to R154: at the backoff expiry the head subject leaves the queue: its frame goes on the line under
the next notice sequence for its length in characters, with LTXE high, which it is exactly in SENDING, or it
is skipped when no entry holds its ring ID, with the draw that may start. The last two clauses give what
asking for a subject does (nothing when it waits already, LINK_DROP on a full queue, and otherwise it joins
the tail) and the draw: the generator steps and the backoff is its low three bits in slots. The notice
counter's CRC is over its two bytes, most significant first (the model's choice, log entry 15). Times in ms
are due at whole milliseconds since the seal, the part of one already run dropped (the model's choice, log
entry 42). That the clock does not run back is the model's choice (log entry 1). -/
def Obligations.BackoffExpirySendsHead : Prop :=
  (∀ (due : Nat) (sub : Subject) (rest : List Subject) (s : State), s.link.backoff = some due →
    s.link.queue = sub :: rest →
    let now := max s.now (due * 1000)
    let seq := s.link.noticeSeq + 1
    let head (length kind : Nat) : List Byte :=
      [BitVec.ofNat 8 length, BitVec.ofNat 8 kind] ++ beBytes 2 s.site ++ [BitVec.ofNat 8 s.station] ++
        beBytes 2 seq.toNat ++ beBytes 2 s.table.day.toNat
    let sends (body : List Byte) : Prop :=
      let frame := body ++ beBytes 2 (crc16 body).toNat
      exec .backoffExpiry s = .next
        { s with
          now
          link := { s.link with
            backoff := none, queue := rest, deferrals := 0, noticeSeq := seq
            noticeCrc := crc16 (beBytes 2 seq.toNat), state := .sending, rx := none
            tx := some { bytes := frame, due := now + frame.length * s.linkByte } } } ∧
      ∀ t : State, exec .backoffExpiry s = .next t → t.ltxe = true
    let litres (k : CompId) : Nat := (max 0 (min 65535 (s.stock.books[k].value / 1000))).toNat
    (sub = .stock → sends (head 18 2 ++
      [BitVec.ofNat 8 (s.stock.restock.code + if s.stock.yieldUntil.isSome then 128 else 0)] ++
      beBytes 2 s.urgency.toNat ++ beBytes 2 (litres 0) ++ beBytes 2 (litres 1))) ∧
    (∀ (ring : BitVec 24) (slot : Nat) (e : Entry), sub = .machine ring →
      s.entryOfRing ring = some (slot, e) →
      sends (head 22 1 ++ beBytes 3 e.ring.toNat ++ beBytes 4 e.tally[s.ownIndex] ++
        beBytes 4 (s.ownOpenSum slot none))) ∧
    (∀ ring : BitVec 24, sub = .machine ring → s.entryOfRing ring = none →
      exec .backoffExpiry s = .next
        (State.draw { s with
          now, link := { s.link with backoff := none, queue := rest, deferrals := 0 } }))) ∧
  (∀ (sub : Subject) (s : State),
    let ring : Int := match sub with
      | .machine ring => ring.toNat
      | .stock => 0
    (sub ∈ s.link.queue → s.ask sub = s) ∧
    (sub ∉ s.link.queue → 16 ≤ s.link.queue.length →
      s.ask sub = s.post .linkDrop (.station s.station) ring) ∧
    (sub ∉ s.link.queue → s.link.queue.length < 16 → s.ask sub =
      State.draw { s with link := { s.link with queue := s.link.queue ++ [sub] } })) ∧
  (∀ s : State,
    (∀ g : BitVec 16, s.link.state = .idle → s.link.queue ≠ [] → s.link.clash = false →
      s.link.backoff = none → s.link.gen = some g →
      let drawn := if g.getLsbD 0 then (g >>> 1) ^^^ 0xB400 else g >>> 1
      s.draw = { s with link := { s.link with
        gen := some drawn
        backoff := some (s.now / 1000 + (drawn.extractLsb' 0 3).toNat * s.linkSlot) } }) ∧
    (s.link.state ≠ .idle ∨ s.link.queue = [] ∨ s.link.clash = true ∨ s.link.backoff ≠ none →
      s.draw = s)) ∧
  (∀ s : State, s.ltxe = true ↔ s.link.state = .sending)

/-- R149, R155 to R158, R32: a carrier release before the seal or in SENDING moves the line alone; otherwise
it completes the frame, which is counted among the rx errors or rejects when a check fails and not at all
when empty, and the link follows its state. The frame is checked before the link state moves (the model's
choice, log entry 24). The last two clauses give the checks of a sound frame's fields, kind, site code and
station, and what an accepted notice does: an own number sets the clash latch and posts STATION_CLASH once;
a peer's stale sequence is counted and discarded; and another fills the peer's slot, a stock notice making a
restock evaluation, a machine notice of this day being merged into the entry of its ring ID. Times in ms are
due at whole milliseconds since the seal, the part of one already run dropped (the model's choice, log entry
42). -/
def Obligations.CarrierReleaseChecksFrame : Prop :=
  (∀ s : State,
    let low : State := { s with pins := { s.pins with lcd := false } }
    let ended (u : State) : State := match s.link.state with
      | .unknown => { u with link := { u.link with
          jam := none, quiet := some (s.now / 1000 + s.linkQuiet) } }
      | .busy => State.draw { u with link := { u.link with state := .idle, jam := none } }
      | .jammed => State.draw { u with link := { u.link with state := .idle } }
      | .idle => u
      | .sending => u
    (s.isSealed = false ∨ s.link.state = .sending → exec .carrierRelease s = .next low) ∧
    (s.isSealed = true → s.link.state ≠ .sending →
      (s.link.rx = none → exec .carrierRelease s = .next (ended low)) ∧
      ∀ f : RxFrame, s.link.rx = some f →
        let done : State := { low with link := { s.link with rx := none } }
        let length := (f.kept.getD 0 0).toNat
        let sound : Prop := f.count = length ∧ (length = 18 ∨ length = 22) ∧
          (crc16 (f.kept.take (length - 2))).toNat = fieldAt f.kept (length - 2) 2
        (f.count = 0 → exec .carrierRelease s = .next (ended done)) ∧
        (f.count ≠ 0 → ¬ sound → exec .carrierRelease s = .next
          (ended { done with link := { done.link with
            rxErrors := min 65535 (s.link.rxErrors + 1) } })) ∧
        (f.count ≠ 0 → sound → s.acceptNotice (f.kept.take f.count) = none →
          exec .carrierRelease s = .next
            (ended { done with link := { done.link with
              rxRejects := min 65535 (s.link.rxRejects + 1) } })) ∧
        (∀ x : Notice, f.count ≠ 0 → sound → s.acceptNotice (f.kept.take f.count) = some x →
          exec .carrierRelease s = .next ((done.notice x).carrierEnds)))) ∧
  (∀ (l : List Byte) (x : Notice) (s : State),
    let own := BitVec.ofNat 16 s.site
    let other := BitVec.ofNat 16 s.site2
    let code := BitVec.ofNat 16 x.site
    let flags : Byte := l.getD 9 0
    (s.acceptNotice l = some x ↔
      x.site = fieldAt l 2 2 ∧ x.station = fieldAt l 4 1 ∧ x.seq = BitVec.ofNat 16 (fieldAt l 5 2) ∧
      (match x.body with
        | .machine day ring tally reserved =>
          l.length = 22 ∧ fieldAt l 1 1 = 1 ∧ day = BitVec.ofNat 16 (fieldAt l 7 2) ∧
          ring = BitVec.ofNat 24 (fieldAt l 9 3) ∧ tally = fieldAt l 12 4 ∧ reserved = fieldAt l 16 4
        | .stock y =>
          l.length = 18 ∧ fieldAt l 1 1 = 2 ∧ y.state.code = (flags.extractLsb' 0 7).toNat ∧
          y.yielding = flags.getLsbD 7 ∧ y.key = fieldAt l 10 2 ∧ y.key ≤ 1000 ∧
          y.book0 = BitVec.ofNat 16 (fieldAt l 12 2) ∧ y.book1 = BitVec.ofNat 16 (fieldAt l 14 2)) ∧
      (s.siteMode = 0 → x.site = s.site) ∧
      (s.siteMode = 1 → ∀ i < 16, other.getLsbD i = false → code.getLsbD i = own.getLsbD i) ∧
      (2 ≤ s.siteMode → x.site = s.site ∨ x.site = s.site2) ∧
      1 ≤ x.station ∧ x.station ≤ 16)) ∧
  (∀ (x : Notice) (s : State),
    (x.station = s.station → s.link.clash = true → s.notice x = s) ∧
    (x.station = s.station → s.link.clash = false → s.notice x =
      State.post .stationClash (.station s.station) x.seq.toNat
        { s with link := { s.link with clash := true, backoff := none } }) ∧
    ∀ i : StationId, x.station = i.val + 1 → x.station ≠ s.station →
      let old := s.link.peers[i]
      let stale : Prop := ∃ p : Peer, old = some p ∧
        (x.seq = p.lastSeq ∨ 32768 ≤ (x.seq - p.lastSeq).toNat)
      let peer (stock : Option PeerStock) : State := { s with link := { s.link with
        peers := s.link.peers.set i (some
          { lastSeq := x.seq, heardAt := s.now / 1000000, stale := s.now / 1000000 + s.peerStale
            stock }) } }
      (stale → s.notice x = { s with link := { s.link with
        seqDiscards := min 65535 (s.link.seqDiscards + 1) } }) ∧
      (∀ y : PeerStock, ¬ stale → x.body = .stock y →
        s.notice x = (peer (some y)).evaluateRestock) ∧
      (∀ (day : BitVec 16) (ring : BitVec 24) (tally reserved : Nat), ¬ stale →
        x.body = .machine day ring tally reserved →
        let kept := peer (old.bind Peer.stock)
        (day ≠ s.table.day ∨ s.entryOfRing ring = none → s.notice x = kept) ∧
        ∀ (slot : Nat) (e : Entry), day = s.table.day → s.entryOfRing ring = some (slot, e) →
          let heard : Option Heard :=
            if reserved = 0 then none
            else some { ml := reserved, expiry := s.now / 1000000 + s.resTtl }
          let merged : Entry := { e with tally := e.tally.set i tally, heard := e.heard.set i heard }
          ∃ entries, s.notice x = { kept with table := { s.table with entries } } ∧
            ∀ j, Sparse.find? entries j =
              if j = slot then some { merged with crc := crc16 merged.bytes } else s.entryAt j))

/-- R159: the staleness expiry of a FRESH slot makes it ABSENT and a restock evaluation follows; of an
ABSENT slot it changes nothing (the model's choice, log entry 3). R160: the sweeps set their next expiry and
ask, the machine sweep for the first entry from the sweep position that has an own tally or an own open sum,
unless the clash latch is set. That the clock does not run back is the model's choice (log entry 1). -/
def Obligations.LinkPeriodsRun : Prop :=
  ∀ (due : Nat) (s : State),
    (∀ (i : StationId) (p : Peer), s.link.peers[i] = some p →
      exec (.stalenessExpiry i) s = .next
        (State.evaluateRestock { s with
          now := max s.now (p.stale * 1000000)
          link := { s.link with peers := s.link.peers.set i none } })) ∧
    (∀ i : StationId, s.link.peers[i] = none → exec (.stalenessExpiry i) s = .next s) ∧
    (s.link.stockDue = some due →
      let u : State := { s with
        now := max s.now due
        link := { s.link with stockDue := some (due + s.stockPeriod * 1000000) } }
      (s.link.clash = true → exec .stockSweep s = .next u) ∧
      (s.link.clash = false → exec .stockSweep s = .next (u.ask .stock))) ∧
    (s.link.sweepDue = some due →
      let wants (slot : Nat) (e : Entry) : Prop :=
        0 < e.tally[s.ownIndex] ∨ 0 < s.ownOpenSum slot none
      let u (pos : Nat) : State := { s with
        now := max s.now due
        link := { s.link with
          sweepDue := some (due + s.sweepPeriod * 1000000), sweepPos := pos } }
      (s.link.clash = true → exec .machineSweep s = .next (u s.link.sweepPos)) ∧
      (s.link.clash = false → (∀ p ∈ s.table.entries, ¬ wants p.1 p.2) →
        exec .machineSweep s = .next (u s.link.sweepPos)) ∧
      (∀ (slot : Nat) (e : Entry), s.link.clash = false → TableInv s →
        (slot, e) ∈ s.table.entries → wants slot e →
        (∀ p ∈ s.table.entries, wants p.1 p.2 →
          (slot + 256 - s.link.sweepPos) % 256 ≤ (p.1 + 256 - s.link.sweepPos) % 256) →
        s.link.sweepPos < 256 →
        exec .machineSweep s = .next (State.ask (.machine e.ring) (u ((slot + 1) % 256)))))

/-! ## The metrology scan -/

/-- R57, R81, R168: a scan that finds the metrology CRC as issued is followed by the next one 60 s later; a
mismatch latches the metrology fault without a further scan, posts METROLOGY_FAULT with the formed CRC,
before the responses (the model's choice, log entry 23), and stops hoses and pumps with cause METROLOGY as
an emergency stop does. A cancelled hose comes to rest by its seat line (the model's reading, log entry 37).
Without its timer a scan does nothing (log entry 3). The window in flight is left uncounted unless its
expiry time has come (the model's reading, log entry 8). That the clock does not run back is the model's
choice (log entry 1). -/
def Obligations.ScanLatchesMetrologyFault : Prop :=
  ∀ (due : Nat) (s : State), s.scanDue = some due →
    let now := max s.now due
    (s.metro.issued = some s.metro.crc →
      exec .scanExpiry s = .next { s with now, scanDue := some (due + 60000000) }) ∧
    (s.metro.issued ≠ some s.metro.crc →
      let u : State := { s with now, scanDue := none, metroFault := true }
      ∃ t : State, exec .scanExpiry s = .next t ∧
        StopsEverything .metrology (u.post .metrologyFault .part s.metro.crc.toNat) t ∧
        t.metroFault = true ∧ t.estopLatch = s.estopLatch ∧ t.metro = s.metro) ∧
    (∀ r : State, r.scanDue = none → exec .scanExpiry r = .next r)
end

