-- ==== Sys2Proof/Laws/State.lean ====
section
/-! SUPPORT. What each update of one field leaves of the others, and what it writes. -/

namespace Sys2Proof.Machine

@[simp] theorem State.setHose_frame (n : HoseId) (h : Hose) (s : State) :
    (s.setHose n h).pins = s.pins ∧
    (s.setHose n h).isSealed = s.isSealed ∧
    (s.setHose n h).now = s.now ∧
    (s.setHose n h).estopLatch = s.estopLatch ∧
    (s.setHose n h).metroFault = s.metroFault ∧
    (s.setHose n h).scanDue = s.scanDue ∧
    (s.setHose n h).config = s.config ∧
    (s.setHose n h).profiles = s.profiles ∧
    (s.setHose n h).staged = s.staged ∧
    (s.setHose n h).metro = s.metro ∧
    (s.setHose n h).readers = s.readers ∧
    (s.setHose n h).table = s.table ∧
    (s.setHose n h).pumps = s.pumps ∧
    (s.setHose n h).meters = s.meters ∧
    (s.setHose n h).sampler = s.sampler ∧
    (s.setHose n h).log = s.log ∧
    (s.setHose n h).stock = s.stock ∧
    (s.setHose n h).link = s.link ∧
    (s.setHose n h).port = s.port ∧
    (s.setHose n h).losses = s.losses ∧
    (s.setHose n h).free = s.free ∧
    (s.setHose n h).pending = s.pending :=
  ⟨rfl, rfl, rfl, rfl, rfl, rfl, rfl, rfl, rfl, rfl, rfl, rfl, rfl, rfl, rfl, rfl, rfl, rfl, rfl, rfl, rfl, rfl⟩

@[simp] theorem State.setReader_frame (n : HoseId) (r : Reader) (s : State) :
    (s.setReader n r).pins = s.pins ∧
    (s.setReader n r).isSealed = s.isSealed ∧
    (s.setReader n r).now = s.now ∧
    (s.setReader n r).estopLatch = s.estopLatch ∧
    (s.setReader n r).metroFault = s.metroFault ∧
    (s.setReader n r).scanDue = s.scanDue ∧
    (s.setReader n r).config = s.config ∧
    (s.setReader n r).profiles = s.profiles ∧
    (s.setReader n r).staged = s.staged ∧
    (s.setReader n r).metro = s.metro ∧
    (s.setReader n r).table = s.table ∧
    (s.setReader n r).hoses = s.hoses ∧
    (s.setReader n r).pumps = s.pumps ∧
    (s.setReader n r).meters = s.meters ∧
    (s.setReader n r).sampler = s.sampler ∧
    (s.setReader n r).log = s.log ∧
    (s.setReader n r).stock = s.stock ∧
    (s.setReader n r).link = s.link ∧
    (s.setReader n r).port = s.port ∧
    (s.setReader n r).losses = s.losses ∧
    (s.setReader n r).free = s.free ∧
    (s.setReader n r).pending = s.pending :=
  ⟨rfl, rfl, rfl, rfl, rfl, rfl, rfl, rfl, rfl, rfl, rfl, rfl, rfl, rfl, rfl, rfl, rfl, rfl, rfl, rfl, rfl, rfl⟩

@[simp] theorem State.setPump_frame (k : CompId) (p : Pump) (s : State) :
    (s.setPump k p).pins = s.pins ∧
    (s.setPump k p).isSealed = s.isSealed ∧
    (s.setPump k p).now = s.now ∧
    (s.setPump k p).estopLatch = s.estopLatch ∧
    (s.setPump k p).metroFault = s.metroFault ∧
    (s.setPump k p).scanDue = s.scanDue ∧
    (s.setPump k p).config = s.config ∧
    (s.setPump k p).profiles = s.profiles ∧
    (s.setPump k p).staged = s.staged ∧
    (s.setPump k p).metro = s.metro ∧
    (s.setPump k p).readers = s.readers ∧
    (s.setPump k p).table = s.table ∧
    (s.setPump k p).hoses = s.hoses ∧
    (s.setPump k p).meters = s.meters ∧
    (s.setPump k p).sampler = s.sampler ∧
    (s.setPump k p).log = s.log ∧
    (s.setPump k p).stock = s.stock ∧
    (s.setPump k p).link = s.link ∧
    (s.setPump k p).port = s.port ∧
    (s.setPump k p).losses = s.losses ∧
    (s.setPump k p).free = s.free ∧
    (s.setPump k p).pending = s.pending :=
  ⟨rfl, rfl, rfl, rfl, rfl, rfl, rfl, rfl, rfl, rfl, rfl, rfl, rfl, rfl, rfl, rfl, rfl, rfl, rfl, rfl, rfl, rfl⟩

@[simp] theorem State.setMeter_frame (m : MeterId) (c : Meter) (s : State) :
    (s.setMeter m c).pins = s.pins ∧
    (s.setMeter m c).isSealed = s.isSealed ∧
    (s.setMeter m c).now = s.now ∧
    (s.setMeter m c).estopLatch = s.estopLatch ∧
    (s.setMeter m c).metroFault = s.metroFault ∧
    (s.setMeter m c).scanDue = s.scanDue ∧
    (s.setMeter m c).config = s.config ∧
    (s.setMeter m c).profiles = s.profiles ∧
    (s.setMeter m c).staged = s.staged ∧
    (s.setMeter m c).metro = s.metro ∧
    (s.setMeter m c).readers = s.readers ∧
    (s.setMeter m c).table = s.table ∧
    (s.setMeter m c).hoses = s.hoses ∧
    (s.setMeter m c).pumps = s.pumps ∧
    (s.setMeter m c).sampler = s.sampler ∧
    (s.setMeter m c).log = s.log ∧
    (s.setMeter m c).stock = s.stock ∧
    (s.setMeter m c).link = s.link ∧
    (s.setMeter m c).port = s.port ∧
    (s.setMeter m c).losses = s.losses ∧
    (s.setMeter m c).free = s.free ∧
    (s.setMeter m c).pending = s.pending :=
  ⟨rfl, rfl, rfl, rfl, rfl, rfl, rfl, rfl, rfl, rfl, rfl, rfl, rfl, rfl, rfl, rfl, rfl, rfl, rfl, rfl, rfl, rfl⟩

@[simp] theorem State.reach_frame (due : Nat) (s : State) :
    (s.reach due).pins = s.pins ∧
    (s.reach due).isSealed = s.isSealed ∧
    (s.reach due).estopLatch = s.estopLatch ∧
    (s.reach due).metroFault = s.metroFault ∧
    (s.reach due).scanDue = s.scanDue ∧
    (s.reach due).config = s.config ∧
    (s.reach due).profiles = s.profiles ∧
    (s.reach due).staged = s.staged ∧
    (s.reach due).metro = s.metro ∧
    (s.reach due).readers = s.readers ∧
    (s.reach due).table = s.table ∧
    (s.reach due).hoses = s.hoses ∧
    (s.reach due).pumps = s.pumps ∧
    (s.reach due).meters = s.meters ∧
    (s.reach due).sampler = s.sampler ∧
    (s.reach due).log = s.log ∧
    (s.reach due).stock = s.stock ∧
    (s.reach due).link = s.link ∧
    (s.reach due).port = s.port ∧
    (s.reach due).losses = s.losses ∧
    (s.reach due).free = s.free ∧
    (s.reach due).pending = s.pending :=
  ⟨rfl, rfl, rfl, rfl, rfl, rfl, rfl, rfl, rfl, rfl, rfl, rfl, rfl, rfl, rfl, rfl, rfl, rfl, rfl, rfl, rfl, rfl⟩

@[simp] theorem State.reachSec_frame (due : Nat) (s : State) :
    (s.reachSec due).pins = s.pins ∧
    (s.reachSec due).isSealed = s.isSealed ∧
    (s.reachSec due).estopLatch = s.estopLatch ∧
    (s.reachSec due).metroFault = s.metroFault ∧
    (s.reachSec due).scanDue = s.scanDue ∧
    (s.reachSec due).config = s.config ∧
    (s.reachSec due).profiles = s.profiles ∧
    (s.reachSec due).staged = s.staged ∧
    (s.reachSec due).metro = s.metro ∧
    (s.reachSec due).readers = s.readers ∧
    (s.reachSec due).table = s.table ∧
    (s.reachSec due).hoses = s.hoses ∧
    (s.reachSec due).pumps = s.pumps ∧
    (s.reachSec due).meters = s.meters ∧
    (s.reachSec due).sampler = s.sampler ∧
    (s.reachSec due).log = s.log ∧
    (s.reachSec due).stock = s.stock ∧
    (s.reachSec due).link = s.link ∧
    (s.reachSec due).port = s.port ∧
    (s.reachSec due).losses = s.losses ∧
    (s.reachSec due).free = s.free ∧
    (s.reachSec due).pending = s.pending :=
  ⟨rfl, rfl, rfl, rfl, rfl, rfl, rfl, rfl, rfl, rfl, rfl, rfl, rfl, rfl, rfl, rfl, rfl, rfl, rfl, rfl, rfl, rfl⟩

@[simp] theorem State.reachMs_frame (due : Nat) (s : State) :
    (s.reachMs due).pins = s.pins ∧
    (s.reachMs due).isSealed = s.isSealed ∧
    (s.reachMs due).estopLatch = s.estopLatch ∧
    (s.reachMs due).metroFault = s.metroFault ∧
    (s.reachMs due).scanDue = s.scanDue ∧
    (s.reachMs due).config = s.config ∧
    (s.reachMs due).profiles = s.profiles ∧
    (s.reachMs due).staged = s.staged ∧
    (s.reachMs due).metro = s.metro ∧
    (s.reachMs due).readers = s.readers ∧
    (s.reachMs due).table = s.table ∧
    (s.reachMs due).hoses = s.hoses ∧
    (s.reachMs due).pumps = s.pumps ∧
    (s.reachMs due).meters = s.meters ∧
    (s.reachMs due).sampler = s.sampler ∧
    (s.reachMs due).log = s.log ∧
    (s.reachMs due).stock = s.stock ∧
    (s.reachMs due).link = s.link ∧
    (s.reachMs due).port = s.port ∧
    (s.reachMs due).losses = s.losses ∧
    (s.reachMs due).free = s.free ∧
    (s.reachMs due).pending = s.pending :=
  ⟨rfl, rfl, rfl, rfl, rfl, rfl, rfl, rfl, rfl, rfl, rfl, rfl, rfl, rfl, rfl, rfl, rfl, rfl, rfl, rfl, rfl, rfl⟩

@[simp] theorem State.setReserved_frame (h : Holder) (b : Bool) (s : State) :
    (s.setReserved h b).pins = s.pins ∧
    (s.setReserved h b).isSealed = s.isSealed ∧
    (s.setReserved h b).now = s.now ∧
    (s.setReserved h b).estopLatch = s.estopLatch ∧
    (s.setReserved h b).metroFault = s.metroFault ∧
    (s.setReserved h b).scanDue = s.scanDue ∧
    (s.setReserved h b).config = s.config ∧
    (s.setReserved h b).profiles = s.profiles ∧
    (s.setReserved h b).staged = s.staged ∧
    (s.setReserved h b).metro = s.metro ∧
    (s.setReserved h b).readers = s.readers ∧
    (s.setReserved h b).table = s.table ∧
    (s.setReserved h b).hoses = s.hoses ∧
    (s.setReserved h b).pumps = s.pumps ∧
    (s.setReserved h b).meters = s.meters ∧
    (s.setReserved h b).sampler = s.sampler ∧
    (s.setReserved h b).stock = s.stock ∧
    (s.setReserved h b).link = s.link ∧
    (s.setReserved h b).port = s.port ∧
    (s.setReserved h b).losses = s.losses ∧
    (s.setReserved h b).free = s.free ∧
    (s.setReserved h b).pending = s.pending :=
  ⟨rfl, rfl, rfl, rfl, rfl, rfl, rfl, rfl, rfl, rfl, rfl, rfl, rfl, rfl, rfl, rfl, rfl, rfl, rfl, rfl, rfl, rfl⟩

@[simp] theorem State.putBook_frame (k : CompId) (v : Int) (b : Bool) (s : State) :
    (s.putBook k v b).pins = s.pins ∧
    (s.putBook k v b).isSealed = s.isSealed ∧
    (s.putBook k v b).now = s.now ∧
    (s.putBook k v b).estopLatch = s.estopLatch ∧
    (s.putBook k v b).metroFault = s.metroFault ∧
    (s.putBook k v b).scanDue = s.scanDue ∧
    (s.putBook k v b).config = s.config ∧
    (s.putBook k v b).profiles = s.profiles ∧
    (s.putBook k v b).staged = s.staged ∧
    (s.putBook k v b).metro = s.metro ∧
    (s.putBook k v b).readers = s.readers ∧
    (s.putBook k v b).table = s.table ∧
    (s.putBook k v b).hoses = s.hoses ∧
    (s.putBook k v b).pumps = s.pumps ∧
    (s.putBook k v b).meters = s.meters ∧
    (s.putBook k v b).sampler = s.sampler ∧
    (s.putBook k v b).log = s.log ∧
    (s.putBook k v b).link = s.link ∧
    (s.putBook k v b).port = s.port ∧
    (s.putBook k v b).losses = s.losses ∧
    (s.putBook k v b).free = s.free ∧
    (s.putBook k v b).pending = s.pending :=
  ⟨rfl, rfl, rfl, rfl, rfl, rfl, rfl, rfl, rfl, rfl, rfl, rfl, rfl, rfl, rfl, rfl, rfl, rfl, rfl, rfl, rfl, rfl⟩

@[simp] theorem State.putSession_frame (x : Session) (s : State) :
    (s.putSession x).pins = s.pins ∧
    (s.putSession x).isSealed = s.isSealed ∧
    (s.putSession x).now = s.now ∧
    (s.putSession x).estopLatch = s.estopLatch ∧
    (s.putSession x).metroFault = s.metroFault ∧
    (s.putSession x).scanDue = s.scanDue ∧
    (s.putSession x).config = s.config ∧
    (s.putSession x).profiles = s.profiles ∧
    (s.putSession x).staged = s.staged ∧
    (s.putSession x).metro = s.metro ∧
    (s.putSession x).readers = s.readers ∧
    (s.putSession x).table = s.table ∧
    (s.putSession x).hoses = s.hoses ∧
    (s.putSession x).pumps = s.pumps ∧
    (s.putSession x).meters = s.meters ∧
    (s.putSession x).sampler = s.sampler ∧
    (s.putSession x).log = s.log ∧
    (s.putSession x).link = s.link ∧
    (s.putSession x).port = s.port ∧
    (s.putSession x).losses = s.losses ∧
    (s.putSession x).free = s.free ∧
    (s.putSession x).pending = s.pending :=
  ⟨rfl, rfl, rfl, rfl, rfl, rfl, rfl, rfl, rfl, rfl, rfl, rfl, rfl, rfl, rfl, rfl, rfl, rfl, rfl, rfl, rfl, rfl⟩

@[simp] theorem State.putEntry_frame (slot : Nat) (e : Entry) (s : State) :
    (s.putEntry slot e).pins = s.pins ∧
    (s.putEntry slot e).isSealed = s.isSealed ∧
    (s.putEntry slot e).now = s.now ∧
    (s.putEntry slot e).estopLatch = s.estopLatch ∧
    (s.putEntry slot e).metroFault = s.metroFault ∧
    (s.putEntry slot e).scanDue = s.scanDue ∧
    (s.putEntry slot e).config = s.config ∧
    (s.putEntry slot e).profiles = s.profiles ∧
    (s.putEntry slot e).staged = s.staged ∧
    (s.putEntry slot e).metro = s.metro ∧
    (s.putEntry slot e).readers = s.readers ∧
    (s.putEntry slot e).hoses = s.hoses ∧
    (s.putEntry slot e).pumps = s.pumps ∧
    (s.putEntry slot e).meters = s.meters ∧
    (s.putEntry slot e).sampler = s.sampler ∧
    (s.putEntry slot e).log = s.log ∧
    (s.putEntry slot e).stock = s.stock ∧
    (s.putEntry slot e).link = s.link ∧
    (s.putEntry slot e).port = s.port ∧
    (s.putEntry slot e).losses = s.losses ∧
    (s.putEntry slot e).free = s.free ∧
    (s.putEntry slot e).pending = s.pending :=
  ⟨rfl, rfl, rfl, rfl, rfl, rfl, rfl, rfl, rfl, rfl, rfl, rfl, rfl, rfl, rfl, rfl, rfl, rfl, rfl, rfl, rfl, rfl⟩

@[simp] theorem State.setSeat_frame (n : HoseId) (b : Bool) (s : State) :
    (s.setSeat n b).isSealed = s.isSealed ∧
    (s.setSeat n b).now = s.now ∧
    (s.setSeat n b).estopLatch = s.estopLatch ∧
    (s.setSeat n b).metroFault = s.metroFault ∧
    (s.setSeat n b).scanDue = s.scanDue ∧
    (s.setSeat n b).config = s.config ∧
    (s.setSeat n b).profiles = s.profiles ∧
    (s.setSeat n b).staged = s.staged ∧
    (s.setSeat n b).metro = s.metro ∧
    (s.setSeat n b).readers = s.readers ∧
    (s.setSeat n b).table = s.table ∧
    (s.setSeat n b).hoses = s.hoses ∧
    (s.setSeat n b).pumps = s.pumps ∧
    (s.setSeat n b).meters = s.meters ∧
    (s.setSeat n b).sampler = s.sampler ∧
    (s.setSeat n b).log = s.log ∧
    (s.setSeat n b).stock = s.stock ∧
    (s.setSeat n b).link = s.link ∧
    (s.setSeat n b).port = s.port ∧
    (s.setSeat n b).losses = s.losses ∧
    (s.setSeat n b).free = s.free ∧
    (s.setSeat n b).pending = s.pending :=
  ⟨rfl, rfl, rfl, rfl, rfl, rfl, rfl, rfl, rfl, rfl, rfl, rfl, rfl, rfl, rfl, rfl, rfl, rfl, rfl, rfl, rfl, rfl⟩

@[simp] theorem State.setDeadman_frame (n : HoseId) (b : Bool) (s : State) :
    (s.setDeadman n b).isSealed = s.isSealed ∧
    (s.setDeadman n b).now = s.now ∧
    (s.setDeadman n b).estopLatch = s.estopLatch ∧
    (s.setDeadman n b).metroFault = s.metroFault ∧
    (s.setDeadman n b).scanDue = s.scanDue ∧
    (s.setDeadman n b).config = s.config ∧
    (s.setDeadman n b).profiles = s.profiles ∧
    (s.setDeadman n b).staged = s.staged ∧
    (s.setDeadman n b).metro = s.metro ∧
    (s.setDeadman n b).readers = s.readers ∧
    (s.setDeadman n b).table = s.table ∧
    (s.setDeadman n b).hoses = s.hoses ∧
    (s.setDeadman n b).pumps = s.pumps ∧
    (s.setDeadman n b).meters = s.meters ∧
    (s.setDeadman n b).sampler = s.sampler ∧
    (s.setDeadman n b).log = s.log ∧
    (s.setDeadman n b).stock = s.stock ∧
    (s.setDeadman n b).link = s.link ∧
    (s.setDeadman n b).port = s.port ∧
    (s.setDeadman n b).losses = s.losses ∧
    (s.setDeadman n b).free = s.free ∧
    (s.setDeadman n b).pending = s.pending :=
  ⟨rfl, rfl, rfl, rfl, rfl, rfl, rfl, rfl, rfl, rfl, rfl, rfl, rfl, rfl, rfl, rfl, rfl, rfl, rfl, rfl, rfl, rfl⟩

@[simp] theorem State.beginExchange_frame (s : State) :
    (s.beginExchange).pins = s.pins ∧
    (s.beginExchange).isSealed = s.isSealed ∧
    (s.beginExchange).now = s.now ∧
    (s.beginExchange).estopLatch = s.estopLatch ∧
    (s.beginExchange).metroFault = s.metroFault ∧
    (s.beginExchange).scanDue = s.scanDue ∧
    (s.beginExchange).config = s.config ∧
    (s.beginExchange).profiles = s.profiles ∧
    (s.beginExchange).metro = s.metro ∧
    (s.beginExchange).readers = s.readers ∧
    (s.beginExchange).table = s.table ∧
    (s.beginExchange).hoses = s.hoses ∧
    (s.beginExchange).pumps = s.pumps ∧
    (s.beginExchange).meters = s.meters ∧
    (s.beginExchange).sampler = s.sampler ∧
    (s.beginExchange).log = s.log ∧
    (s.beginExchange).stock = s.stock ∧
    (s.beginExchange).link = s.link ∧
    (s.beginExchange).losses = s.losses ∧
    (s.beginExchange).pending = s.pending :=
  ⟨rfl, rfl, rfl, rfl, rfl, rfl, rfl, rfl, rfl, rfl, rfl, rfl, rfl, rfl, rfl, rfl, rfl, rfl, rfl, rfl⟩

@[simp] theorem State.answer_frame (code tag : Byte) (r : Reply) (s : State) :
    (s.answer code tag r).pins = s.pins ∧
    (s.answer code tag r).isSealed = s.isSealed ∧
    (s.answer code tag r).now = s.now ∧
    (s.answer code tag r).estopLatch = s.estopLatch ∧
    (s.answer code tag r).metroFault = s.metroFault ∧
    (s.answer code tag r).scanDue = s.scanDue ∧
    (s.answer code tag r).config = s.config ∧
    (s.answer code tag r).profiles = s.profiles ∧
    (s.answer code tag r).staged = s.staged ∧
    (s.answer code tag r).metro = s.metro ∧
    (s.answer code tag r).readers = s.readers ∧
    (s.answer code tag r).table = s.table ∧
    (s.answer code tag r).hoses = s.hoses ∧
    (s.answer code tag r).pumps = s.pumps ∧
    (s.answer code tag r).meters = s.meters ∧
    (s.answer code tag r).sampler = s.sampler ∧
    (s.answer code tag r).log = s.log ∧
    (s.answer code tag r).stock = s.stock ∧
    (s.answer code tag r).link = s.link ∧
    (s.answer code tag r).losses = s.losses ∧
    (s.answer code tag r).free = s.free ∧
    (s.answer code tag r).pending = s.pending :=
  ⟨rfl, rfl, rfl, rfl, rfl, rfl, rfl, rfl, rfl, rfl, rfl, rfl, rfl, rfl, rfl, rfl, rfl, rfl, rfl, rfl, rfl, rfl⟩


@[simp] theorem State.setHose_same (n : HoseId) (h : Hose) (s : State) :
    (s.setHose n h).hoses[n.val] = h := by
  simp [State.setHose]

theorem State.setHose_get (n m : HoseId) (h : Hose) (s : State) :
    (s.setHose n h).hoses[m.val] = if m = n then h else s.hoses[m.val] := by
  by_cases e : m = n
  · subst e; simp
  · have e' : n.val ≠ m.val := fun q => e (Fin.ext q.symm)
    simp [State.setHose, e, Vector.getElem_set_ne, e']

theorem State.setHose_other (n m : HoseId) (h : Hose) (s : State) (e : m ≠ n) :
    (s.setHose n h).hoses[m.val] = s.hoses[m.val] := by
  rw [State.setHose_get, if_neg e]

@[simp] theorem State.setReader_same (n : HoseId) (r : Reader) (s : State) :
    (s.setReader n r).readers[n.val] = r := by
  simp [State.setReader]

theorem State.setReader_get (n m : HoseId) (r : Reader) (s : State) :
    (s.setReader n r).readers[m.val] = if m = n then r else s.readers[m.val] := by
  by_cases e : m = n
  · subst e; simp
  · have e' : n.val ≠ m.val := fun q => e (Fin.ext q.symm)
    simp [State.setReader, e, Vector.getElem_set_ne, e']

theorem State.setReader_other (n m : HoseId) (r : Reader) (s : State) (e : m ≠ n) :
    (s.setReader n r).readers[m.val] = s.readers[m.val] := by
  rw [State.setReader_get, if_neg e]

@[simp] theorem State.setPump_same (n : CompId) (p : Pump) (s : State) :
    (s.setPump n p).pumps[n.val] = p := by
  simp [State.setPump]

theorem State.setPump_get (n m : CompId) (p : Pump) (s : State) :
    (s.setPump n p).pumps[m.val] = if m = n then p else s.pumps[m.val] := by
  by_cases e : m = n
  · subst e; simp
  · have e' : n.val ≠ m.val := fun q => e (Fin.ext q.symm)
    simp [State.setPump, e, Vector.getElem_set_ne, e']

theorem State.setPump_other (n m : CompId) (p : Pump) (s : State) (e : m ≠ n) :
    (s.setPump n p).pumps[m.val] = s.pumps[m.val] := by
  rw [State.setPump_get, if_neg e]

@[simp] theorem State.setMeter_same (n : MeterId) (c : Meter) (s : State) :
    (s.setMeter n c).meters[n.val] = c := by
  simp [State.setMeter]

theorem State.setMeter_get (n m : MeterId) (c : Meter) (s : State) :
    (s.setMeter n c).meters[m.val] = if m = n then c else s.meters[m.val] := by
  by_cases e : m = n
  · subst e; simp
  · have e' : n.val ≠ m.val := fun q => e (Fin.ext q.symm)
    simp [State.setMeter, e, Vector.getElem_set_ne, e']

theorem State.setMeter_other (n m : MeterId) (c : Meter) (s : State) (e : m ≠ n) :
    (s.setMeter n c).meters[m.val] = s.meters[m.val] := by
  rw [State.setMeter_get, if_neg e]

end Sys2Proof.Machine
end

