-- ==== Sys2Proof/Laws/Frames.lean ====
section
/-! SUPPORT. What each shared operation leaves unchanged: the fields of State it does not write. -/

namespace Sys2Proof.Machine

/-- What every pass of a loop keeps, the loop keeps. -/
theorem State.forEach_keep {α β : Type} (proj : State → β) (f : α → State → State)
    (h : ∀ a s, proj (f a s) = proj s) (l : List α) (s : State) :
    proj (s.forEach l f) = proj s := by
  induction l generalizing s with
  | nil => rfl
  | cons a l ih => exact (ih (f a s)).trans (h a s)

@[simp] theorem State.post_frame (k : EventKind) (sub : EventSubject) (v : Int) (s : State) :
    (s.post k sub v).pins = s.pins ∧
    (s.post k sub v).isSealed = s.isSealed ∧
    (s.post k sub v).now = s.now ∧
    (s.post k sub v).estopLatch = s.estopLatch ∧
    (s.post k sub v).metroFault = s.metroFault ∧
    (s.post k sub v).scanDue = s.scanDue ∧
    (s.post k sub v).config = s.config ∧
    (s.post k sub v).profiles = s.profiles ∧
    (s.post k sub v).staged = s.staged ∧
    (s.post k sub v).metro = s.metro ∧
    (s.post k sub v).readers = s.readers ∧
    (s.post k sub v).table = s.table ∧
    (s.post k sub v).hoses = s.hoses ∧
    (s.post k sub v).pumps = s.pumps ∧
    (s.post k sub v).meters = s.meters ∧
    (s.post k sub v).sampler = s.sampler ∧
    (s.post k sub v).log = s.log ∧
    (s.post k sub v).stock = s.stock ∧
    (s.post k sub v).link = s.link ∧
    (s.post k sub v).losses = s.losses ∧
    (s.post k sub v).free = s.free ∧
    (s.post k sub v).pending = s.pending := by
  unfold State.post; (try dsimp only); split_ifs <;> simp

@[simp] theorem State.postDrop_frame (sub : Subject) (s : State) :
    (s.postDrop sub).pins = s.pins ∧
    (s.postDrop sub).isSealed = s.isSealed ∧
    (s.postDrop sub).now = s.now ∧
    (s.postDrop sub).estopLatch = s.estopLatch ∧
    (s.postDrop sub).metroFault = s.metroFault ∧
    (s.postDrop sub).scanDue = s.scanDue ∧
    (s.postDrop sub).config = s.config ∧
    (s.postDrop sub).profiles = s.profiles ∧
    (s.postDrop sub).staged = s.staged ∧
    (s.postDrop sub).metro = s.metro ∧
    (s.postDrop sub).readers = s.readers ∧
    (s.postDrop sub).table = s.table ∧
    (s.postDrop sub).hoses = s.hoses ∧
    (s.postDrop sub).pumps = s.pumps ∧
    (s.postDrop sub).meters = s.meters ∧
    (s.postDrop sub).sampler = s.sampler ∧
    (s.postDrop sub).log = s.log ∧
    (s.postDrop sub).stock = s.stock ∧
    (s.postDrop sub).link = s.link ∧
    (s.postDrop sub).losses = s.losses ∧
    (s.postDrop sub).free = s.free ∧
    (s.postDrop sub).pending = s.pending := by
  simp [State.postDrop]

@[simp] theorem State.draw_frame (s : State) :
    (s.draw).pins = s.pins ∧
    (s.draw).isSealed = s.isSealed ∧
    (s.draw).now = s.now ∧
    (s.draw).estopLatch = s.estopLatch ∧
    (s.draw).metroFault = s.metroFault ∧
    (s.draw).scanDue = s.scanDue ∧
    (s.draw).config = s.config ∧
    (s.draw).profiles = s.profiles ∧
    (s.draw).staged = s.staged ∧
    (s.draw).metro = s.metro ∧
    (s.draw).readers = s.readers ∧
    (s.draw).table = s.table ∧
    (s.draw).hoses = s.hoses ∧
    (s.draw).pumps = s.pumps ∧
    (s.draw).meters = s.meters ∧
    (s.draw).sampler = s.sampler ∧
    (s.draw).log = s.log ∧
    (s.draw).stock = s.stock ∧
    (s.draw).port = s.port ∧
    (s.draw).losses = s.losses ∧
    (s.draw).free = s.free ∧
    (s.draw).pending = s.pending := by
  unfold State.draw; (try dsimp only); (repeat' split) <;> simp

@[simp] theorem State.ask_frame (sub : Subject) (s : State) :
    (s.ask sub).pins = s.pins ∧
    (s.ask sub).isSealed = s.isSealed ∧
    (s.ask sub).now = s.now ∧
    (s.ask sub).estopLatch = s.estopLatch ∧
    (s.ask sub).metroFault = s.metroFault ∧
    (s.ask sub).scanDue = s.scanDue ∧
    (s.ask sub).config = s.config ∧
    (s.ask sub).profiles = s.profiles ∧
    (s.ask sub).staged = s.staged ∧
    (s.ask sub).metro = s.metro ∧
    (s.ask sub).readers = s.readers ∧
    (s.ask sub).table = s.table ∧
    (s.ask sub).hoses = s.hoses ∧
    (s.ask sub).pumps = s.pumps ∧
    (s.ask sub).meters = s.meters ∧
    (s.ask sub).sampler = s.sampler ∧
    (s.ask sub).log = s.log ∧
    (s.ask sub).stock = s.stock ∧
    (s.ask sub).losses = s.losses ∧
    (s.ask sub).free = s.free ∧
    (s.ask sub).pending = s.pending := by
  unfold State.ask; (try dsimp only); (repeat' split) <;> simp

@[simp] theorem State.credit_frame (ring : BitVec 24) (net : Int) (s : State) :
    (s.credit ring net).pins = s.pins ∧
    (s.credit ring net).isSealed = s.isSealed ∧
    (s.credit ring net).now = s.now ∧
    (s.credit ring net).estopLatch = s.estopLatch ∧
    (s.credit ring net).metroFault = s.metroFault ∧
    (s.credit ring net).scanDue = s.scanDue ∧
    (s.credit ring net).config = s.config ∧
    (s.credit ring net).profiles = s.profiles ∧
    (s.credit ring net).staged = s.staged ∧
    (s.credit ring net).metro = s.metro ∧
    (s.credit ring net).readers = s.readers ∧
    (s.credit ring net).hoses = s.hoses ∧
    (s.credit ring net).pumps = s.pumps ∧
    (s.credit ring net).meters = s.meters ∧
    (s.credit ring net).sampler = s.sampler ∧
    (s.credit ring net).log = s.log ∧
    (s.credit ring net).stock = s.stock ∧
    (s.credit ring net).losses = s.losses ∧
    (s.credit ring net).free = s.free ∧
    (s.credit ring net).pending = s.pending := by
  unfold State.credit; (try dsimp only); split <;> simp

@[simp] theorem State.mergeMachine_frame (i : StationId) (day : BitVec 16) (ring : BitVec 24) (a b : Nat) (s : State) :
    (s.mergeMachine i day ring a b).pins = s.pins ∧
    (s.mergeMachine i day ring a b).isSealed = s.isSealed ∧
    (s.mergeMachine i day ring a b).now = s.now ∧
    (s.mergeMachine i day ring a b).estopLatch = s.estopLatch ∧
    (s.mergeMachine i day ring a b).metroFault = s.metroFault ∧
    (s.mergeMachine i day ring a b).scanDue = s.scanDue ∧
    (s.mergeMachine i day ring a b).config = s.config ∧
    (s.mergeMachine i day ring a b).profiles = s.profiles ∧
    (s.mergeMachine i day ring a b).staged = s.staged ∧
    (s.mergeMachine i day ring a b).metro = s.metro ∧
    (s.mergeMachine i day ring a b).readers = s.readers ∧
    (s.mergeMachine i day ring a b).hoses = s.hoses ∧
    (s.mergeMachine i day ring a b).pumps = s.pumps ∧
    (s.mergeMachine i day ring a b).meters = s.meters ∧
    (s.mergeMachine i day ring a b).sampler = s.sampler ∧
    (s.mergeMachine i day ring a b).log = s.log ∧
    (s.mergeMachine i day ring a b).stock = s.stock ∧
    (s.mergeMachine i day ring a b).link = s.link ∧
    (s.mergeMachine i day ring a b).port = s.port ∧
    (s.mergeMachine i day ring a b).losses = s.losses ∧
    (s.mergeMachine i day ring a b).free = s.free ∧
    (s.mergeMachine i day ring a b).pending = s.pending := by
  unfold State.mergeMachine; (try dsimp only); (repeat' split) <;> simp

@[simp] theorem State.append_frame (r : Record) (h : Option Holder) (s : State) :
    (s.append r h).pins = s.pins ∧
    (s.append r h).isSealed = s.isSealed ∧
    (s.append r h).now = s.now ∧
    (s.append r h).estopLatch = s.estopLatch ∧
    (s.append r h).metroFault = s.metroFault ∧
    (s.append r h).scanDue = s.scanDue ∧
    (s.append r h).config = s.config ∧
    (s.append r h).profiles = s.profiles ∧
    (s.append r h).staged = s.staged ∧
    (s.append r h).metro = s.metro ∧
    (s.append r h).readers = s.readers ∧
    (s.append r h).table = s.table ∧
    (s.append r h).hoses = s.hoses ∧
    (s.append r h).pumps = s.pumps ∧
    (s.append r h).meters = s.meters ∧
    (s.append r h).sampler = s.sampler ∧
    (s.append r h).stock = s.stock ∧
    (s.append r h).link = s.link ∧
    (s.append r h).port = s.port ∧
    (s.append r h).losses = s.losses ∧
    (s.append r h).pending = s.pending := by
  simp [State.append]

@[simp] theorem State.scrub_frame (s : State) :
    (s.scrub).pins = s.pins ∧
    (s.scrub).isSealed = s.isSealed ∧
    (s.scrub).now = s.now ∧
    (s.scrub).estopLatch = s.estopLatch ∧
    (s.scrub).metroFault = s.metroFault ∧
    (s.scrub).scanDue = s.scanDue ∧
    (s.scrub).config = s.config ∧
    (s.scrub).profiles = s.profiles ∧
    (s.scrub).staged = s.staged ∧
    (s.scrub).metro = s.metro ∧
    (s.scrub).readers = s.readers ∧
    (s.scrub).table = s.table ∧
    (s.scrub).hoses = s.hoses ∧
    (s.scrub).pumps = s.pumps ∧
    (s.scrub).meters = s.meters ∧
    (s.scrub).sampler = s.sampler ∧
    (s.scrub).stock = s.stock ∧
    (s.scrub).link = s.link ∧
    (s.scrub).losses = s.losses ∧
    (s.scrub).free = s.free ∧
    (s.scrub).pending = s.pending := by
  unfold State.scrub; (try dsimp only); (repeat' split) <;> simp

@[simp] theorem State.adjustBook_frame (k : CompId) (d : Int) (s : State) :
    (s.adjustBook k d).pins = s.pins ∧
    (s.adjustBook k d).isSealed = s.isSealed ∧
    (s.adjustBook k d).now = s.now ∧
    (s.adjustBook k d).estopLatch = s.estopLatch ∧
    (s.adjustBook k d).metroFault = s.metroFault ∧
    (s.adjustBook k d).scanDue = s.scanDue ∧
    (s.adjustBook k d).config = s.config ∧
    (s.adjustBook k d).profiles = s.profiles ∧
    (s.adjustBook k d).staged = s.staged ∧
    (s.adjustBook k d).metro = s.metro ∧
    (s.adjustBook k d).readers = s.readers ∧
    (s.adjustBook k d).table = s.table ∧
    (s.adjustBook k d).hoses = s.hoses ∧
    (s.adjustBook k d).pumps = s.pumps ∧
    (s.adjustBook k d).meters = s.meters ∧
    (s.adjustBook k d).sampler = s.sampler ∧
    (s.adjustBook k d).log = s.log ∧
    (s.adjustBook k d).link = s.link ∧
    (s.adjustBook k d).port = s.port ∧
    (s.adjustBook k d).losses = s.losses ∧
    (s.adjustBook k d).free = s.free ∧
    (s.adjustBook k d).pending = s.pending := by
  simp [State.adjustBook]

@[simp] theorem State.setRestock_frame (r : RestockState) (s : State) :
    (s.setRestock r).pins = s.pins ∧
    (s.setRestock r).isSealed = s.isSealed ∧
    (s.setRestock r).now = s.now ∧
    (s.setRestock r).estopLatch = s.estopLatch ∧
    (s.setRestock r).metroFault = s.metroFault ∧
    (s.setRestock r).scanDue = s.scanDue ∧
    (s.setRestock r).config = s.config ∧
    (s.setRestock r).profiles = s.profiles ∧
    (s.setRestock r).staged = s.staged ∧
    (s.setRestock r).metro = s.metro ∧
    (s.setRestock r).readers = s.readers ∧
    (s.setRestock r).table = s.table ∧
    (s.setRestock r).hoses = s.hoses ∧
    (s.setRestock r).pumps = s.pumps ∧
    (s.setRestock r).meters = s.meters ∧
    (s.setRestock r).sampler = s.sampler ∧
    (s.setRestock r).log = s.log ∧
    (s.setRestock r).losses = s.losses ∧
    (s.setRestock r).free = s.free ∧
    (s.setRestock r).pending = s.pending := by
  unfold State.setRestock; (try dsimp only); split_ifs <;> simp

@[simp] theorem State.evaluateRestock_frame (s : State) :
    (s.evaluateRestock).pins = s.pins ∧
    (s.evaluateRestock).isSealed = s.isSealed ∧
    (s.evaluateRestock).now = s.now ∧
    (s.evaluateRestock).estopLatch = s.estopLatch ∧
    (s.evaluateRestock).metroFault = s.metroFault ∧
    (s.evaluateRestock).scanDue = s.scanDue ∧
    (s.evaluateRestock).config = s.config ∧
    (s.evaluateRestock).profiles = s.profiles ∧
    (s.evaluateRestock).staged = s.staged ∧
    (s.evaluateRestock).metro = s.metro ∧
    (s.evaluateRestock).readers = s.readers ∧
    (s.evaluateRestock).table = s.table ∧
    (s.evaluateRestock).hoses = s.hoses ∧
    (s.evaluateRestock).pumps = s.pumps ∧
    (s.evaluateRestock).meters = s.meters ∧
    (s.evaluateRestock).sampler = s.sampler ∧
    (s.evaluateRestock).log = s.log ∧
    (s.evaluateRestock).losses = s.losses ∧
    (s.evaluateRestock).free = s.free ∧
    (s.evaluateRestock).pending = s.pending := by
  simp [State.evaluateRestock]

@[simp] theorem State.dropPermit_frame (x : Session) (b : Bool) (s : State) :
    (s.dropPermit x b).pins = s.pins ∧
    (s.dropPermit x b).isSealed = s.isSealed ∧
    (s.dropPermit x b).now = s.now ∧
    (s.dropPermit x b).estopLatch = s.estopLatch ∧
    (s.dropPermit x b).metroFault = s.metroFault ∧
    (s.dropPermit x b).scanDue = s.scanDue ∧
    (s.dropPermit x b).config = s.config ∧
    (s.dropPermit x b).profiles = s.profiles ∧
    (s.dropPermit x b).staged = s.staged ∧
    (s.dropPermit x b).metro = s.metro ∧
    (s.dropPermit x b).readers = s.readers ∧
    (s.dropPermit x b).table = s.table ∧
    (s.dropPermit x b).hoses = s.hoses ∧
    (s.dropPermit x b).pumps = s.pumps ∧
    (s.dropPermit x b).meters = s.meters ∧
    (s.dropPermit x b).sampler = s.sampler ∧
    (s.dropPermit x b).log = s.log ∧
    (s.dropPermit x b).link = s.link ∧
    (s.dropPermit x b).losses = s.losses ∧
    (s.dropPermit x b).free = s.free ∧
    (s.dropPermit x b).pending = s.pending := by
  simp [State.dropPermit]

@[simp] theorem State.highLevelTest_frame (k : CompId) (s : State) :
    (s.highLevelTest k).pins = s.pins ∧
    (s.highLevelTest k).isSealed = s.isSealed ∧
    (s.highLevelTest k).now = s.now ∧
    (s.highLevelTest k).estopLatch = s.estopLatch ∧
    (s.highLevelTest k).metroFault = s.metroFault ∧
    (s.highLevelTest k).scanDue = s.scanDue ∧
    (s.highLevelTest k).config = s.config ∧
    (s.highLevelTest k).profiles = s.profiles ∧
    (s.highLevelTest k).staged = s.staged ∧
    (s.highLevelTest k).metro = s.metro ∧
    (s.highLevelTest k).readers = s.readers ∧
    (s.highLevelTest k).table = s.table ∧
    (s.highLevelTest k).hoses = s.hoses ∧
    (s.highLevelTest k).pumps = s.pumps ∧
    (s.highLevelTest k).meters = s.meters ∧
    (s.highLevelTest k).sampler = s.sampler ∧
    (s.highLevelTest k).log = s.log ∧
    (s.highLevelTest k).link = s.link ∧
    (s.highLevelTest k).losses = s.losses ∧
    (s.highLevelTest k).free = s.free ∧
    (s.highLevelTest k).pending = s.pending := by
  unfold State.highLevelTest; (try dsimp only); (repeat' split) <;> simp

@[simp] theorem State.changeBook_frame (k : CompId) (d : Int) (s : State) :
    (s.changeBook k d).pins = s.pins ∧
    (s.changeBook k d).isSealed = s.isSealed ∧
    (s.changeBook k d).now = s.now ∧
    (s.changeBook k d).estopLatch = s.estopLatch ∧
    (s.changeBook k d).metroFault = s.metroFault ∧
    (s.changeBook k d).scanDue = s.scanDue ∧
    (s.changeBook k d).config = s.config ∧
    (s.changeBook k d).profiles = s.profiles ∧
    (s.changeBook k d).staged = s.staged ∧
    (s.changeBook k d).metro = s.metro ∧
    (s.changeBook k d).readers = s.readers ∧
    (s.changeBook k d).table = s.table ∧
    (s.changeBook k d).hoses = s.hoses ∧
    (s.changeBook k d).pumps = s.pumps ∧
    (s.changeBook k d).meters = s.meters ∧
    (s.changeBook k d).sampler = s.sampler ∧
    (s.changeBook k d).log = s.log ∧
    (s.changeBook k d).losses = s.losses ∧
    (s.changeBook k d).free = s.free ∧
    (s.changeBook k d).pending = s.pending := by
  simp [State.changeBook]

@[simp] theorem State.closeReceipt_frame (x : Session) (s : State) :
    (s.closeReceipt x).pins = s.pins ∧
    (s.closeReceipt x).isSealed = s.isSealed ∧
    (s.closeReceipt x).now = s.now ∧
    (s.closeReceipt x).estopLatch = s.estopLatch ∧
    (s.closeReceipt x).metroFault = s.metroFault ∧
    (s.closeReceipt x).scanDue = s.scanDue ∧
    (s.closeReceipt x).config = s.config ∧
    (s.closeReceipt x).profiles = s.profiles ∧
    (s.closeReceipt x).staged = s.staged ∧
    (s.closeReceipt x).metro = s.metro ∧
    (s.closeReceipt x).readers = s.readers ∧
    (s.closeReceipt x).table = s.table ∧
    (s.closeReceipt x).hoses = s.hoses ∧
    (s.closeReceipt x).pumps = s.pumps ∧
    (s.closeReceipt x).meters = s.meters ∧
    (s.closeReceipt x).sampler = s.sampler ∧
    (s.closeReceipt x).losses = s.losses ∧
    (s.closeReceipt x).pending = s.pending := by
  simp [State.closeReceipt]

@[simp] theorem State.reconcile_frame (k : CompId) (g : Int) (s : State) :
    (s.reconcile k g).pins = s.pins ∧
    (s.reconcile k g).isSealed = s.isSealed ∧
    (s.reconcile k g).now = s.now ∧
    (s.reconcile k g).estopLatch = s.estopLatch ∧
    (s.reconcile k g).metroFault = s.metroFault ∧
    (s.reconcile k g).scanDue = s.scanDue ∧
    (s.reconcile k g).config = s.config ∧
    (s.reconcile k g).profiles = s.profiles ∧
    (s.reconcile k g).staged = s.staged ∧
    (s.reconcile k g).metro = s.metro ∧
    (s.reconcile k g).readers = s.readers ∧
    (s.reconcile k g).table = s.table ∧
    (s.reconcile k g).hoses = s.hoses ∧
    (s.reconcile k g).pumps = s.pumps ∧
    (s.reconcile k g).meters = s.meters ∧
    (s.reconcile k g).sampler = s.sampler ∧
    (s.reconcile k g).log = s.log ∧
    (s.reconcile k g).link = s.link ∧
    (s.reconcile k g).losses = s.losses ∧
    (s.reconcile k g).free = s.free ∧
    (s.reconcile k g).pending = s.pending := by
  unfold State.reconcile; (try dsimp only); (repeat' split) <;> simp

@[simp] theorem State.levelBlock_frame (k : CompId) (v : Nat) (s : State) :
    (s.levelBlock k v).pins = s.pins ∧
    (s.levelBlock k v).isSealed = s.isSealed ∧
    (s.levelBlock k v).now = s.now ∧
    (s.levelBlock k v).estopLatch = s.estopLatch ∧
    (s.levelBlock k v).metroFault = s.metroFault ∧
    (s.levelBlock k v).scanDue = s.scanDue ∧
    (s.levelBlock k v).config = s.config ∧
    (s.levelBlock k v).profiles = s.profiles ∧
    (s.levelBlock k v).staged = s.staged ∧
    (s.levelBlock k v).metro = s.metro ∧
    (s.levelBlock k v).readers = s.readers ∧
    (s.levelBlock k v).table = s.table ∧
    (s.levelBlock k v).hoses = s.hoses ∧
    (s.levelBlock k v).pumps = s.pumps ∧
    (s.levelBlock k v).meters = s.meters ∧
    (s.levelBlock k v).sampler = s.sampler ∧
    (s.levelBlock k v).log = s.log ∧
    (s.levelBlock k v).link = s.link ∧
    (s.levelBlock k v).losses = s.losses ∧
    (s.levelBlock k v).free = s.free ∧
    (s.levelBlock k v).pending = s.pending := by
  unfold State.levelBlock; (try dsimp only); split <;> simp

@[simp] theorem State.setStock_frame (k : CompId) (v : Int) (s : State) :
    (s.setStock k v).pins = s.pins ∧
    (s.setStock k v).isSealed = s.isSealed ∧
    (s.setStock k v).now = s.now ∧
    (s.setStock k v).estopLatch = s.estopLatch ∧
    (s.setStock k v).metroFault = s.metroFault ∧
    (s.setStock k v).scanDue = s.scanDue ∧
    (s.setStock k v).config = s.config ∧
    (s.setStock k v).profiles = s.profiles ∧
    (s.setStock k v).staged = s.staged ∧
    (s.setStock k v).metro = s.metro ∧
    (s.setStock k v).readers = s.readers ∧
    (s.setStock k v).table = s.table ∧
    (s.setStock k v).hoses = s.hoses ∧
    (s.setStock k v).pumps = s.pumps ∧
    (s.setStock k v).meters = s.meters ∧
    (s.setStock k v).sampler = s.sampler ∧
    (s.setStock k v).losses = s.losses ∧
    (s.setStock k v).pending = s.pending := by
  simp [State.setStock]

@[simp] theorem State.reselect_frame (k : CompId) (s : State) :
    (s.reselect k).pins = s.pins ∧
    (s.reselect k).isSealed = s.isSealed ∧
    (s.reselect k).now = s.now ∧
    (s.reselect k).estopLatch = s.estopLatch ∧
    (s.reselect k).metroFault = s.metroFault ∧
    (s.reselect k).scanDue = s.scanDue ∧
    (s.reselect k).config = s.config ∧
    (s.reselect k).profiles = s.profiles ∧
    (s.reselect k).staged = s.staged ∧
    (s.reselect k).metro = s.metro ∧
    (s.reselect k).readers = s.readers ∧
    (s.reselect k).table = s.table ∧
    (s.reselect k).hoses = s.hoses ∧
    (s.reselect k).meters = s.meters ∧
    (s.reselect k).sampler = s.sampler ∧
    (s.reselect k).log = s.log ∧
    (s.reselect k).stock = s.stock ∧
    (s.reselect k).link = s.link ∧
    (s.reselect k).port = s.port ∧
    (s.reselect k).losses = s.losses ∧
    (s.reselect k).free = s.free ∧
    (s.reselect k).pending = s.pending := by
  simp [State.reselect]

@[simp] theorem State.claim_frame (n : HoseId) (s : State) :
    (s.claim n).pins = s.pins ∧
    (s.claim n).isSealed = s.isSealed ∧
    (s.claim n).now = s.now ∧
    (s.claim n).estopLatch = s.estopLatch ∧
    (s.claim n).metroFault = s.metroFault ∧
    (s.claim n).scanDue = s.scanDue ∧
    (s.claim n).config = s.config ∧
    (s.claim n).profiles = s.profiles ∧
    (s.claim n).staged = s.staged ∧
    (s.claim n).metro = s.metro ∧
    (s.claim n).readers = s.readers ∧
    (s.claim n).table = s.table ∧
    (s.claim n).hoses = s.hoses ∧
    (s.claim n).meters = s.meters ∧
    (s.claim n).sampler = s.sampler ∧
    (s.claim n).log = s.log ∧
    (s.claim n).stock = s.stock ∧
    (s.claim n).link = s.link ∧
    (s.claim n).port = s.port ∧
    (s.claim n).losses = s.losses ∧
    (s.claim n).free = s.free ∧
    (s.claim n).pending = s.pending := by
  simp [State.claim]

@[simp] theorem State.release_frame (n : HoseId) (s : State) :
    (s.release n).pins = s.pins ∧
    (s.release n).isSealed = s.isSealed ∧
    (s.release n).now = s.now ∧
    (s.release n).estopLatch = s.estopLatch ∧
    (s.release n).metroFault = s.metroFault ∧
    (s.release n).scanDue = s.scanDue ∧
    (s.release n).config = s.config ∧
    (s.release n).profiles = s.profiles ∧
    (s.release n).staged = s.staged ∧
    (s.release n).metro = s.metro ∧
    (s.release n).readers = s.readers ∧
    (s.release n).table = s.table ∧
    (s.release n).hoses = s.hoses ∧
    (s.release n).meters = s.meters ∧
    (s.release n).sampler = s.sampler ∧
    (s.release n).log = s.log ∧
    (s.release n).stock = s.stock ∧
    (s.release n).link = s.link ∧
    (s.release n).port = s.port ∧
    (s.release n).losses = s.losses ∧
    (s.release n).free = s.free ∧
    (s.release n).pending = s.pending := by
  simp [State.release]

@[simp] theorem State.dropGrant_frame (n : HoseId) (s : State) :
    (s.dropGrant n).pins = s.pins ∧
    (s.dropGrant n).isSealed = s.isSealed ∧
    (s.dropGrant n).now = s.now ∧
    (s.dropGrant n).estopLatch = s.estopLatch ∧
    (s.dropGrant n).metroFault = s.metroFault ∧
    (s.dropGrant n).scanDue = s.scanDue ∧
    (s.dropGrant n).config = s.config ∧
    (s.dropGrant n).profiles = s.profiles ∧
    (s.dropGrant n).staged = s.staged ∧
    (s.dropGrant n).metro = s.metro ∧
    (s.dropGrant n).readers = s.readers ∧
    (s.dropGrant n).table = s.table ∧
    (s.dropGrant n).hoses = s.hoses ∧
    (s.dropGrant n).meters = s.meters ∧
    (s.dropGrant n).sampler = s.sampler ∧
    (s.dropGrant n).log = s.log ∧
    (s.dropGrant n).stock = s.stock ∧
    (s.dropGrant n).link = s.link ∧
    (s.dropGrant n).port = s.port ∧
    (s.dropGrant n).losses = s.losses ∧
    (s.dropGrant n).free = s.free ∧
    (s.dropGrant n).pending = s.pending := by
  simp [State.dropGrant]

@[simp] theorem State.requestGrant_frame (n : HoseId) (s : State) :
    (s.requestGrant n).pins = s.pins ∧
    (s.requestGrant n).isSealed = s.isSealed ∧
    (s.requestGrant n).now = s.now ∧
    (s.requestGrant n).estopLatch = s.estopLatch ∧
    (s.requestGrant n).metroFault = s.metroFault ∧
    (s.requestGrant n).scanDue = s.scanDue ∧
    (s.requestGrant n).config = s.config ∧
    (s.requestGrant n).profiles = s.profiles ∧
    (s.requestGrant n).staged = s.staged ∧
    (s.requestGrant n).metro = s.metro ∧
    (s.requestGrant n).readers = s.readers ∧
    (s.requestGrant n).table = s.table ∧
    (s.requestGrant n).hoses = s.hoses ∧
    (s.requestGrant n).meters = s.meters ∧
    (s.requestGrant n).sampler = s.sampler ∧
    (s.requestGrant n).log = s.log ∧
    (s.requestGrant n).stock = s.stock ∧
    (s.requestGrant n).link = s.link ∧
    (s.requestGrant n).port = s.port ∧
    (s.requestGrant n).losses = s.losses ∧
    (s.requestGrant n).free = s.free ∧
    (s.requestGrant n).pending = s.pending := by
  simp [State.requestGrant]

@[simp] theorem State.stopPump_frame (k : CompId) (s : State) :
    (s.stopPump k).pins = s.pins ∧
    (s.stopPump k).isSealed = s.isSealed ∧
    (s.stopPump k).now = s.now ∧
    (s.stopPump k).estopLatch = s.estopLatch ∧
    (s.stopPump k).metroFault = s.metroFault ∧
    (s.stopPump k).scanDue = s.scanDue ∧
    (s.stopPump k).config = s.config ∧
    (s.stopPump k).profiles = s.profiles ∧
    (s.stopPump k).staged = s.staged ∧
    (s.stopPump k).metro = s.metro ∧
    (s.stopPump k).readers = s.readers ∧
    (s.stopPump k).table = s.table ∧
    (s.stopPump k).hoses = s.hoses ∧
    (s.stopPump k).meters = s.meters ∧
    (s.stopPump k).sampler = s.sampler ∧
    (s.stopPump k).log = s.log ∧
    (s.stopPump k).stock = s.stock ∧
    (s.stopPump k).link = s.link ∧
    (s.stopPump k).port = s.port ∧
    (s.stopPump k).losses = s.losses ∧
    (s.stopPump k).free = s.free ∧
    (s.stopPump k).pending = s.pending := by
  simp [State.stopPump]

@[simp] theorem State.writeJournal_frame (n : HoseId) (s : State) :
    (s.writeJournal n).pins = s.pins ∧
    (s.writeJournal n).isSealed = s.isSealed ∧
    (s.writeJournal n).now = s.now ∧
    (s.writeJournal n).estopLatch = s.estopLatch ∧
    (s.writeJournal n).metroFault = s.metroFault ∧
    (s.writeJournal n).scanDue = s.scanDue ∧
    (s.writeJournal n).config = s.config ∧
    (s.writeJournal n).profiles = s.profiles ∧
    (s.writeJournal n).staged = s.staged ∧
    (s.writeJournal n).metro = s.metro ∧
    (s.writeJournal n).readers = s.readers ∧
    (s.writeJournal n).table = s.table ∧
    (s.writeJournal n).pumps = s.pumps ∧
    (s.writeJournal n).meters = s.meters ∧
    (s.writeJournal n).sampler = s.sampler ∧
    (s.writeJournal n).log = s.log ∧
    (s.writeJournal n).stock = s.stock ∧
    (s.writeJournal n).link = s.link ∧
    (s.writeJournal n).port = s.port ∧
    (s.writeJournal n).losses = s.losses ∧
    (s.writeJournal n).free = s.free ∧
    (s.writeJournal n).pending = s.pending := by
  simp [State.writeJournal]

@[simp] theorem State.applyPending_frame (n : HoseId) (s : State) :
    (s.applyPending n).pins = s.pins ∧
    (s.applyPending n).isSealed = s.isSealed ∧
    (s.applyPending n).now = s.now ∧
    (s.applyPending n).estopLatch = s.estopLatch ∧
    (s.applyPending n).metroFault = s.metroFault ∧
    (s.applyPending n).scanDue = s.scanDue ∧
    (s.applyPending n).config = s.config ∧
    (s.applyPending n).profiles = s.profiles ∧
    (s.applyPending n).staged = s.staged ∧
    (s.applyPending n).metro = s.metro ∧
    (s.applyPending n).readers = s.readers ∧
    (s.applyPending n).table = s.table ∧
    (s.applyPending n).pumps = s.pumps ∧
    (s.applyPending n).meters = s.meters ∧
    (s.applyPending n).sampler = s.sampler ∧
    (s.applyPending n).log = s.log ∧
    (s.applyPending n).stock = s.stock ∧
    (s.applyPending n).link = s.link ∧
    (s.applyPending n).port = s.port ∧
    (s.applyPending n).losses = s.losses ∧
    (s.applyPending n).free = s.free ∧
    (s.applyPending n).pending = s.pending := by
  simp [State.applyPending]

@[simp] theorem State.toRest_frame (n : HoseId) (s : State) :
    (s.toRest n).pins = s.pins ∧
    (s.toRest n).isSealed = s.isSealed ∧
    (s.toRest n).now = s.now ∧
    (s.toRest n).estopLatch = s.estopLatch ∧
    (s.toRest n).metroFault = s.metroFault ∧
    (s.toRest n).scanDue = s.scanDue ∧
    (s.toRest n).config = s.config ∧
    (s.toRest n).profiles = s.profiles ∧
    (s.toRest n).staged = s.staged ∧
    (s.toRest n).metro = s.metro ∧
    (s.toRest n).readers = s.readers ∧
    (s.toRest n).table = s.table ∧
    (s.toRest n).pumps = s.pumps ∧
    (s.toRest n).meters = s.meters ∧
    (s.toRest n).sampler = s.sampler ∧
    (s.toRest n).log = s.log ∧
    (s.toRest n).stock = s.stock ∧
    (s.toRest n).link = s.link ∧
    (s.toRest n).port = s.port ∧
    (s.toRest n).losses = s.losses ∧
    (s.toRest n).free = s.free ∧
    (s.toRest n).pending = s.pending := by
  simp [State.toRest]

@[simp] theorem State.disarm_frame (n : HoseId) (s : State) :
    (s.disarm n).pins = s.pins ∧
    (s.disarm n).isSealed = s.isSealed ∧
    (s.disarm n).now = s.now ∧
    (s.disarm n).estopLatch = s.estopLatch ∧
    (s.disarm n).metroFault = s.metroFault ∧
    (s.disarm n).scanDue = s.scanDue ∧
    (s.disarm n).config = s.config ∧
    (s.disarm n).profiles = s.profiles ∧
    (s.disarm n).staged = s.staged ∧
    (s.disarm n).metro = s.metro ∧
    (s.disarm n).readers = s.readers ∧
    (s.disarm n).table = s.table ∧
    (s.disarm n).hoses = s.hoses ∧
    (s.disarm n).pumps = s.pumps ∧
    (s.disarm n).meters = s.meters ∧
    (s.disarm n).sampler = s.sampler ∧
    (s.disarm n).stock = s.stock ∧
    (s.disarm n).losses = s.losses ∧
    (s.disarm n).free = s.free ∧
    (s.disarm n).pending = s.pending := by
  simp [State.disarm]

@[simp] theorem State.cancel_frame (n : HoseId) (s : State) :
    (s.cancel n).pins = s.pins ∧
    (s.cancel n).isSealed = s.isSealed ∧
    (s.cancel n).now = s.now ∧
    (s.cancel n).estopLatch = s.estopLatch ∧
    (s.cancel n).metroFault = s.metroFault ∧
    (s.cancel n).scanDue = s.scanDue ∧
    (s.cancel n).config = s.config ∧
    (s.cancel n).profiles = s.profiles ∧
    (s.cancel n).staged = s.staged ∧
    (s.cancel n).metro = s.metro ∧
    (s.cancel n).readers = s.readers ∧
    (s.cancel n).table = s.table ∧
    (s.cancel n).pumps = s.pumps ∧
    (s.cancel n).meters = s.meters ∧
    (s.cancel n).sampler = s.sampler ∧
    (s.cancel n).stock = s.stock ∧
    (s.cancel n).losses = s.losses ∧
    (s.cancel n).free = s.free ∧
    (s.cancel n).pending = s.pending := by
  unfold State.cancel; (try dsimp only); split_ifs <;> simp

@[simp] theorem State.enterSettling_frame (n : HoseId) (c : EndCause) (s : State) :
    (s.enterSettling n c).pins = s.pins ∧
    (s.enterSettling n c).isSealed = s.isSealed ∧
    (s.enterSettling n c).now = s.now ∧
    (s.enterSettling n c).estopLatch = s.estopLatch ∧
    (s.enterSettling n c).metroFault = s.metroFault ∧
    (s.enterSettling n c).scanDue = s.scanDue ∧
    (s.enterSettling n c).config = s.config ∧
    (s.enterSettling n c).profiles = s.profiles ∧
    (s.enterSettling n c).staged = s.staged ∧
    (s.enterSettling n c).metro = s.metro ∧
    (s.enterSettling n c).readers = s.readers ∧
    (s.enterSettling n c).table = s.table ∧
    (s.enterSettling n c).meters = s.meters ∧
    (s.enterSettling n c).sampler = s.sampler ∧
    (s.enterSettling n c).log = s.log ∧
    (s.enterSettling n c).stock = s.stock ∧
    (s.enterSettling n c).link = s.link ∧
    (s.enterSettling n c).port = s.port ∧
    (s.enterSettling n c).losses = s.losses ∧
    (s.enterSettling n c).free = s.free ∧
    (s.enterSettling n c).pending = s.pending := by
  simp [State.enterSettling]

@[simp] theorem State.pause_frame (n : HoseId) (s : State) :
    (s.pause n).pins = s.pins ∧
    (s.pause n).isSealed = s.isSealed ∧
    (s.pause n).now = s.now ∧
    (s.pause n).estopLatch = s.estopLatch ∧
    (s.pause n).metroFault = s.metroFault ∧
    (s.pause n).scanDue = s.scanDue ∧
    (s.pause n).config = s.config ∧
    (s.pause n).profiles = s.profiles ∧
    (s.pause n).staged = s.staged ∧
    (s.pause n).metro = s.metro ∧
    (s.pause n).readers = s.readers ∧
    (s.pause n).table = s.table ∧
    (s.pause n).meters = s.meters ∧
    (s.pause n).sampler = s.sampler ∧
    (s.pause n).log = s.log ∧
    (s.pause n).stock = s.stock ∧
    (s.pause n).link = s.link ∧
    (s.pause n).port = s.port ∧
    (s.pause n).losses = s.losses ∧
    (s.pause n).free = s.free ∧
    (s.pause n).pending = s.pending := by
  simp [State.pause]

@[simp] theorem State.detach_frame (m : MeterId) (s : State) :
    (s.detach m).pins = s.pins ∧
    (s.detach m).isSealed = s.isSealed ∧
    (s.detach m).now = s.now ∧
    (s.detach m).estopLatch = s.estopLatch ∧
    (s.detach m).metroFault = s.metroFault ∧
    (s.detach m).scanDue = s.scanDue ∧
    (s.detach m).config = s.config ∧
    (s.detach m).profiles = s.profiles ∧
    (s.detach m).staged = s.staged ∧
    (s.detach m).metro = s.metro ∧
    (s.detach m).readers = s.readers ∧
    (s.detach m).table = s.table ∧
    (s.detach m).hoses = s.hoses ∧
    (s.detach m).pumps = s.pumps ∧
    (s.detach m).sampler = s.sampler ∧
    (s.detach m).log = s.log ∧
    (s.detach m).stock = s.stock ∧
    (s.detach m).link = s.link ∧
    (s.detach m).port = s.port ∧
    (s.detach m).losses = s.losses ∧
    (s.detach m).free = s.free ∧
    (s.detach m).pending = s.pending := by
  simp [State.detach]

@[simp] theorem State.closeDelivery_frame (n : HoseId) (s : State) :
    (s.closeDelivery n).pins = s.pins ∧
    (s.closeDelivery n).isSealed = s.isSealed ∧
    (s.closeDelivery n).now = s.now ∧
    (s.closeDelivery n).estopLatch = s.estopLatch ∧
    (s.closeDelivery n).metroFault = s.metroFault ∧
    (s.closeDelivery n).scanDue = s.scanDue ∧
    (s.closeDelivery n).config = s.config ∧
    (s.closeDelivery n).profiles = s.profiles ∧
    (s.closeDelivery n).staged = s.staged ∧
    (s.closeDelivery n).metro = s.metro ∧
    (s.closeDelivery n).readers = s.readers ∧
    (s.closeDelivery n).pumps = s.pumps ∧
    (s.closeDelivery n).sampler = s.sampler ∧
    (s.closeDelivery n).losses = s.losses ∧
    (s.closeDelivery n).pending = s.pending := by
  simp [State.closeDelivery]

@[simp] theorem State.settleWindow_frame (n : HoseId) (c : Int) (s : State) :
    (s.settleWindow n c).pins = s.pins ∧
    (s.settleWindow n c).isSealed = s.isSealed ∧
    (s.settleWindow n c).now = s.now ∧
    (s.settleWindow n c).estopLatch = s.estopLatch ∧
    (s.settleWindow n c).metroFault = s.metroFault ∧
    (s.settleWindow n c).scanDue = s.scanDue ∧
    (s.settleWindow n c).config = s.config ∧
    (s.settleWindow n c).profiles = s.profiles ∧
    (s.settleWindow n c).staged = s.staged ∧
    (s.settleWindow n c).metro = s.metro ∧
    (s.settleWindow n c).readers = s.readers ∧
    (s.settleWindow n c).pumps = s.pumps ∧
    (s.settleWindow n c).sampler = s.sampler ∧
    (s.settleWindow n c).losses = s.losses ∧
    (s.settleWindow n c).pending = s.pending := by
  unfold State.settleWindow; (try dsimp only); (repeat' split) <;> simp

@[simp] theorem State.identified_frame (n : HoseId) (i : Ident) (l : Nat) (s : State) :
    (s.identified n i l).pins = s.pins ∧
    (s.identified n i l).isSealed = s.isSealed ∧
    (s.identified n i l).now = s.now ∧
    (s.identified n i l).estopLatch = s.estopLatch ∧
    (s.identified n i l).metroFault = s.metroFault ∧
    (s.identified n i l).scanDue = s.scanDue ∧
    (s.identified n i l).config = s.config ∧
    (s.identified n i l).profiles = s.profiles ∧
    (s.identified n i l).staged = s.staged ∧
    (s.identified n i l).metro = s.metro ∧
    (s.identified n i l).readers = s.readers ∧
    (s.identified n i l).table = s.table ∧
    (s.identified n i l).pumps = s.pumps ∧
    (s.identified n i l).meters = s.meters ∧
    (s.identified n i l).sampler = s.sampler ∧
    (s.identified n i l).log = s.log ∧
    (s.identified n i l).stock = s.stock ∧
    (s.identified n i l).link = s.link ∧
    (s.identified n i l).losses = s.losses ∧
    (s.identified n i l).free = s.free ∧
    (s.identified n i l).pending = s.pending := by
  simp [State.identified]

@[simp] theorem State.unidentified_frame (n : HoseId) (r : UnidReason) (s : State) :
    (s.unidentified n r).pins = s.pins ∧
    (s.unidentified n r).isSealed = s.isSealed ∧
    (s.unidentified n r).now = s.now ∧
    (s.unidentified n r).estopLatch = s.estopLatch ∧
    (s.unidentified n r).metroFault = s.metroFault ∧
    (s.unidentified n r).scanDue = s.scanDue ∧
    (s.unidentified n r).config = s.config ∧
    (s.unidentified n r).profiles = s.profiles ∧
    (s.unidentified n r).staged = s.staged ∧
    (s.unidentified n r).metro = s.metro ∧
    (s.unidentified n r).readers = s.readers ∧
    (s.unidentified n r).table = s.table ∧
    (s.unidentified n r).pumps = s.pumps ∧
    (s.unidentified n r).meters = s.meters ∧
    (s.unidentified n r).sampler = s.sampler ∧
    (s.unidentified n r).log = s.log ∧
    (s.unidentified n r).stock = s.stock ∧
    (s.unidentified n r).link = s.link ∧
    (s.unidentified n r).losses = s.losses ∧
    (s.unidentified n r).free = s.free ∧
    (s.unidentified n r).pending = s.pending := by
  simp [State.unidentified]

@[simp] theorem State.handOver_frame (n : HoseId) (st : StepState) (s : State) :
    (s.handOver n st).pins = s.pins ∧
    (s.handOver n st).isSealed = s.isSealed ∧
    (s.handOver n st).now = s.now ∧
    (s.handOver n st).estopLatch = s.estopLatch ∧
    (s.handOver n st).metroFault = s.metroFault ∧
    (s.handOver n st).scanDue = s.scanDue ∧
    (s.handOver n st).config = s.config ∧
    (s.handOver n st).profiles = s.profiles ∧
    (s.handOver n st).staged = s.staged ∧
    (s.handOver n st).metro = s.metro ∧
    (s.handOver n st).readers = s.readers ∧
    (s.handOver n st).table = s.table ∧
    (s.handOver n st).meters = s.meters ∧
    (s.handOver n st).sampler = s.sampler ∧
    (s.handOver n st).log = s.log ∧
    (s.handOver n st).stock = s.stock ∧
    (s.handOver n st).link = s.link ∧
    (s.handOver n st).port = s.port ∧
    (s.handOver n st).losses = s.losses ∧
    (s.handOver n st).free = s.free ∧
    (s.handOver n st).pending = s.pending := by
  unfold State.handOver; (try dsimp only); (repeat' split) <;> simp

@[simp] theorem State.enterFlowing_frame (n : HoseId) (s : State) :
    (s.enterFlowing n).pins = s.pins ∧
    (s.enterFlowing n).isSealed = s.isSealed ∧
    (s.enterFlowing n).now = s.now ∧
    (s.enterFlowing n).estopLatch = s.estopLatch ∧
    (s.enterFlowing n).metroFault = s.metroFault ∧
    (s.enterFlowing n).scanDue = s.scanDue ∧
    (s.enterFlowing n).config = s.config ∧
    (s.enterFlowing n).profiles = s.profiles ∧
    (s.enterFlowing n).staged = s.staged ∧
    (s.enterFlowing n).metro = s.metro ∧
    (s.enterFlowing n).readers = s.readers ∧
    (s.enterFlowing n).table = s.table ∧
    (s.enterFlowing n).meters = s.meters ∧
    (s.enterFlowing n).sampler = s.sampler ∧
    (s.enterFlowing n).log = s.log ∧
    (s.enterFlowing n).stock = s.stock ∧
    (s.enterFlowing n).link = s.link ∧
    (s.enterFlowing n).port = s.port ∧
    (s.enterFlowing n).losses = s.losses ∧
    (s.enterFlowing n).free = s.free ∧
    (s.enterFlowing n).pending = s.pending := by
  unfold State.enterFlowing; (try dsimp only); (repeat' split) <;> simp

@[simp] theorem State.stepTest_frame (n : HoseId) (st : StepState) (s : State) :
    (s.stepTest n st).pins = s.pins ∧
    (s.stepTest n st).isSealed = s.isSealed ∧
    (s.stepTest n st).now = s.now ∧
    (s.stepTest n st).estopLatch = s.estopLatch ∧
    (s.stepTest n st).metroFault = s.metroFault ∧
    (s.stepTest n st).scanDue = s.scanDue ∧
    (s.stepTest n st).config = s.config ∧
    (s.stepTest n st).profiles = s.profiles ∧
    (s.stepTest n st).staged = s.staged ∧
    (s.stepTest n st).metro = s.metro ∧
    (s.stepTest n st).readers = s.readers ∧
    (s.stepTest n st).table = s.table ∧
    (s.stepTest n st).meters = s.meters ∧
    (s.stepTest n st).sampler = s.sampler ∧
    (s.stepTest n st).log = s.log ∧
    (s.stepTest n st).stock = s.stock ∧
    (s.stepTest n st).link = s.link ∧
    (s.stepTest n st).port = s.port ∧
    (s.stepTest n st).losses = s.losses ∧
    (s.stepTest n st).free = s.free ∧
    (s.stepTest n st).pending = s.pending := by
  unfold State.stepTest; (try dsimp only); (repeat' split) <;> simp

@[simp] theorem State.evaluateHose_frame (n : HoseId) (r : Nat) (s : State) :
    (s.evaluateHose n r).pins = s.pins ∧
    (s.evaluateHose n r).isSealed = s.isSealed ∧
    (s.evaluateHose n r).now = s.now ∧
    (s.evaluateHose n r).estopLatch = s.estopLatch ∧
    (s.evaluateHose n r).metroFault = s.metroFault ∧
    (s.evaluateHose n r).scanDue = s.scanDue ∧
    (s.evaluateHose n r).config = s.config ∧
    (s.evaluateHose n r).profiles = s.profiles ∧
    (s.evaluateHose n r).staged = s.staged ∧
    (s.evaluateHose n r).metro = s.metro ∧
    (s.evaluateHose n r).readers = s.readers ∧
    (s.evaluateHose n r).table = s.table ∧
    (s.evaluateHose n r).meters = s.meters ∧
    (s.evaluateHose n r).sampler = s.sampler ∧
    (s.evaluateHose n r).log = s.log ∧
    (s.evaluateHose n r).stock = s.stock ∧
    (s.evaluateHose n r).link = s.link ∧
    (s.evaluateHose n r).port = s.port ∧
    (s.evaluateHose n r).losses = s.losses ∧
    (s.evaluateHose n r).free = s.free ∧
    (s.evaluateHose n r).pending = s.pending := by
  unfold State.evaluateHose; (try dsimp only); (repeat' split) <;> simp

@[simp] theorem State.waitingWork_frame (n : HoseId) (s : State) :
    (s.waitingWork n).pins = s.pins ∧
    (s.waitingWork n).isSealed = s.isSealed ∧
    (s.waitingWork n).now = s.now ∧
    (s.waitingWork n).estopLatch = s.estopLatch ∧
    (s.waitingWork n).metroFault = s.metroFault ∧
    (s.waitingWork n).scanDue = s.scanDue ∧
    (s.waitingWork n).config = s.config ∧
    (s.waitingWork n).profiles = s.profiles ∧
    (s.waitingWork n).staged = s.staged ∧
    (s.waitingWork n).metro = s.metro ∧
    (s.waitingWork n).readers = s.readers ∧
    (s.waitingWork n).table = s.table ∧
    (s.waitingWork n).meters = s.meters ∧
    (s.waitingWork n).sampler = s.sampler ∧
    (s.waitingWork n).log = s.log ∧
    (s.waitingWork n).stock = s.stock ∧
    (s.waitingWork n).link = s.link ∧
    (s.waitingWork n).port = s.port ∧
    (s.waitingWork n).losses = s.losses ∧
    (s.waitingWork n).free = s.free ∧
    (s.waitingWork n).pending = s.pending := by
  unfold State.waitingWork; (try dsimp only); (repeat' split) <;> simp

@[simp] theorem State.stateWork_frame (n : HoseId) (w : Window) (st : HoseState) (s : State) :
    (s.stateWork n w st).pins = s.pins ∧
    (s.stateWork n w st).isSealed = s.isSealed ∧
    (s.stateWork n w st).now = s.now ∧
    (s.stateWork n w st).estopLatch = s.estopLatch ∧
    (s.stateWork n w st).metroFault = s.metroFault ∧
    (s.stateWork n w st).scanDue = s.scanDue ∧
    (s.stateWork n w st).config = s.config ∧
    (s.stateWork n w st).profiles = s.profiles ∧
    (s.stateWork n w st).staged = s.staged ∧
    (s.stateWork n w st).metro = s.metro ∧
    (s.stateWork n w st).readers = s.readers ∧
    (s.stateWork n w st).sampler = s.sampler ∧
    (s.stateWork n w st).losses = s.losses ∧
    (s.stateWork n w st).pending = s.pending := by
  unfold State.stateWork; (try dsimp only); split <;> simp

@[simp] theorem State.endWindow_frame (n : HoseId) (s : State) :
    (s.endWindow n).pins = s.pins ∧
    (s.endWindow n).isSealed = s.isSealed ∧
    (s.endWindow n).now = s.now ∧
    (s.endWindow n).estopLatch = s.estopLatch ∧
    (s.endWindow n).metroFault = s.metroFault ∧
    (s.endWindow n).scanDue = s.scanDue ∧
    (s.endWindow n).config = s.config ∧
    (s.endWindow n).profiles = s.profiles ∧
    (s.endWindow n).staged = s.staged ∧
    (s.endWindow n).metro = s.metro ∧
    (s.endWindow n).readers = s.readers ∧
    (s.endWindow n).table = s.table ∧
    (s.endWindow n).pumps = s.pumps ∧
    (s.endWindow n).meters = s.meters ∧
    (s.endWindow n).sampler = s.sampler ∧
    (s.endWindow n).log = s.log ∧
    (s.endWindow n).stock = s.stock ∧
    (s.endWindow n).link = s.link ∧
    (s.endWindow n).port = s.port ∧
    (s.endWindow n).losses = s.losses ∧
    (s.endWindow n).free = s.free ∧
    (s.endWindow n).pending = s.pending := by
  unfold State.endWindow; (try dsimp only); split_ifs <;> simp

@[simp] theorem State.deliveryWindow_frame (n : HoseId) (w : Window) (s : State) :
    (s.deliveryWindow n w).pins = s.pins ∧
    (s.deliveryWindow n w).isSealed = s.isSealed ∧
    (s.deliveryWindow n w).now = s.now ∧
    (s.deliveryWindow n w).estopLatch = s.estopLatch ∧
    (s.deliveryWindow n w).metroFault = s.metroFault ∧
    (s.deliveryWindow n w).scanDue = s.scanDue ∧
    (s.deliveryWindow n w).config = s.config ∧
    (s.deliveryWindow n w).profiles = s.profiles ∧
    (s.deliveryWindow n w).staged = s.staged ∧
    (s.deliveryWindow n w).metro = s.metro ∧
    (s.deliveryWindow n w).readers = s.readers ∧
    (s.deliveryWindow n w).sampler = s.sampler ∧
    (s.deliveryWindow n w).losses = s.losses ∧
    (s.deliveryWindow n w).pending = s.pending := by
  unfold State.deliveryWindow; (try dsimp only); (repeat' split) <;> simp

@[simp] theorem State.noteRate_frame (m : MeterId) (r : Nat) (s : State) :
    (s.noteRate m r).pins = s.pins ∧
    (s.noteRate m r).isSealed = s.isSealed ∧
    (s.noteRate m r).now = s.now ∧
    (s.noteRate m r).estopLatch = s.estopLatch ∧
    (s.noteRate m r).metroFault = s.metroFault ∧
    (s.noteRate m r).scanDue = s.scanDue ∧
    (s.noteRate m r).config = s.config ∧
    (s.noteRate m r).profiles = s.profiles ∧
    (s.noteRate m r).staged = s.staged ∧
    (s.noteRate m r).metro = s.metro ∧
    (s.noteRate m r).readers = s.readers ∧
    (s.noteRate m r).table = s.table ∧
    (s.noteRate m r).hoses = s.hoses ∧
    (s.noteRate m r).pumps = s.pumps ∧
    (s.noteRate m r).sampler = s.sampler ∧
    (s.noteRate m r).log = s.log ∧
    (s.noteRate m r).stock = s.stock ∧
    (s.noteRate m r).link = s.link ∧
    (s.noteRate m r).port = s.port ∧
    (s.noteRate m r).losses = s.losses ∧
    (s.noteRate m r).free = s.free ∧
    (s.noteRate m r).pending = s.pending := by
  simp [State.noteRate]

@[simp] theorem State.nextWindow_frame (m : MeterId) (d : Nat) (s : State) :
    (s.nextWindow m d).pins = s.pins ∧
    (s.nextWindow m d).isSealed = s.isSealed ∧
    (s.nextWindow m d).now = s.now ∧
    (s.nextWindow m d).estopLatch = s.estopLatch ∧
    (s.nextWindow m d).metroFault = s.metroFault ∧
    (s.nextWindow m d).scanDue = s.scanDue ∧
    (s.nextWindow m d).config = s.config ∧
    (s.nextWindow m d).profiles = s.profiles ∧
    (s.nextWindow m d).staged = s.staged ∧
    (s.nextWindow m d).metro = s.metro ∧
    (s.nextWindow m d).readers = s.readers ∧
    (s.nextWindow m d).table = s.table ∧
    (s.nextWindow m d).hoses = s.hoses ∧
    (s.nextWindow m d).pumps = s.pumps ∧
    (s.nextWindow m d).sampler = s.sampler ∧
    (s.nextWindow m d).log = s.log ∧
    (s.nextWindow m d).stock = s.stock ∧
    (s.nextWindow m d).link = s.link ∧
    (s.nextWindow m d).port = s.port ∧
    (s.nextWindow m d).losses = s.losses ∧
    (s.nextWindow m d).free = s.free ∧
    (s.nextWindow m d).pending = s.pending := by
  simp [State.nextWindow]

@[simp] theorem State.strayEpisode_frame (m : MeterId) (k : EventKind) (sub : EventSubject) (c : Int) (s : State) :
    (s.strayEpisode m k sub c).pins = s.pins ∧
    (s.strayEpisode m k sub c).isSealed = s.isSealed ∧
    (s.strayEpisode m k sub c).now = s.now ∧
    (s.strayEpisode m k sub c).estopLatch = s.estopLatch ∧
    (s.strayEpisode m k sub c).metroFault = s.metroFault ∧
    (s.strayEpisode m k sub c).scanDue = s.scanDue ∧
    (s.strayEpisode m k sub c).config = s.config ∧
    (s.strayEpisode m k sub c).profiles = s.profiles ∧
    (s.strayEpisode m k sub c).staged = s.staged ∧
    (s.strayEpisode m k sub c).metro = s.metro ∧
    (s.strayEpisode m k sub c).readers = s.readers ∧
    (s.strayEpisode m k sub c).table = s.table ∧
    (s.strayEpisode m k sub c).hoses = s.hoses ∧
    (s.strayEpisode m k sub c).pumps = s.pumps ∧
    (s.strayEpisode m k sub c).sampler = s.sampler ∧
    (s.strayEpisode m k sub c).log = s.log ∧
    (s.strayEpisode m k sub c).stock = s.stock ∧
    (s.strayEpisode m k sub c).link = s.link ∧
    (s.strayEpisode m k sub c).losses = s.losses ∧
    (s.strayEpisode m k sub c).free = s.free ∧
    (s.strayEpisode m k sub c).pending = s.pending := by
  unfold State.strayEpisode; (try dsimp only); (repeat' split) <;> simp

@[simp] theorem State.strayWindow_frame (n : HoseId) (w : Window) (s : State) :
    (s.strayWindow n w).pins = s.pins ∧
    (s.strayWindow n w).isSealed = s.isSealed ∧
    (s.strayWindow n w).now = s.now ∧
    (s.strayWindow n w).estopLatch = s.estopLatch ∧
    (s.strayWindow n w).metroFault = s.metroFault ∧
    (s.strayWindow n w).scanDue = s.scanDue ∧
    (s.strayWindow n w).config = s.config ∧
    (s.strayWindow n w).profiles = s.profiles ∧
    (s.strayWindow n w).staged = s.staged ∧
    (s.strayWindow n w).metro = s.metro ∧
    (s.strayWindow n w).readers = s.readers ∧
    (s.strayWindow n w).table = s.table ∧
    (s.strayWindow n w).hoses = s.hoses ∧
    (s.strayWindow n w).pumps = s.pumps ∧
    (s.strayWindow n w).sampler = s.sampler ∧
    (s.strayWindow n w).log = s.log ∧
    (s.strayWindow n w).losses = s.losses ∧
    (s.strayWindow n w).free = s.free ∧
    (s.strayWindow n w).pending = s.pending := by
  unfold State.strayWindow; (try dsimp only); (repeat' split) <;> simp

@[simp] theorem State.accountStray_frame (m : MeterId) (w : Window) (s : State) :
    (s.accountStray m w).pins = s.pins ∧
    (s.accountStray m w).isSealed = s.isSealed ∧
    (s.accountStray m w).now = s.now ∧
    (s.accountStray m w).estopLatch = s.estopLatch ∧
    (s.accountStray m w).metroFault = s.metroFault ∧
    (s.accountStray m w).scanDue = s.scanDue ∧
    (s.accountStray m w).config = s.config ∧
    (s.accountStray m w).profiles = s.profiles ∧
    (s.accountStray m w).staged = s.staged ∧
    (s.accountStray m w).metro = s.metro ∧
    (s.accountStray m w).readers = s.readers ∧
    (s.accountStray m w).table = s.table ∧
    (s.accountStray m w).hoses = s.hoses ∧
    (s.accountStray m w).pumps = s.pumps ∧
    (s.accountStray m w).sampler = s.sampler ∧
    (s.accountStray m w).log = s.log ∧
    (s.accountStray m w).losses = s.losses ∧
    (s.accountStray m w).free = s.free ∧
    (s.accountStray m w).pending = s.pending := by
  unfold State.accountStray; (try dsimp only); split <;> simp [State.receiptStray]

@[simp] theorem State.receiptWindow_frame (w : Window) (s : State) :
    (s.receiptWindow w).pins = s.pins ∧
    (s.receiptWindow w).isSealed = s.isSealed ∧
    (s.receiptWindow w).now = s.now ∧
    (s.receiptWindow w).estopLatch = s.estopLatch ∧
    (s.receiptWindow w).metroFault = s.metroFault ∧
    (s.receiptWindow w).scanDue = s.scanDue ∧
    (s.receiptWindow w).config = s.config ∧
    (s.receiptWindow w).profiles = s.profiles ∧
    (s.receiptWindow w).staged = s.staged ∧
    (s.receiptWindow w).metro = s.metro ∧
    (s.receiptWindow w).readers = s.readers ∧
    (s.receiptWindow w).table = s.table ∧
    (s.receiptWindow w).hoses = s.hoses ∧
    (s.receiptWindow w).pumps = s.pumps ∧
    (s.receiptWindow w).sampler = s.sampler ∧
    (s.receiptWindow w).losses = s.losses ∧
    (s.receiptWindow w).pending = s.pending := by
  unfold State.receiptWindow; (try dsimp only); (repeat' split) <;> simp

@[simp] theorem State.account_frame (m : MeterId) (w : Window) (s : State) :
    (s.account m w).pins = s.pins ∧
    (s.account m w).isSealed = s.isSealed ∧
    (s.account m w).now = s.now ∧
    (s.account m w).estopLatch = s.estopLatch ∧
    (s.account m w).metroFault = s.metroFault ∧
    (s.account m w).scanDue = s.scanDue ∧
    (s.account m w).config = s.config ∧
    (s.account m w).profiles = s.profiles ∧
    (s.account m w).staged = s.staged ∧
    (s.account m w).metro = s.metro ∧
    (s.account m w).readers = s.readers ∧
    (s.account m w).sampler = s.sampler ∧
    (s.account m w).losses = s.losses ∧
    (s.account m w).pending = s.pending := by
  unfold State.account; (try dsimp only); (repeat' split) <;> simp

@[simp] theorem State.applyArmed_frame (m : MeterId) (s : State) :
    (s.applyArmed m).pins = s.pins ∧
    (s.applyArmed m).isSealed = s.isSealed ∧
    (s.applyArmed m).now = s.now ∧
    (s.applyArmed m).estopLatch = s.estopLatch ∧
    (s.applyArmed m).metroFault = s.metroFault ∧
    (s.applyArmed m).scanDue = s.scanDue ∧
    (s.applyArmed m).config = s.config ∧
    (s.applyArmed m).profiles = s.profiles ∧
    (s.applyArmed m).staged = s.staged ∧
    (s.applyArmed m).metro = s.metro ∧
    (s.applyArmed m).readers = s.readers ∧
    (s.applyArmed m).table = s.table ∧
    (s.applyArmed m).pumps = s.pumps ∧
    (s.applyArmed m).meters = s.meters ∧
    (s.applyArmed m).sampler = s.sampler ∧
    (s.applyArmed m).log = s.log ∧
    (s.applyArmed m).stock = s.stock ∧
    (s.applyArmed m).link = s.link ∧
    (s.applyArmed m).port = s.port ∧
    (s.applyArmed m).losses = s.losses ∧
    (s.applyArmed m).free = s.free ∧
    (s.applyArmed m).pending = s.pending := by
  unfold State.applyArmed; (try dsimp only); (repeat' split) <;> simp

@[simp] theorem State.windowRestart_frame (m : MeterId) (a : Attachment) (s : State) :
    (s.windowRestart m a).pins = s.pins ∧
    (s.windowRestart m a).isSealed = s.isSealed ∧
    (s.windowRestart m a).now = s.now ∧
    (s.windowRestart m a).estopLatch = s.estopLatch ∧
    (s.windowRestart m a).metroFault = s.metroFault ∧
    (s.windowRestart m a).scanDue = s.scanDue ∧
    (s.windowRestart m a).config = s.config ∧
    (s.windowRestart m a).profiles = s.profiles ∧
    (s.windowRestart m a).staged = s.staged ∧
    (s.windowRestart m a).metro = s.metro ∧
    (s.windowRestart m a).readers = s.readers ∧
    (s.windowRestart m a).table = s.table ∧
    (s.windowRestart m a).hoses = s.hoses ∧
    (s.windowRestart m a).pumps = s.pumps ∧
    (s.windowRestart m a).sampler = s.sampler ∧
    (s.windowRestart m a).log = s.log ∧
    (s.windowRestart m a).losses = s.losses ∧
    (s.windowRestart m a).free = s.free ∧
    (s.windowRestart m a).pending = s.pending := by
  simp [State.windowRestart]

@[simp] theorem State.beginReceipt_frame (k : CompId) (s : State) :
    (s.beginReceipt k).pins = s.pins ∧
    (s.beginReceipt k).isSealed = s.isSealed ∧
    (s.beginReceipt k).now = s.now ∧
    (s.beginReceipt k).estopLatch = s.estopLatch ∧
    (s.beginReceipt k).metroFault = s.metroFault ∧
    (s.beginReceipt k).scanDue = s.scanDue ∧
    (s.beginReceipt k).config = s.config ∧
    (s.beginReceipt k).profiles = s.profiles ∧
    (s.beginReceipt k).staged = s.staged ∧
    (s.beginReceipt k).metro = s.metro ∧
    (s.beginReceipt k).readers = s.readers ∧
    (s.beginReceipt k).table = s.table ∧
    (s.beginReceipt k).hoses = s.hoses ∧
    (s.beginReceipt k).pumps = s.pumps ∧
    (s.beginReceipt k).sampler = s.sampler ∧
    (s.beginReceipt k).losses = s.losses ∧
    (s.beginReceipt k).free = s.free ∧
    (s.beginReceipt k).pending = s.pending := by
  simp [State.beginReceipt]

@[simp] theorem State.readFailed_frame (n : HoseId) (r : UnidReason) (s : State) :
    (s.readFailed n r).pins = s.pins ∧
    (s.readFailed n r).isSealed = s.isSealed ∧
    (s.readFailed n r).now = s.now ∧
    (s.readFailed n r).estopLatch = s.estopLatch ∧
    (s.readFailed n r).metroFault = s.metroFault ∧
    (s.readFailed n r).scanDue = s.scanDue ∧
    (s.readFailed n r).config = s.config ∧
    (s.readFailed n r).profiles = s.profiles ∧
    (s.readFailed n r).staged = s.staged ∧
    (s.readFailed n r).metro = s.metro ∧
    (s.readFailed n r).table = s.table ∧
    (s.readFailed n r).pumps = s.pumps ∧
    (s.readFailed n r).meters = s.meters ∧
    (s.readFailed n r).sampler = s.sampler ∧
    (s.readFailed n r).log = s.log ∧
    (s.readFailed n r).stock = s.stock ∧
    (s.readFailed n r).link = s.link ∧
    (s.readFailed n r).losses = s.losses ∧
    (s.readFailed n r).free = s.free ∧
    (s.readFailed n r).pending = s.pending := by
  simp [State.readFailed]

@[simp] theorem State.readSucceeded_frame (n : HoseId) (r : BitVec 24) (o : Nat) (s : State) :
    (s.readSucceeded n r o).pins = s.pins ∧
    (s.readSucceeded n r o).isSealed = s.isSealed ∧
    (s.readSucceeded n r o).now = s.now ∧
    (s.readSucceeded n r o).estopLatch = s.estopLatch ∧
    (s.readSucceeded n r o).metroFault = s.metroFault ∧
    (s.readSucceeded n r o).scanDue = s.scanDue ∧
    (s.readSucceeded n r o).config = s.config ∧
    (s.readSucceeded n r o).profiles = s.profiles ∧
    (s.readSucceeded n r o).staged = s.staged ∧
    (s.readSucceeded n r o).metro = s.metro ∧
    (s.readSucceeded n r o).table = s.table ∧
    (s.readSucceeded n r o).pumps = s.pumps ∧
    (s.readSucceeded n r o).meters = s.meters ∧
    (s.readSucceeded n r o).sampler = s.sampler ∧
    (s.readSucceeded n r o).log = s.log ∧
    (s.readSucceeded n r o).stock = s.stock ∧
    (s.readSucceeded n r o).link = s.link ∧
    (s.readSucceeded n r o).losses = s.losses ∧
    (s.readSucceeded n r o).free = s.free ∧
    (s.readSucceeded n r o).pending = s.pending := by
  unfold State.readSucceeded; (try dsimp only); (repeat' split) <;> simp

@[simp] theorem State.endTry_frame (n : HoseId) (l : List Nat) (s : State) :
    (s.endTry n l).pins = s.pins ∧
    (s.endTry n l).isSealed = s.isSealed ∧
    (s.endTry n l).now = s.now ∧
    (s.endTry n l).estopLatch = s.estopLatch ∧
    (s.endTry n l).metroFault = s.metroFault ∧
    (s.endTry n l).scanDue = s.scanDue ∧
    (s.endTry n l).config = s.config ∧
    (s.endTry n l).profiles = s.profiles ∧
    (s.endTry n l).staged = s.staged ∧
    (s.endTry n l).metro = s.metro ∧
    (s.endTry n l).table = s.table ∧
    (s.endTry n l).pumps = s.pumps ∧
    (s.endTry n l).meters = s.meters ∧
    (s.endTry n l).sampler = s.sampler ∧
    (s.endTry n l).log = s.log ∧
    (s.endTry n l).stock = s.stock ∧
    (s.endTry n l).link = s.link ∧
    (s.endTry n l).losses = s.losses ∧
    (s.endTry n l).free = s.free ∧
    (s.endTry n l).pending = s.pending := by
  unfold State.endTry; (try dsimp only); (repeat' split) <;> simp

@[simp] theorem State.startRead_frame (n : HoseId) (s : State) :
    (s.startRead n).pins = s.pins ∧
    (s.startRead n).isSealed = s.isSealed ∧
    (s.startRead n).now = s.now ∧
    (s.startRead n).estopLatch = s.estopLatch ∧
    (s.startRead n).metroFault = s.metroFault ∧
    (s.startRead n).scanDue = s.scanDue ∧
    (s.startRead n).config = s.config ∧
    (s.startRead n).profiles = s.profiles ∧
    (s.startRead n).staged = s.staged ∧
    (s.startRead n).metro = s.metro ∧
    (s.startRead n).table = s.table ∧
    (s.startRead n).pumps = s.pumps ∧
    (s.startRead n).meters = s.meters ∧
    (s.startRead n).sampler = s.sampler ∧
    (s.startRead n).log = s.log ∧
    (s.startRead n).stock = s.stock ∧
    (s.startRead n).link = s.link ∧
    (s.startRead n).losses = s.losses ∧
    (s.startRead n).free = s.free ∧
    (s.startRead n).pending = s.pending := by
  unfold State.startRead; (try dsimp only); (repeat' split) <;> simp

@[simp] theorem State.abandonRead_frame (n : HoseId) (s : State) :
    (s.abandonRead n).pins = s.pins ∧
    (s.abandonRead n).isSealed = s.isSealed ∧
    (s.abandonRead n).now = s.now ∧
    (s.abandonRead n).estopLatch = s.estopLatch ∧
    (s.abandonRead n).metroFault = s.metroFault ∧
    (s.abandonRead n).scanDue = s.scanDue ∧
    (s.abandonRead n).config = s.config ∧
    (s.abandonRead n).profiles = s.profiles ∧
    (s.abandonRead n).staged = s.staged ∧
    (s.abandonRead n).metro = s.metro ∧
    (s.abandonRead n).table = s.table ∧
    (s.abandonRead n).hoses = s.hoses ∧
    (s.abandonRead n).pumps = s.pumps ∧
    (s.abandonRead n).meters = s.meters ∧
    (s.abandonRead n).sampler = s.sampler ∧
    (s.abandonRead n).log = s.log ∧
    (s.abandonRead n).stock = s.stock ∧
    (s.abandonRead n).link = s.link ∧
    (s.abandonRead n).port = s.port ∧
    (s.abandonRead n).losses = s.losses ∧
    (s.abandonRead n).free = s.free ∧
    (s.abandonRead n).pending = s.pending := by
  simp [State.abandonRead]

@[simp] theorem State.readerPeriodAt_frame (d : Nat) (n : HoseId) (s : State) :
    (s.readerPeriodAt d n).pins = s.pins ∧
    (s.readerPeriodAt d n).isSealed = s.isSealed ∧
    (s.readerPeriodAt d n).now = s.now ∧
    (s.readerPeriodAt d n).estopLatch = s.estopLatch ∧
    (s.readerPeriodAt d n).metroFault = s.metroFault ∧
    (s.readerPeriodAt d n).scanDue = s.scanDue ∧
    (s.readerPeriodAt d n).config = s.config ∧
    (s.readerPeriodAt d n).profiles = s.profiles ∧
    (s.readerPeriodAt d n).staged = s.staged ∧
    (s.readerPeriodAt d n).metro = s.metro ∧
    (s.readerPeriodAt d n).table = s.table ∧
    (s.readerPeriodAt d n).hoses = s.hoses ∧
    (s.readerPeriodAt d n).pumps = s.pumps ∧
    (s.readerPeriodAt d n).meters = s.meters ∧
    (s.readerPeriodAt d n).sampler = s.sampler ∧
    (s.readerPeriodAt d n).log = s.log ∧
    (s.readerPeriodAt d n).stock = s.stock ∧
    (s.readerPeriodAt d n).link = s.link ∧
    (s.readerPeriodAt d n).port = s.port ∧
    (s.readerPeriodAt d n).losses = s.losses ∧
    (s.readerPeriodAt d n).free = s.free ∧
    (s.readerPeriodAt d n).pending = s.pending := by
  simp [State.readerPeriodAt]

@[simp] theorem State.passMeasured_frame (n : HoseId) (d c : Nat) (s : State) :
    (s.passMeasured n d c).pins = s.pins ∧
    (s.passMeasured n d c).isSealed = s.isSealed ∧
    (s.passMeasured n d c).now = s.now ∧
    (s.passMeasured n d c).estopLatch = s.estopLatch ∧
    (s.passMeasured n d c).metroFault = s.metroFault ∧
    (s.passMeasured n d c).scanDue = s.scanDue ∧
    (s.passMeasured n d c).config = s.config ∧
    (s.passMeasured n d c).profiles = s.profiles ∧
    (s.passMeasured n d c).staged = s.staged ∧
    (s.passMeasured n d c).metro = s.metro ∧
    (s.passMeasured n d c).table = s.table ∧
    (s.passMeasured n d c).hoses = s.hoses ∧
    (s.passMeasured n d c).pumps = s.pumps ∧
    (s.passMeasured n d c).meters = s.meters ∧
    (s.passMeasured n d c).sampler = s.sampler ∧
    (s.passMeasured n d c).log = s.log ∧
    (s.passMeasured n d c).stock = s.stock ∧
    (s.passMeasured n d c).link = s.link ∧
    (s.passMeasured n d c).port = s.port ∧
    (s.passMeasured n d c).losses = s.losses ∧
    (s.passMeasured n d c).free = s.free ∧
    (s.passMeasured n d c).pending = s.pending := by
  simp [State.passMeasured]

@[simp] theorem State.tryMeasured_frame (n : HoseId) (d c : Nat) (s : State) :
    (s.tryMeasured n d c).pins = s.pins ∧
    (s.tryMeasured n d c).isSealed = s.isSealed ∧
    (s.tryMeasured n d c).now = s.now ∧
    (s.tryMeasured n d c).estopLatch = s.estopLatch ∧
    (s.tryMeasured n d c).metroFault = s.metroFault ∧
    (s.tryMeasured n d c).scanDue = s.scanDue ∧
    (s.tryMeasured n d c).config = s.config ∧
    (s.tryMeasured n d c).profiles = s.profiles ∧
    (s.tryMeasured n d c).staged = s.staged ∧
    (s.tryMeasured n d c).metro = s.metro ∧
    (s.tryMeasured n d c).table = s.table ∧
    (s.tryMeasured n d c).pumps = s.pumps ∧
    (s.tryMeasured n d c).meters = s.meters ∧
    (s.tryMeasured n d c).sampler = s.sampler ∧
    (s.tryMeasured n d c).log = s.log ∧
    (s.tryMeasured n d c).stock = s.stock ∧
    (s.tryMeasured n d c).link = s.link ∧
    (s.tryMeasured n d c).losses = s.losses ∧
    (s.tryMeasured n d c).free = s.free ∧
    (s.tryMeasured n d c).pending = s.pending := by
  unfold State.tryMeasured; (try dsimp only); (repeat' split) <;> simp

@[simp] theorem State.unseat_frame (n : HoseId) (s : State) :
    (s.unseat n).pins = s.pins ∧
    (s.unseat n).isSealed = s.isSealed ∧
    (s.unseat n).now = s.now ∧
    (s.unseat n).estopLatch = s.estopLatch ∧
    (s.unseat n).metroFault = s.metroFault ∧
    (s.unseat n).scanDue = s.scanDue ∧
    (s.unseat n).config = s.config ∧
    (s.unseat n).profiles = s.profiles ∧
    (s.unseat n).staged = s.staged ∧
    (s.unseat n).metro = s.metro ∧
    (s.unseat n).table = s.table ∧
    (s.unseat n).meters = s.meters ∧
    (s.unseat n).sampler = s.sampler ∧
    (s.unseat n).stock = s.stock ∧
    (s.unseat n).losses = s.losses ∧
    (s.unseat n).free = s.free ∧
    (s.unseat n).pending = s.pending := by
  unfold State.unseat; (try dsimp only); split <;> simp

@[simp] theorem State.startDelivery_frame (n : HoseId) (s : State) :
    (s.startDelivery n).pins = s.pins ∧
    (s.startDelivery n).isSealed = s.isSealed ∧
    (s.startDelivery n).now = s.now ∧
    (s.startDelivery n).estopLatch = s.estopLatch ∧
    (s.startDelivery n).metroFault = s.metroFault ∧
    (s.startDelivery n).scanDue = s.scanDue ∧
    (s.startDelivery n).config = s.config ∧
    (s.startDelivery n).profiles = s.profiles ∧
    (s.startDelivery n).staged = s.staged ∧
    (s.startDelivery n).metro = s.metro ∧
    (s.startDelivery n).readers = s.readers ∧
    (s.startDelivery n).table = s.table ∧
    (s.startDelivery n).sampler = s.sampler ∧
    (s.startDelivery n).log = s.log ∧
    (s.startDelivery n).losses = s.losses ∧
    (s.startDelivery n).free = s.free ∧
    (s.startDelivery n).pending = s.pending := by
  unfold State.startDelivery; (try dsimp only); (repeat' split) <;> simp

@[simp] theorem State.resume_frame (n : HoseId) (s : State) :
    (s.resume n).pins = s.pins ∧
    (s.resume n).isSealed = s.isSealed ∧
    (s.resume n).now = s.now ∧
    (s.resume n).estopLatch = s.estopLatch ∧
    (s.resume n).metroFault = s.metroFault ∧
    (s.resume n).scanDue = s.scanDue ∧
    (s.resume n).config = s.config ∧
    (s.resume n).profiles = s.profiles ∧
    (s.resume n).staged = s.staged ∧
    (s.resume n).metro = s.metro ∧
    (s.resume n).readers = s.readers ∧
    (s.resume n).table = s.table ∧
    (s.resume n).meters = s.meters ∧
    (s.resume n).sampler = s.sampler ∧
    (s.resume n).log = s.log ∧
    (s.resume n).stock = s.stock ∧
    (s.resume n).link = s.link ∧
    (s.resume n).port = s.port ∧
    (s.resume n).losses = s.losses ∧
    (s.resume n).free = s.free ∧
    (s.resume n).pending = s.pending := by
  unfold State.resume; (try dsimp only); (repeat' split) <;> simp

@[simp] theorem State.arm_frame (n : HoseId) (i : Ident) (g : Nat) (s : State) :
    (s.arm n i g).pins = s.pins ∧
    (s.arm n i g).isSealed = s.isSealed ∧
    (s.arm n i g).now = s.now ∧
    (s.arm n i g).estopLatch = s.estopLatch ∧
    (s.arm n i g).metroFault = s.metroFault ∧
    (s.arm n i g).scanDue = s.scanDue ∧
    (s.arm n i g).config = s.config ∧
    (s.arm n i g).profiles = s.profiles ∧
    (s.arm n i g).staged = s.staged ∧
    (s.arm n i g).metro = s.metro ∧
    (s.arm n i g).readers = s.readers ∧
    (s.arm n i g).table = s.table ∧
    (s.arm n i g).pumps = s.pumps ∧
    (s.arm n i g).meters = s.meters ∧
    (s.arm n i g).sampler = s.sampler ∧
    (s.arm n i g).stock = s.stock ∧
    (s.arm n i g).losses = s.losses ∧
    (s.arm n i g).free = s.free ∧
    (s.arm n i g).pending = s.pending := by
  simp [State.arm]

@[simp] theorem State.stopHose_frame (n : HoseId) (s : State) :
    (s.stopHose n).pins = s.pins ∧
    (s.stopHose n).isSealed = s.isSealed ∧
    (s.stopHose n).now = s.now ∧
    (s.stopHose n).estopLatch = s.estopLatch ∧
    (s.stopHose n).metroFault = s.metroFault ∧
    (s.stopHose n).scanDue = s.scanDue ∧
    (s.stopHose n).config = s.config ∧
    (s.stopHose n).profiles = s.profiles ∧
    (s.stopHose n).staged = s.staged ∧
    (s.stopHose n).metro = s.metro ∧
    (s.stopHose n).table = s.table ∧
    (s.stopHose n).meters = s.meters ∧
    (s.stopHose n).sampler = s.sampler ∧
    (s.stopHose n).stock = s.stock ∧
    (s.stopHose n).losses = s.losses ∧
    (s.stopHose n).free = s.free ∧
    (s.stopHose n).pending = s.pending := by
  unfold State.stopHose; (try dsimp only); split <;> simp

@[simp] theorem State.useBlock_frame (p : Probe) (v : Nat) (s : State) :
    (s.useBlock p v).pins = s.pins ∧
    (s.useBlock p v).isSealed = s.isSealed ∧
    (s.useBlock p v).now = s.now ∧
    (s.useBlock p v).estopLatch = s.estopLatch ∧
    (s.useBlock p v).metroFault = s.metroFault ∧
    (s.useBlock p v).scanDue = s.scanDue ∧
    (s.useBlock p v).config = s.config ∧
    (s.useBlock p v).profiles = s.profiles ∧
    (s.useBlock p v).staged = s.staged ∧
    (s.useBlock p v).metro = s.metro ∧
    (s.useBlock p v).readers = s.readers ∧
    (s.useBlock p v).table = s.table ∧
    (s.useBlock p v).hoses = s.hoses ∧
    (s.useBlock p v).pumps = s.pumps ∧
    (s.useBlock p v).meters = s.meters ∧
    (s.useBlock p v).log = s.log ∧
    (s.useBlock p v).link = s.link ∧
    (s.useBlock p v).losses = s.losses ∧
    (s.useBlock p v).free = s.free ∧
    (s.useBlock p v).pending = s.pending := by
  unfold State.useBlock; (try dsimp only); split <;> simp

@[simp] theorem State.takeSample_frame (v : Nat) (s : State) :
    (s.takeSample v).pins = s.pins ∧
    (s.takeSample v).isSealed = s.isSealed ∧
    (s.takeSample v).now = s.now ∧
    (s.takeSample v).estopLatch = s.estopLatch ∧
    (s.takeSample v).metroFault = s.metroFault ∧
    (s.takeSample v).scanDue = s.scanDue ∧
    (s.takeSample v).config = s.config ∧
    (s.takeSample v).profiles = s.profiles ∧
    (s.takeSample v).staged = s.staged ∧
    (s.takeSample v).metro = s.metro ∧
    (s.takeSample v).readers = s.readers ∧
    (s.takeSample v).table = s.table ∧
    (s.takeSample v).hoses = s.hoses ∧
    (s.takeSample v).pumps = s.pumps ∧
    (s.takeSample v).meters = s.meters ∧
    (s.takeSample v).log = s.log ∧
    (s.takeSample v).link = s.link ∧
    (s.takeSample v).losses = s.losses ∧
    (s.takeSample v).free = s.free ∧
    (s.takeSample v).pending = s.pending := by
  unfold State.takeSample; (try dsimp only); (repeat' split) <;> simp

@[simp] theorem State.enterIdle_frame (s : State) :
    (s.enterIdle).pins = s.pins ∧
    (s.enterIdle).isSealed = s.isSealed ∧
    (s.enterIdle).now = s.now ∧
    (s.enterIdle).estopLatch = s.estopLatch ∧
    (s.enterIdle).metroFault = s.metroFault ∧
    (s.enterIdle).scanDue = s.scanDue ∧
    (s.enterIdle).config = s.config ∧
    (s.enterIdle).profiles = s.profiles ∧
    (s.enterIdle).staged = s.staged ∧
    (s.enterIdle).metro = s.metro ∧
    (s.enterIdle).readers = s.readers ∧
    (s.enterIdle).table = s.table ∧
    (s.enterIdle).hoses = s.hoses ∧
    (s.enterIdle).pumps = s.pumps ∧
    (s.enterIdle).meters = s.meters ∧
    (s.enterIdle).sampler = s.sampler ∧
    (s.enterIdle).log = s.log ∧
    (s.enterIdle).stock = s.stock ∧
    (s.enterIdle).port = s.port ∧
    (s.enterIdle).losses = s.losses ∧
    (s.enterIdle).free = s.free ∧
    (s.enterIdle).pending = s.pending := by
  simp [State.enterIdle]

@[simp] theorem State.popHead_frame (s : State) :
    (s.popHead).pins = s.pins ∧
    (s.popHead).isSealed = s.isSealed ∧
    (s.popHead).now = s.now ∧
    (s.popHead).estopLatch = s.estopLatch ∧
    (s.popHead).metroFault = s.metroFault ∧
    (s.popHead).scanDue = s.scanDue ∧
    (s.popHead).config = s.config ∧
    (s.popHead).profiles = s.profiles ∧
    (s.popHead).staged = s.staged ∧
    (s.popHead).metro = s.metro ∧
    (s.popHead).readers = s.readers ∧
    (s.popHead).table = s.table ∧
    (s.popHead).hoses = s.hoses ∧
    (s.popHead).pumps = s.pumps ∧
    (s.popHead).meters = s.meters ∧
    (s.popHead).sampler = s.sampler ∧
    (s.popHead).log = s.log ∧
    (s.popHead).stock = s.stock ∧
    (s.popHead).port = s.port ∧
    (s.popHead).losses = s.losses ∧
    (s.popHead).free = s.free ∧
    (s.popHead).pending = s.pending := by
  simp [State.popHead]

@[simp] theorem State.defer__frame (s : State) :
    (s.defer_).pins = s.pins ∧
    (s.defer_).isSealed = s.isSealed ∧
    (s.defer_).now = s.now ∧
    (s.defer_).estopLatch = s.estopLatch ∧
    (s.defer_).metroFault = s.metroFault ∧
    (s.defer_).scanDue = s.scanDue ∧
    (s.defer_).config = s.config ∧
    (s.defer_).profiles = s.profiles ∧
    (s.defer_).staged = s.staged ∧
    (s.defer_).metro = s.metro ∧
    (s.defer_).readers = s.readers ∧
    (s.defer_).table = s.table ∧
    (s.defer_).hoses = s.hoses ∧
    (s.defer_).pumps = s.pumps ∧
    (s.defer_).meters = s.meters ∧
    (s.defer_).sampler = s.sampler ∧
    (s.defer_).log = s.log ∧
    (s.defer_).stock = s.stock ∧
    (s.defer_).losses = s.losses ∧
    (s.defer_).free = s.free ∧
    (s.defer_).pending = s.pending := by
  unfold State.defer_; (try dsimp only); (repeat' split) <;> simp

@[simp] theorem State.carrier_frame (s : State) :
    (s.carrier).pins = s.pins ∧
    (s.carrier).isSealed = s.isSealed ∧
    (s.carrier).now = s.now ∧
    (s.carrier).estopLatch = s.estopLatch ∧
    (s.carrier).metroFault = s.metroFault ∧
    (s.carrier).scanDue = s.scanDue ∧
    (s.carrier).config = s.config ∧
    (s.carrier).profiles = s.profiles ∧
    (s.carrier).staged = s.staged ∧
    (s.carrier).metro = s.metro ∧
    (s.carrier).readers = s.readers ∧
    (s.carrier).table = s.table ∧
    (s.carrier).hoses = s.hoses ∧
    (s.carrier).pumps = s.pumps ∧
    (s.carrier).meters = s.meters ∧
    (s.carrier).sampler = s.sampler ∧
    (s.carrier).log = s.log ∧
    (s.carrier).stock = s.stock ∧
    (s.carrier).losses = s.losses ∧
    (s.carrier).free = s.free ∧
    (s.carrier).pending = s.pending := by
  unfold State.carrier; (try dsimp only); split <;> simp

@[simp] theorem State.nextNotice_frame (s : State) :
    (s.nextNotice).pins = s.pins ∧
    (s.nextNotice).isSealed = s.isSealed ∧
    (s.nextNotice).now = s.now ∧
    (s.nextNotice).estopLatch = s.estopLatch ∧
    (s.nextNotice).metroFault = s.metroFault ∧
    (s.nextNotice).scanDue = s.scanDue ∧
    (s.nextNotice).config = s.config ∧
    (s.nextNotice).profiles = s.profiles ∧
    (s.nextNotice).staged = s.staged ∧
    (s.nextNotice).metro = s.metro ∧
    (s.nextNotice).readers = s.readers ∧
    (s.nextNotice).table = s.table ∧
    (s.nextNotice).hoses = s.hoses ∧
    (s.nextNotice).pumps = s.pumps ∧
    (s.nextNotice).meters = s.meters ∧
    (s.nextNotice).sampler = s.sampler ∧
    (s.nextNotice).log = s.log ∧
    (s.nextNotice).stock = s.stock ∧
    (s.nextNotice).port = s.port ∧
    (s.nextNotice).losses = s.losses ∧
    (s.nextNotice).free = s.free ∧
    (s.nextNotice).pending = s.pending := by
  simp [State.nextNotice]

@[simp] theorem State.send_frame (f : List Byte) (s : State) :
    (s.send f).pins = s.pins ∧
    (s.send f).isSealed = s.isSealed ∧
    (s.send f).now = s.now ∧
    (s.send f).estopLatch = s.estopLatch ∧
    (s.send f).metroFault = s.metroFault ∧
    (s.send f).scanDue = s.scanDue ∧
    (s.send f).config = s.config ∧
    (s.send f).profiles = s.profiles ∧
    (s.send f).staged = s.staged ∧
    (s.send f).metro = s.metro ∧
    (s.send f).readers = s.readers ∧
    (s.send f).table = s.table ∧
    (s.send f).hoses = s.hoses ∧
    (s.send f).pumps = s.pumps ∧
    (s.send f).meters = s.meters ∧
    (s.send f).sampler = s.sampler ∧
    (s.send f).log = s.log ∧
    (s.send f).stock = s.stock ∧
    (s.send f).port = s.port ∧
    (s.send f).losses = s.losses ∧
    (s.send f).free = s.free ∧
    (s.send f).pending = s.pending := by
  simp [State.send]

@[simp] theorem State.transmit_frame (s : State) :
    (s.transmit).pins = s.pins ∧
    (s.transmit).isSealed = s.isSealed ∧
    (s.transmit).now = s.now ∧
    (s.transmit).estopLatch = s.estopLatch ∧
    (s.transmit).metroFault = s.metroFault ∧
    (s.transmit).scanDue = s.scanDue ∧
    (s.transmit).config = s.config ∧
    (s.transmit).profiles = s.profiles ∧
    (s.transmit).staged = s.staged ∧
    (s.transmit).metro = s.metro ∧
    (s.transmit).readers = s.readers ∧
    (s.transmit).table = s.table ∧
    (s.transmit).hoses = s.hoses ∧
    (s.transmit).pumps = s.pumps ∧
    (s.transmit).meters = s.meters ∧
    (s.transmit).sampler = s.sampler ∧
    (s.transmit).log = s.log ∧
    (s.transmit).stock = s.stock ∧
    (s.transmit).port = s.port ∧
    (s.transmit).losses = s.losses ∧
    (s.transmit).free = s.free ∧
    (s.transmit).pending = s.pending := by
  unfold State.transmit; (try dsimp only); (repeat' split) <;> simp

@[simp] theorem State.clash_frame (q : BitVec 16) (s : State) :
    (s.clash q).pins = s.pins ∧
    (s.clash q).isSealed = s.isSealed ∧
    (s.clash q).now = s.now ∧
    (s.clash q).estopLatch = s.estopLatch ∧
    (s.clash q).metroFault = s.metroFault ∧
    (s.clash q).scanDue = s.scanDue ∧
    (s.clash q).config = s.config ∧
    (s.clash q).profiles = s.profiles ∧
    (s.clash q).staged = s.staged ∧
    (s.clash q).metro = s.metro ∧
    (s.clash q).readers = s.readers ∧
    (s.clash q).table = s.table ∧
    (s.clash q).hoses = s.hoses ∧
    (s.clash q).pumps = s.pumps ∧
    (s.clash q).meters = s.meters ∧
    (s.clash q).sampler = s.sampler ∧
    (s.clash q).log = s.log ∧
    (s.clash q).stock = s.stock ∧
    (s.clash q).losses = s.losses ∧
    (s.clash q).free = s.free ∧
    (s.clash q).pending = s.pending := by
  unfold State.clash; (try dsimp only); split_ifs <;> simp

@[simp] theorem State.dispatchNotice_frame (i : StationId) (b : NoticeBody) (s : State) :
    (s.dispatchNotice i b).pins = s.pins ∧
    (s.dispatchNotice i b).isSealed = s.isSealed ∧
    (s.dispatchNotice i b).now = s.now ∧
    (s.dispatchNotice i b).estopLatch = s.estopLatch ∧
    (s.dispatchNotice i b).metroFault = s.metroFault ∧
    (s.dispatchNotice i b).scanDue = s.scanDue ∧
    (s.dispatchNotice i b).config = s.config ∧
    (s.dispatchNotice i b).profiles = s.profiles ∧
    (s.dispatchNotice i b).staged = s.staged ∧
    (s.dispatchNotice i b).metro = s.metro ∧
    (s.dispatchNotice i b).readers = s.readers ∧
    (s.dispatchNotice i b).hoses = s.hoses ∧
    (s.dispatchNotice i b).pumps = s.pumps ∧
    (s.dispatchNotice i b).meters = s.meters ∧
    (s.dispatchNotice i b).sampler = s.sampler ∧
    (s.dispatchNotice i b).log = s.log ∧
    (s.dispatchNotice i b).losses = s.losses ∧
    (s.dispatchNotice i b).free = s.free ∧
    (s.dispatchNotice i b).pending = s.pending := by
  unfold State.dispatchNotice; (try dsimp only); split <;> simp

@[simp] theorem State.peerNotice_frame (x : Notice) (s : State) :
    (s.peerNotice x).pins = s.pins ∧
    (s.peerNotice x).isSealed = s.isSealed ∧
    (s.peerNotice x).now = s.now ∧
    (s.peerNotice x).estopLatch = s.estopLatch ∧
    (s.peerNotice x).metroFault = s.metroFault ∧
    (s.peerNotice x).scanDue = s.scanDue ∧
    (s.peerNotice x).config = s.config ∧
    (s.peerNotice x).profiles = s.profiles ∧
    (s.peerNotice x).staged = s.staged ∧
    (s.peerNotice x).metro = s.metro ∧
    (s.peerNotice x).readers = s.readers ∧
    (s.peerNotice x).hoses = s.hoses ∧
    (s.peerNotice x).pumps = s.pumps ∧
    (s.peerNotice x).meters = s.meters ∧
    (s.peerNotice x).sampler = s.sampler ∧
    (s.peerNotice x).log = s.log ∧
    (s.peerNotice x).losses = s.losses ∧
    (s.peerNotice x).free = s.free ∧
    (s.peerNotice x).pending = s.pending := by
  unfold State.peerNotice; (try dsimp only); (repeat' split) <;> simp

@[simp] theorem State.notice_frame (x : Notice) (s : State) :
    (s.notice x).pins = s.pins ∧
    (s.notice x).isSealed = s.isSealed ∧
    (s.notice x).now = s.now ∧
    (s.notice x).estopLatch = s.estopLatch ∧
    (s.notice x).metroFault = s.metroFault ∧
    (s.notice x).scanDue = s.scanDue ∧
    (s.notice x).config = s.config ∧
    (s.notice x).profiles = s.profiles ∧
    (s.notice x).staged = s.staged ∧
    (s.notice x).metro = s.metro ∧
    (s.notice x).readers = s.readers ∧
    (s.notice x).hoses = s.hoses ∧
    (s.notice x).pumps = s.pumps ∧
    (s.notice x).meters = s.meters ∧
    (s.notice x).sampler = s.sampler ∧
    (s.notice x).log = s.log ∧
    (s.notice x).losses = s.losses ∧
    (s.notice x).free = s.free ∧
    (s.notice x).pending = s.pending := by
  unfold State.notice; (try dsimp only); split_ifs <;> simp

@[simp] theorem State.checkFrame_frame (f : RxFrame) (s : State) :
    (s.checkFrame f).pins = s.pins ∧
    (s.checkFrame f).isSealed = s.isSealed ∧
    (s.checkFrame f).now = s.now ∧
    (s.checkFrame f).estopLatch = s.estopLatch ∧
    (s.checkFrame f).metroFault = s.metroFault ∧
    (s.checkFrame f).scanDue = s.scanDue ∧
    (s.checkFrame f).config = s.config ∧
    (s.checkFrame f).profiles = s.profiles ∧
    (s.checkFrame f).staged = s.staged ∧
    (s.checkFrame f).metro = s.metro ∧
    (s.checkFrame f).readers = s.readers ∧
    (s.checkFrame f).hoses = s.hoses ∧
    (s.checkFrame f).pumps = s.pumps ∧
    (s.checkFrame f).meters = s.meters ∧
    (s.checkFrame f).sampler = s.sampler ∧
    (s.checkFrame f).log = s.log ∧
    (s.checkFrame f).losses = s.losses ∧
    (s.checkFrame f).free = s.free ∧
    (s.checkFrame f).pending = s.pending := by
  unfold State.checkFrame; (try dsimp only); (repeat' split) <;> simp

@[simp] theorem State.completeFrame_frame (s : State) :
    (s.completeFrame).pins = s.pins ∧
    (s.completeFrame).isSealed = s.isSealed ∧
    (s.completeFrame).now = s.now ∧
    (s.completeFrame).estopLatch = s.estopLatch ∧
    (s.completeFrame).metroFault = s.metroFault ∧
    (s.completeFrame).scanDue = s.scanDue ∧
    (s.completeFrame).config = s.config ∧
    (s.completeFrame).profiles = s.profiles ∧
    (s.completeFrame).staged = s.staged ∧
    (s.completeFrame).metro = s.metro ∧
    (s.completeFrame).readers = s.readers ∧
    (s.completeFrame).hoses = s.hoses ∧
    (s.completeFrame).pumps = s.pumps ∧
    (s.completeFrame).meters = s.meters ∧
    (s.completeFrame).sampler = s.sampler ∧
    (s.completeFrame).log = s.log ∧
    (s.completeFrame).losses = s.losses ∧
    (s.completeFrame).free = s.free ∧
    (s.completeFrame).pending = s.pending := by
  unfold State.completeFrame; (try dsimp only); split <;> simp

@[simp] theorem State.carrierEnds_frame (s : State) :
    (s.carrierEnds).pins = s.pins ∧
    (s.carrierEnds).isSealed = s.isSealed ∧
    (s.carrierEnds).now = s.now ∧
    (s.carrierEnds).estopLatch = s.estopLatch ∧
    (s.carrierEnds).metroFault = s.metroFault ∧
    (s.carrierEnds).scanDue = s.scanDue ∧
    (s.carrierEnds).config = s.config ∧
    (s.carrierEnds).profiles = s.profiles ∧
    (s.carrierEnds).staged = s.staged ∧
    (s.carrierEnds).metro = s.metro ∧
    (s.carrierEnds).readers = s.readers ∧
    (s.carrierEnds).table = s.table ∧
    (s.carrierEnds).hoses = s.hoses ∧
    (s.carrierEnds).pumps = s.pumps ∧
    (s.carrierEnds).meters = s.meters ∧
    (s.carrierEnds).sampler = s.sampler ∧
    (s.carrierEnds).log = s.log ∧
    (s.carrierEnds).stock = s.stock ∧
    (s.carrierEnds).port = s.port ∧
    (s.carrierEnds).losses = s.losses ∧
    (s.carrierEnds).free = s.free ∧
    (s.carrierEnds).pending = s.pending := by
  unfold State.carrierEnds; (try dsimp only); split <;> simp

@[simp] theorem State.machineSweep_frame (s : State) :
    (s.machineSweep).pins = s.pins ∧
    (s.machineSweep).isSealed = s.isSealed ∧
    (s.machineSweep).now = s.now ∧
    (s.machineSweep).estopLatch = s.estopLatch ∧
    (s.machineSweep).metroFault = s.metroFault ∧
    (s.machineSweep).scanDue = s.scanDue ∧
    (s.machineSweep).config = s.config ∧
    (s.machineSweep).profiles = s.profiles ∧
    (s.machineSweep).staged = s.staged ∧
    (s.machineSweep).metro = s.metro ∧
    (s.machineSweep).readers = s.readers ∧
    (s.machineSweep).table = s.table ∧
    (s.machineSweep).hoses = s.hoses ∧
    (s.machineSweep).pumps = s.pumps ∧
    (s.machineSweep).meters = s.meters ∧
    (s.machineSweep).sampler = s.sampler ∧
    (s.machineSweep).log = s.log ∧
    (s.machineSweep).stock = s.stock ∧
    (s.machineSweep).losses = s.losses ∧
    (s.machineSweep).free = s.free ∧
    (s.machineSweep).pending = s.pending := by
  unfold State.machineSweep; (try dsimp only); (repeat' split) <;> simp

@[simp] theorem State.putProfile_frame (p : Nat) (l : List ProfileStep) (s : State) :
    (s.putProfile p l).pins = s.pins ∧
    (s.putProfile p l).isSealed = s.isSealed ∧
    (s.putProfile p l).now = s.now ∧
    (s.putProfile p l).estopLatch = s.estopLatch ∧
    (s.putProfile p l).metroFault = s.metroFault ∧
    (s.putProfile p l).scanDue = s.scanDue ∧
    (s.putProfile p l).config = s.config ∧
    (s.putProfile p l).staged = s.staged ∧
    (s.putProfile p l).metro = s.metro ∧
    (s.putProfile p l).readers = s.readers ∧
    (s.putProfile p l).table = s.table ∧
    (s.putProfile p l).hoses = s.hoses ∧
    (s.putProfile p l).pumps = s.pumps ∧
    (s.putProfile p l).meters = s.meters ∧
    (s.putProfile p l).sampler = s.sampler ∧
    (s.putProfile p l).log = s.log ∧
    (s.putProfile p l).stock = s.stock ∧
    (s.putProfile p l).link = s.link ∧
    (s.putProfile p l).port = s.port ∧
    (s.putProfile p l).losses = s.losses ∧
    (s.putProfile p l).free = s.free ∧
    (s.putProfile p l).pending = s.pending := by
  unfold State.putProfile; (try dsimp only); split <;> simp

end Sys2Proof.Machine
end

