-- ==== Sys2Proof/Laws/Sparse.lean ====
section
/-! SUPPORT. Sparse stores: what an insertion, an erasure and a canonical write leave under each key, and
that they keep the canonical form. -/

namespace Sys2Proof.Machine

theorem Sparse.find?_insert {α : Type} (m : List (Nat × α)) (k j : Nat) (v : α) :
    Sparse.find? (Sparse.insert m k v) j = if j = k then some v else Sparse.find? m j := by
  induction m with
  | nil =>
    by_cases h : j = k
    · simp [Sparse.insert, Sparse.find?, h]
    · simp [Sparse.insert, Sparse.find?, h, Ne.symm h]
  | cons p rest ih =>
    obtain ⟨i, w⟩ := p
    unfold Sparse.insert
    split_ifs with h g e e e <;> simp only [Sparse.find?] <;> split_ifs <;>
      first | rfl | omega | (rw [ih]; split_ifs <;> first | rfl | omega)

theorem Sparse.find?_erase {α : Type} (m : List (Nat × α)) (k j : Nat) :
    Sparse.find? (Sparse.erase m k) j = if j = k then none else Sparse.find? m j := by
  induction m with
  | nil => simp [Sparse.erase, Sparse.find?]
  | cons p rest ih =>
    obtain ⟨i, w⟩ := p
    by_cases h : i = k
    · subst h
      rw [Sparse.erase, if_pos rfl, ih]
      by_cases e : j = i
      · simp [e]
      · simp [e, Sparse.find?, Ne.symm e]
    · rw [Sparse.erase, if_neg h]
      by_cases e : i = j
      · subst e
        simp [Sparse.find?, h]
      · simp [Sparse.find?, e, ih]

/-- A canonical write reads back, and no other key reads otherwise. -/
theorem Sparse.getD_put {α : Type} [DecidableEq α] (d : Nat → α) (m : List (Nat × α)) (k j : Nat)
    (v : α) : Sparse.getD d (Sparse.put d m k v) j = if j = k then v else Sparse.getD d m j := by
  unfold Sparse.getD Sparse.put
  by_cases h : v = d k
  · rw [if_pos h, Sparse.find?_erase]
    by_cases e : j = k
    · subst e; simp [h]
    · simp [e]
  · rw [if_neg h, Sparse.find?_insert]
    by_cases e : j = k <;> simp [e]

theorem Sparse.mem_insert {α : Type} (k : Nat) (v : α) (m : List (Nat × α)) (p : Nat × α)
    (h : p ∈ Sparse.insert m k v) : p = (k, v) ∨ p ∈ m := by
  induction m with
  | nil => simpa [Sparse.insert] using h
  | cons q rest ih =>
    obtain ⟨i, w⟩ := q
    unfold Sparse.insert at h
    split_ifs at h with a b
    · simpa using h
    · rcases List.mem_cons.1 h with e | e
      · exact Or.inl e
      · exact Or.inr (List.mem_cons_of_mem _ e)
    · rcases List.mem_cons.1 h with e | e
      · exact Or.inr (by simp [e])
      · rcases ih e with f | f
        · exact Or.inl f
        · exact Or.inr (List.mem_cons_of_mem _ f)

theorem Sparse.mem_erase {α : Type} (k : Nat) (m : List (Nat × α)) (p : Nat × α)
    (h : p ∈ Sparse.erase m k) : p ∈ m ∧ p.1 ≠ k := by
  induction m with
  | nil => simp [Sparse.erase] at h
  | cons q rest ih =>
    obtain ⟨i, w⟩ := q
    unfold Sparse.erase at h
    split_ifs at h with a
    · exact ⟨List.mem_cons_of_mem _ (ih h).1, (ih h).2⟩
    · rcases List.mem_cons.1 h with e | e
      · subst e
        exact ⟨by simp, a⟩
      · exact ⟨List.mem_cons_of_mem _ (ih e).1, (ih e).2⟩

theorem Sparse.above_iff {α : Type} (b : Nat) (m : List (Nat × α)) :
    Sparse.above b m = true ↔ ∀ p ∈ m, b < p.1 := by
  simp [Sparse.above]

theorem Sparse.above_insert {α : Type} (b k : Nat) (v : α) (m : List (Nat × α))
    (hb : b < k) (hm : Sparse.above b m = true) : Sparse.above b (Sparse.insert m k v) = true := by
  rw [Sparse.above_iff] at hm ⊢
  intro p hp
  rcases Sparse.mem_insert k v m p hp with e | e
  · subst e; exact hb
  · exact hm p e

theorem Sparse.above_erase {α : Type} (b k : Nat) (m : List (Nat × α))
    (hm : Sparse.above b m = true) : Sparse.above b (Sparse.erase m k) = true := by
  rw [Sparse.above_iff] at hm ⊢
  exact fun p hp => hm p (Sparse.mem_erase k m p hp).1

theorem Sparse.above_of_lt {α : Type} (b i : Nat) (m : List (Nat × α)) (h : b < i)
    (hm : Sparse.above i m = true) : Sparse.above b m = true := by
  simp [Sparse.above] at hm ⊢
  intro a x hx
  exact lt_trans h (hm a x hx)

theorem Sparse.rising_insert {α : Type} (k : Nat) (v : α) (m : List (Nat × α))
    (hm : Sparse.rising m = true) : Sparse.rising (Sparse.insert m k v) = true := by
  induction m with
  | nil => simp [Sparse.insert, Sparse.rising, Sparse.above]
  | cons p rest ih =>
    obtain ⟨i, w⟩ := p
    simp [Sparse.rising] at hm ⊢
    unfold Sparse.insert
    split_ifs with h g
    · simp [Sparse.rising, hm.1, hm.2]
      have := Sparse.above_of_lt k i rest h hm.1
      simp [Sparse.above] at this ⊢
      exact ⟨h, this⟩
    · subst g
      simp [Sparse.rising, hm.1, hm.2]
    · have hik : i < k := by omega
      simp [Sparse.rising, ih hm.2, Sparse.above_insert i k v rest hik hm.1]

theorem Sparse.rising_erase {α : Type} (k : Nat) (m : List (Nat × α))
    (hm : Sparse.rising m = true) : Sparse.rising (Sparse.erase m k) = true := by
  induction m with
  | nil => simp [Sparse.erase, Sparse.rising]
  | cons p rest ih =>
    obtain ⟨i, w⟩ := p
    simp [Sparse.rising] at hm ⊢
    unfold Sparse.erase
    split_ifs
    · exact ih hm.2
    · simp [Sparse.rising, ih hm.2, Sparse.above_erase i k rest hm.1]

/-- Every canonical write keeps the canonical form. -/
theorem Sparse.wf_put {α : Type} [DecidableEq α] (d : Nat → α) (m : List (Nat × α)) (k : Nat) (v : α)
    (hm : Sparse.wf d m = true) : Sparse.wf d (Sparse.put d m k v) = true := by
  unfold Sparse.wf at hm ⊢
  simp only [Bool.and_eq_true, List.all_eq_true, decide_eq_true_eq] at hm ⊢
  unfold Sparse.put
  split_ifs with h
  · exact ⟨Sparse.rising_erase k m hm.1, fun p hp => hm.2 p (Sparse.mem_erase k m p hp).1⟩
  · refine ⟨Sparse.rising_insert k v m hm.1, fun p hp => ?_⟩
    rcases Sparse.mem_insert k v m p hp with e | e
    · subst e; exact h
    · exact hm.2 p e

/-- A slot of the log written reads back, and no other slot changes. -/
theorem Log.slotAt_putSlot (l : Log) (i j : Nat) (x : LogSlot) :
    (l.putSlot i x).slotAt j = if j = i then x else l.slotAt j := by
  simp [Log.slotAt, Log.putSlot, Sparse.getD_put]

end Sys2Proof.Machine
end

