-- ==== Sys2Proof/Laws/Log.lean ====
section
/-! SUPPORT. What the delivery log's start-up check can do (R126): the search for the greatest sequence
number, the marks, the longest run, and the index rebuilt from the markers. -/

namespace Sys2Proof.Machine

theorem greatestSeq_none (l : List (Nat × Nat)) : greatestSeq l = none ↔ l = [] := by
  cases l with
  | nil => simp [greatestSeq]
  | cons p rest => cases h : greatestSeq rest <;> simp [greatestSeq, h]

theorem greatestSeq_some (l : List (Nat × Nat)) (p : Nat × Nat) (h : greatestSeq l = some p) :
    p ∈ l ∧ ∀ q ∈ l, q.2 ≤ p.2 := by
  induction l generalizing p with
  | nil => simp [greatestSeq] at h
  | cons a rest ih =>
    cases e : greatestSeq rest with
    | none =>
      rw [greatestSeq_none] at e
      subst e
      simp [greatestSeq] at h
      subst h
      simp
    | some q =>
      obtain ⟨mem, top⟩ := ih q e
      simp only [greatestSeq, e, Option.some.injEq] at h
      split_ifs at h with lt <;> subst h
      · exact ⟨List.mem_cons_of_mem _ mem, fun r hr => by
          rcases List.mem_cons.mp hr with g | g
          · subst g; omega
          · exact top r g⟩
      · exact ⟨List.mem_cons_self, fun r hr => by
          rcases List.mem_cons.mp hr with g | g
          · subst g; exact le_refl _
          · have := top r g; omega⟩

theorem mem_addMark (i j : Nat) (l : List Nat) : j ∈ addMark i l ↔ j = i ∨ j ∈ l := by
  induction l with
  | nil => simp [addMark]
  | cons a rest ih =>
    unfold addMark
    split_ifs with h g
    · simp
    · subst g; simp
    · simp only [List.mem_cons, ih]; tauto

theorem mem_addMarks (j : Nat) (l : List Nat) : j ∈ l.foldr addMark [] ↔ j ∈ l := by
  induction l with
  | nil => simp
  | cons a rest ih => simp only [List.foldr_cons, mem_addMark, ih, List.mem_cons]

/-- A bounded search's length is at least `n` when its first `n` places pass. -/
theorem le_length_takeWhile_range (p : Nat → Bool) (bound n : Nat) :
    n ≤ ((List.range bound).takeWhile p).length ↔ n ≤ bound ∧ ∀ j < n, p j = true := by
  induction bound generalizing p n with
  | zero => simp; intro h j hj; omega
  | succ b ih =>
    rw [List.range_succ_eq_map, List.takeWhile_cons]
    cases n with
    | zero => simp
    | succ m =>
      by_cases h : p 0 = true
      · rw [if_pos h, List.takeWhile_map, List.length_cons, List.length_map, Nat.succ_le_succ_iff,
          ih (p ∘ Nat.succ) m]
        constructor
        · rintro ⟨le, all⟩
          refine ⟨by omega, fun j hj => ?_⟩
          cases j with
          | zero => exact h
          | succ i => exact all i (by omega)
        · rintro ⟨le, all⟩
          exact ⟨by omega, fun j hj => all (j + 1) (by omega)⟩
      · rw [if_neg h]
        simp only [List.length_nil, Nat.succ_ne_zero, Nat.le_zero_eq, false_iff, not_and]
        exact fun _ all => h (all 0 (by omega))

/-- The run from a slot is at least `n` long when its first `n` slots are stored. -/
theorem Log.le_runLength (l : Log) (start n : Nat) :
    n ≤ l.runLength start ↔
      n ≤ 1024 ∧ ∀ j < n, (l.slotAt ((start + j) % 1024)).stored = true :=
  le_length_takeWhile_range _ _ _

/-- The search for the longest of some runs. -/
theorem foldl_longest (f : Nat → Nat) (l : List Nat) (rising : l.Pairwise (· < ·)) (best : Nat × Nat)
    (below : ∀ i ∈ l, best.1 ≤ i) :
    let r := l.foldl (fun b i => if b.2 < f i then (i, f i) else b) best
    (r = best ∨ best.2 < r.2 ∧ r.1 ∈ l ∧ r.2 = f r.1) ∧
      ∀ i ∈ l, f i < r.2 ∨ f i = r.2 ∧ r.1 ≤ i := by
  induction l generalizing best with
  | nil => simp
  | cons a rest ih =>
    intro r
    obtain ⟨first, rising⟩ := List.pairwise_cons.mp rising
    by_cases h : best.2 < f a
    · obtain ⟨one, two⟩ := ih rising (a, f a) fun i hi => le_of_lt (first i hi)
      have e : r = rest.foldl (fun b i => if b.2 < f i then (i, f i) else b) (a, f a) := by
        simp only [r, List.foldl_cons, if_pos h]
      rw [← e] at one two
      refine ⟨Or.inr ?_, fun i hi => ?_⟩
      · rcases one with g | g
        · rw [g]; exact ⟨h, List.mem_cons_self, rfl⟩
        · exact ⟨lt_trans h g.1, List.mem_cons_of_mem _ g.2.1, g.2.2⟩
      · rcases List.mem_cons.mp hi with g | g
        · subst g
          rcases one with g | g
          · rw [g]; exact Or.inr ⟨rfl, le_refl _⟩
          · exact Or.inl g.1
        · exact two i g
    · obtain ⟨one, two⟩ := ih rising best fun i hi => below i (List.mem_cons_of_mem _ hi)
      have e : r = rest.foldl (fun b i => if b.2 < f i then (i, f i) else b) best := by
        simp only [r, List.foldl_cons, if_neg h]
      rw [← e] at one two
      refine ⟨?_, fun i hi => ?_⟩
      · rcases one with g | g
        · exact Or.inl g
        · exact Or.inr ⟨g.1, List.mem_cons_of_mem _ g.2.1, g.2.2⟩
      · rcases List.mem_cons.mp hi with g | g
        · subst g
          rcases one with g | g
          · have := below i hi
            rw [g]
            omega
          · omega
        · exact two i g

theorem Log.mem_runStarts (l : Log) (i : Nat) :
    i ∈ l.runStarts ↔ i < 1024 ∧ (l.slotAt i).stored = true ∧
      (l.slotAt ((i + 1023) % 1024)).stored = false := by
  simp only [Log.runStarts, List.mem_filter, List.mem_range, Bool.and_eq_true, Bool.not_eq_true',
    Config.logSlots]
  exact ⟨fun ⟨a, b, c⟩ => ⟨a, b, by rwa [show i + 1023 = i + 1024 - 1 from by omega]⟩,
    fun ⟨a, b, c⟩ => ⟨a, b, by rwa [show i + 1024 - 1 = i + 1023 from by omega]⟩⟩

/-- From a run's slot, back to the run's start, over `k` slots. -/
theorem Log.back_to_start (l : Log) (a : Nat) (stored : (l.slotAt (a % 1024)).stored = true)
    (gap : ∃ j < 1024, (l.slotAt j).stored = false) :
    ∃ k < 1024, (a + 1024 - k) % 1024 ∈ l.runStarts ∧
      ∀ i ≤ k, (l.slotAt ((a + 1024 - i) % 1024)).stored = true := by
  have some_gap : ∃ k, 1 ≤ k ∧ k ≤ 1024 ∧ (l.slotAt ((a + 1024 - k) % 1024)).stored = false := by
    obtain ⟨j, hj, h⟩ := gap
    refine ⟨(a + 1024 - j - 1) % 1024 + 1, by omega, by omega, ?_⟩
    rwa [show (a + 1024 - ((a + 1024 - j - 1) % 1024 + 1)) % 1024 = j from by omega]
  classical
  let k := Nat.find some_gap
  obtain ⟨one, top, empty⟩ := Nat.find_spec some_gap
  have least : ∀ i, 1 ≤ i → i < k → (l.slotAt ((a + 1024 - i) % 1024)).stored = true := by
    intro i low high
    have := Nat.find_min some_gap high
    by_contra h
    exact this ⟨low, by omega, by simpa using h⟩
  have run : ∀ i ≤ k - 1, (l.slotAt ((a + 1024 - i) % 1024)).stored = true := by
    intro i hi
    by_cases z : i = 0
    · subst z
      rwa [show (a + 1024 - 0) % 1024 = a % 1024 from by omega]
    · exact least i (by omega) (by have : 1 ≤ k := one; omega)
  refine ⟨k - 1, by have : k ≤ 1024 := top; omega, ?_, run⟩
  rw [Log.mem_runStarts]
  refine ⟨by omega, run (k - 1) (le_refl _), ?_⟩
  have : 1 ≤ k := one
  have : k ≤ 1024 := top
  rw [show ((a + 1024 - (k - 1)) % 1024 + 1023) % 1024 = (a + 1024 - k) % 1024 from by omega]
  exact empty

/-- The longest run of a ring with a gap: every run is shorter, or as long and starts no lower. -/
theorem Log.longestRun_spec (l : Log) (gap : ∃ j < 1024, (l.slotAt j).stored = false) :
    let r := l.longestRun
    r.1 < 1024 ∧ r.2 ≤ 1024 ∧ (∀ j < r.2, (l.slotAt ((r.1 + j) % 1024)).stored = true) ∧
      (r.2 = 0 → r.1 = 0) ∧
      ∀ a n : Nat, a < 1024 → 0 < n → n ≤ 1024 →
        (∀ j < n, (l.slotAt ((a + j) % 1024)).stored = true) → n < r.2 ∨ n = r.2 ∧ r.1 ≤ a := by
  intro r
  have rising : l.runStarts.Pairwise (· < ·) := List.Pairwise.filter _ List.pairwise_lt_range
  obtain ⟨one, two⟩ := foldl_longest l.runLength l.runStarts rising (0, 0) fun i _ => Nat.zero_le i
  have e : r = l.runStarts.foldl
      (fun b i => if b.2 < l.runLength i then (i, l.runLength i) else b) (0, 0) := rfl
  rw [← e] at one two
  have shape : r.1 < 1024 ∧ r.2 ≤ 1024 ∧
      (∀ j < r.2, (l.slotAt ((r.1 + j) % 1024)).stored = true) ∧ (r.2 = 0 → r.1 = 0) := by
    rcases one with g | ⟨pos, mem, len⟩
    · rw [g]
      exact ⟨by decide, by decide, fun j h => absurd h (Nat.not_lt_zero j), fun _ => rfl⟩
    · obtain ⟨le, run⟩ := (l.le_runLength r.1 r.2).mp (le_of_eq len)
      exact ⟨((l.mem_runStarts _).mp mem).1, le, run, fun h => absurd pos (by rw [h]; decide)⟩
  refine ⟨shape.1, shape.2.1, shape.2.2.1, shape.2.2.2, fun a n ha pos hn run => ?_⟩
  have first := run 0 pos
  rw [Nat.add_zero] at first
  obtain ⟨k, hk, start, back⟩ := l.back_to_start a first gap
  by_cases z : k = 0
  · subst z
    rw [show (a + 1024 - 0) % 1024 = a from by omega] at start
    have := (l.le_runLength a n).mpr ⟨hn, run⟩
    have := two a start
    omega
  · have joined : ∀ j < k + n,
        (l.slotAt (((a + 1024 - k) % 1024 + j) % 1024)).stored = true := by
      intro j hj
      by_cases c : j ≤ k
      · have := back (k - j) (by omega)
        rwa [show ((a + 1024 - k) % 1024 + j) % 1024 = (a + 1024 - (k - j)) % 1024 from by omega]
      · have := run (j - k) (by omega)
        rwa [show ((a + 1024 - k) % 1024 + j) % 1024 = (a + (j - k)) % 1024 from by omega]
    have short : k + n ≤ 1024 := by
      by_contra h
      have last := joined 1023 (by omega)
      rw [((l.mem_runStarts _).mp start).2.2] at last
      cases last
    have := (l.le_runLength _ (k + n)).mpr ⟨short, joined⟩
    have := two _ start
    omega

/-- Markers cleared at some slots. -/
theorem Log.clearMarks (l : Log) (places : List Nat) :
    let r := places.foldl (fun (acc : Log) i => acc.putSlot i { acc.slotAt i with stored := false }) l
    (∀ j : Nat, r.slotAt j =
      if j ∈ places then { l.slotAt j with stored := false } else l.slotAt j) ∧
    r = { l with slots := r.slots } := by
  induction places generalizing l with
  | nil => simp
  | cons a rest ih =>
    intro r
    obtain ⟨one, two⟩ := ih (l.putSlot a { l.slotAt a with stored := false })
    have e : r = rest.foldl (fun (acc : Log) i => acc.putSlot i { acc.slotAt i with stored := false })
        (l.putSlot a { l.slotAt a with stored := false }) := rfl
    rw [← e] at one two
    refine ⟨fun j => ?_, two⟩
    rw [one j, Log.slotAt_putSlot]
    by_cases h : j = a
    · subst h; simp
    · simp [h]

/-- The release of `m` records clears the markers of the first `m` slots from the oldest and no other
contents. -/
theorem Log.releaseMany_spec (m : Nat) (l : Log) (oldest : l.oldest < 1024) :
    let r := Log.releaseMany m l
    r.oldest = (l.oldest + m) % 1024 ∧ r.count = l.count - m ∧
    (∀ i : Nat, (r.slotAt i).bytes = (l.slotAt i).bytes ∧
      ((r.slotAt i).stored = true ↔
        (l.slotAt i).stored = true ∧ ∀ j < m, i ≠ (l.oldest + j) % 1024)) ∧
    (∀ i : Nat, i ∈ r.corrupt ↔ i ∈ l.corrupt ∧ ∀ j < m, i ≠ (l.oldest + j) % 1024) ∧
    r = { l with slots := r.slots, corrupt := r.corrupt, oldest := r.oldest, count := r.count } := by
  induction m generalizing l with
  | zero => simp [Log.releaseMany, Nat.mod_eq_of_lt oldest]
  | succ m ih =>
    intro r
    have next : l.releaseOne.oldest = (l.oldest + 1) % 1024 := rfl
    obtain ⟨a, b, c, d, e⟩ := ih l.releaseOne (by rw [next]; omega)
    have er : r = Log.releaseMany m l.releaseOne := rfl
    rw [← er] at a b c d e
    have places : ∀ i : Nat, (i ≠ l.oldest ∧ ∀ j < m, i ≠ (l.releaseOne.oldest + j) % 1024) ↔
        ∀ j < m + 1, i ≠ (l.oldest + j) % 1024 := by
      intro i
      rw [next]
      constructor
      · rintro ⟨first, rest⟩ j hj
        cases j with
        | zero => rwa [Nat.add_zero, Nat.mod_eq_of_lt oldest]
        | succ j =>
          have := rest j (by omega)
          rwa [show (l.oldest + (j + 1)) % 1024 = ((l.oldest + 1) % 1024 + j) % 1024 from by omega]
      · intro all
        refine ⟨by have := all 0 (by omega); rwa [Nat.add_zero, Nat.mod_eq_of_lt oldest] at this,
          fun j hj => ?_⟩
        have := all (j + 1) (by omega)
        rwa [show (l.oldest + (j + 1)) % 1024 = ((l.oldest + 1) % 1024 + j) % 1024 from by omega] at this
    have slot : ∀ i : Nat, l.releaseOne.slotAt i =
        if i = l.oldest then { l.slotAt i with stored := false } else l.slotAt i := by
      intro i
      have := Log.slotAt_putSlot l l.oldest i { l.slotAt l.oldest with stored := false }
      have g : l.releaseOne.slotAt i =
          (l.putSlot l.oldest { l.slotAt l.oldest with stored := false }).slotAt i := rfl
      rw [g, this]
      split_ifs with h
      · subst h; rfl
      · rfl
    refine ⟨?_, ?_, fun i => ⟨?_, ?_⟩, fun i => ?_, ?_⟩
    · rw [a, next]; omega
    · rw [b]; show l.count - 1 - m = _; omega
    · rw [(c i).1, slot]; split_ifs <;> rfl
    · rw [(c i).2, slot, ← places i]
      split_ifs with h
      · simp [h]
      · tauto
    · rw [d, ← places i]
      show i ∈ l.corrupt.filter _ ∧ _ ↔ _
      rw [List.mem_filter]
      simp only [ne_eq, decide_not, Bool.not_eq_true', decide_eq_false_iff_not]
      tauto
    · rw [e]; rfl

/-- The run found from the markers (R126): the whole ring from behind the slot of the greatest sequence
number, or its longest run. -/
theorem Log.foundRun_spec (l : Log) :
    let r := l.foundRun
    r.1 < 1024 ∧ r.2 ≤ 1024 ∧ (∀ j < r.2, (l.slotAt ((r.1 + j) % 1024)).stored = true) := by
  intro r
  by_cases full : ((List.range Config.logSlots).all fun i => (l.slotAt i).stored) = true
  · have all : ∀ i < 1024, (l.slotAt i).stored = true := fun i h =>
      List.all_eq_true.mp full i (List.mem_range.mpr h)
    have e : r = match greatestSeq l.passing with
      | none => (0, Config.logSlots)
      | some p => ((p.1 + 1) % Config.logSlots, Config.logSlots) := if_pos full
    cases g : greatestSeq l.passing with
    | none =>
      rw [g] at e
      rw [e]
      exact ⟨by decide, le_refl _, fun j _ => all _ (by omega)⟩
    | some p =>
      rw [g] at e
      rw [e]
      exact ⟨Nat.mod_lt _ (by decide), le_refl _, fun j _ => all _ (by omega)⟩
  · have e : r = l.longestRun := if_neg full
    rw [e]
    simp only [List.all_eq_true, List.mem_range, not_forall, Bool.not_eq_true] at full
    obtain ⟨j, hj, h⟩ := full
    obtain ⟨a, b, c, _⟩ := l.longestRun_spec ⟨j, hj, h⟩
    exact ⟨a, b, c⟩

/-- The markers outside a run are cleared, and nothing else changes. -/
theorem Log.clearOutside_spec (l : Log) (run : Nat × Nat) (i : Nat) (hi : i < 1024) :
    (l.clearOutside run).slotAt i =
      (if (l.slotAt i).stored = true ∧ run.2 ≤ (i + 1024 - run.1) % 1024 then
        { l.slotAt i with stored := false } else l.slotAt i) ∧
    l.clearOutside run = { l with slots := (l.clearOutside run).slots } := by
  unfold Log.clearOutside
  generalize e : (List.range Config.logSlots).filter _ = places
  obtain ⟨marks, rest⟩ := l.clearMarks places
  have inside : i ∈ places ↔ (l.slotAt i).stored = true ∧ run.2 ≤ (i + 1024 - run.1) % 1024 := by
    rw [← e, List.mem_filter, Bool.and_eq_true, decide_eq_true_eq]
    exact and_iff_right (List.mem_range.mpr hi)
  refine ⟨?_, rest⟩
  rw [marks i]
  exact if_congr inside rfl rfl

theorem Log.slotAt_congr (a b : Log) (h : a.slots = b.slots) (i : Nat) : a.slotAt i = b.slotAt i := by
  unfold Log.slotAt
  rw [h]

/-- A run's index: the slots outside are EMPTY, and the oldest records of the run go. -/
theorem Log.trimmed_spec (l found : Log) (run : Nat × Nat) (excess : Nat) (start : run.1 < 1024)
    (room : run.2 ≤ 1024) (stored : ∀ j < run.2, (l.slotAt ((run.1 + j) % 1024)).stored = true)
    (same : found = { l.clearOutside run with oldest := run.1, count := run.2 }) (r : Log)
    (trimmed : r = (Log.releaseMany excess found).withIndexCrc) :
    r.oldest = (run.1 + excess) % 1024 ∧ r.count = run.2 - excess ∧
    r.indexCrc = crc16 (indexBytes r.oldest r.count) ∧
    (∀ i < 1024, (r.slotAt i).bytes = (l.slotAt i).bytes ∧
      ((r.slotAt i).stored = true ↔ ∃ j < r.count, i = (r.oldest + j) % 1024)) ∧
    r = { l with slots := r.slots, corrupt := r.corrupt, oldest := r.oldest, count := r.count
                 indexCrc := r.indexCrc } := by
  have slots : ∀ i, found.slotAt i = (l.clearOutside run).slotAt i :=
    fun i => Log.slotAt_congr _ _ (by rw [same]) i
  have fo : found.oldest = run.1 := by rw [same]
  have fc : found.count = run.2 := by rw [same]
  have whole : found = { l with slots := found.slots, oldest := run.1, count := run.2 } := by
    rw [same, (l.clearOutside_spec run 0 (by decide)).2]
  obtain ⟨a, b, c, _, e⟩ := Log.releaseMany_spec excess found (fo.trans_lt start)
  rw [fo] at a c
  rw [fc] at b
  generalize Log.releaseMany excess found = q at *
  have oldest : r.oldest = (run.1 + excess) % 1024 := by rw [trimmed]; exact a
  have count : r.count = run.2 - excess := by rw [trimmed]; exact b
  refine ⟨oldest, count, by rw [trimmed]; rfl, fun i hi => ?_, ?_⟩
  · have slot : r.slotAt i = q.slotAt i := Log.slotAt_congr _ _ (by rw [trimmed]; rfl) i
    have old := (slots i).trans (l.clearOutside_spec run i hi).1
    refine ⟨?_, ?_⟩
    · rw [slot, (c i).1, old]; split_ifs <;> rfl
    · rw [slot, (c i).2, old, count, oldest]
      constructor
      · rintro ⟨here, gone⟩
        split_ifs at here with h
        have near : (i + 1024 - run.1) % 1024 < run.2 := by
          by_contra g
          exact h ⟨here, by omega⟩
        have far : ¬ (i + 1024 - run.1) % 1024 < excess := fun g => gone _ g (by omega)
        exact ⟨(i + 1024 - run.1) % 1024 - excess, by omega, by omega⟩
      · rintro ⟨j, hj, e⟩
        have place : (i + 1024 - run.1) % 1024 = excess + j := by omega
        rw [if_neg fun h => by have := h.2; omega]
        refine ⟨?_, fun q hq => by omega⟩
        have := stored (excess + j) (by omega)
        rwa [show (run.1 + (excess + j)) % 1024 = i from by omega] at this
  · rw [trimmed, e, whole]
    rfl

/-- The rebuilt index (R126): of the run found, the newest records that leave room for the journals keep
their markers; every slot keeps its contents. -/
theorem Log.rebuilt_spec (l : Log) (journals : Nat) :
    let run := l.foundRun
    let excess := run.2 + journals - 1024
    let r := l.rebuilt journals
    r.oldest = (run.1 + excess) % 1024 ∧ r.count = run.2 - excess ∧
    r.indexCrc = crc16 (indexBytes r.oldest r.count) ∧
    (∀ i < 1024, (r.slotAt i).bytes = (l.slotAt i).bytes ∧
      ((r.slotAt i).stored = true ↔ ∃ j < r.count, i = (r.oldest + j) % 1024)) ∧
    r = { l with slots := r.slots, corrupt := r.corrupt, oldest := r.oldest, count := r.count
                 indexCrc := r.indexCrc } := by
  obtain ⟨start, room, stored⟩ := l.foundRun_spec
  exact Log.trimmed_spec l _ l.foundRun (l.foundRun.2 + journals - 1024) start room stored rfl _ rfl

end Sys2Proof.Machine
end

