-- ==== Sys2Proof/Laws/Ops.lean ====
section
/-! SUPPORT. What the shared operations do, said once: bytes and replies, the exchange, posting, subjects and
draws, appending, grants and demand. -/

namespace Sys2Proof.Machine

/-! ## Bytes -/

theorem beBytes_length (n v : Nat) : (beBytes n v).length = n := by
  induction n with
  | zero => rfl
  | succ n ih => simp [beBytes, ih]

theorem beBytesInt_length (n : Nat) (v : Int) : (beBytesInt n v).length = n := beBytes_length _ _

/-- Only the digits that fit are written. -/
theorem beBytes_mod (n v : Nat) : beBytes n (v % 256 ^ n) = beBytes n v := by
  induction n generalizing v with
  | zero => rfl
  | succ n ih =>
    have h : v % 256 ^ (n + 1) / 256 ^ n = v / 256 ^ n % 256 := by
      rw [pow_succ, Nat.mod_mul_right_div_self]
    have g : beBytes n (v % 256 ^ (n + 1)) = beBytes n v := by
      rw [← ih (v % 256 ^ (n + 1)), ← ih v, pow_succ, Nat.mod_mul_right_mod]
    simp only [beBytes, h, g]
    congr 1
    apply BitVec.eq_of_toNat_eq
    simp

/-- A natural number of a field that fits is written as it is. -/
theorem beBytesInt_ofNat (n v : Nat) : beBytesInt n (v : Int) = beBytes n v := by
  unfold beBytesInt
  rw [show ((v : Int) % ((256 ^ n : Nat) : Int)).toNat = v % 256 ^ n by norm_cast]
  exact beBytes_mod n v

/-- The bytes of a list read back, most significant first. -/
theorem ofBytes_append (l : List Byte) (b : Byte) : ofBytes (l ++ [b]) = ofBytes l * 256 + b.toNat := by
  simp [ofBytes, List.foldl_append]

theorem ofBytes_foldl (l : List Byte) (a : Nat) :
    l.foldl (fun acc b => acc * 256 + b.toNat) a = a * 256 ^ l.length + ofBytes l := by
  induction l generalizing a with
  | nil => simp [ofBytes]
  | cons b rest ih =>
    have h : ofBytes (b :: rest) = b.toNat * 256 ^ rest.length + ofBytes rest := by
      have g := ih (0 * 256 + b.toNat)
      rw [Nat.zero_mul, Nat.zero_add] at g
      simpa [ofBytes] using g
    rw [List.foldl_cons, ih, h, List.length_cons, pow_succ]
    ring

/-- The number of the bytes of a number, as far as they reach. -/
theorem ofBytes_beBytes (n v : Nat) : ofBytes (beBytes n v) = v % 256 ^ n := by
  induction n with
  | zero => simp [beBytes, ofBytes, Nat.mod_one]
  | succ n ih =>
    have h := ofBytes_foldl (beBytes n v) (0 * 256 + (BitVec.ofNat 8 (v / 256 ^ n)).toNat)
    rw [beBytes_length, ih, BitVec.toNat_ofNat, Nat.zero_mul, Nat.zero_add] at h
    rw [show v % 256 ^ (n + 1) = v / 256 ^ n % 2 ^ 8 * 256 ^ n + v % 256 ^ n by
      rw [show 2 ^ 8 = 256 from rfl, pow_succ, Nat.mod_mul, Nat.add_comm, Nat.mul_comm (256 ^ n)], ← h]
    simp [ofBytes, beBytes]

/-! ## Fields and replies -/

theorem Field.bytes_length (free k : Nat) (f : Field) : (f.bytes free k).length = f.width := by
  unfold Field.bytes
  split
  · exact beBytesInt_length _ _
  · exact beBytes_length _ _

/-- A field that fits shows its figure. -/
theorem Field.bytes_of_fits (free k : Nat) (f : Field) (h : f.fits = true) :
    f.bytes free k = beBytesInt f.width f.value := by
  unfold Field.bytes
  rw [if_pos h]

theorem u8_bytes (free k v : Nat) (h : v < 256) : (u8 v).bytes free k = [BitVec.ofNat 8 v] := by
  have : (u8 v).fits = true := by simp [Field.fits, u8]; omega
  rw [Field.bytes_of_fits _ _ _ this]
  simp [u8, beBytesInt_ofNat, beBytes]

theorem u16_bytes (free k v : Nat) (h : v < 65536) : (u16 v).bytes free k = beBytes 2 v := by
  have : (u16 v).fits = true := by simp [Field.fits, u16]; omega
  rw [Field.bytes_of_fits _ _ _ this]
  simp [u16, beBytesInt_ofNat]

theorem u24_bytes (free k v : Nat) (h : v < 16777216) : (u24 v).bytes free k = beBytes 3 v := by
  have : (u24 v).fits = true := by simp [Field.fits, u24]; omega
  rw [Field.bytes_of_fits _ _ _ this]
  simp [u24, beBytesInt_ofNat]

theorem u32_bytes (free k v : Nat) (h : v < 4294967296) : (u32 v).bytes free k = beBytes 4 v := by
  have : (u32 v).fits = true := by simp [Field.fits, u32]; omega
  rw [Field.bytes_of_fits _ _ _ this]
  simp [u32, beBytesInt_ofNat]

theorem flag8_bytes (free k : Nat) (b : Bool) : (flag8 b).bytes free k = [boolByte b] := by
  cases b <;> rfl

theorem packFields_append (free k : Nat) (a b : List Field) :
    packFields free k (a ++ b) = packFields free k a ++ packFields free (k + a.length) b := by
  induction a generalizing k with
  | nil => simp [packFields]
  | cons f rest ih =>
    simp only [List.cons_append, packFields, ih, List.append_assoc, List.length_cons]
    rw [show k + 1 + rest.length = k + (rest.length + 1) by omega]

/-- Bytes shown as one-byte fields are themselves. -/
theorem packFields_bytes (free k : Nat) (l : List Byte) : packFields free k (byteFields l) = l := by
  induction l generalizing k with
  | nil => rfl
  | cons b rest ih =>
    have h : packFields free (k + 1) (List.map (fun b => u8 b.toNat) rest) = rest := ih (k + 1)
    simp only [byteFields, List.map_cons, packFields, h, u8_bytes free k b.toNat b.isLt]
    simp

theorem padded_take (l : List Byte) :
    (l ++ List.replicate (32 - l.length) 0).take 32 = (l ++ List.replicate 32 0).take 32 := by
  apply List.ext_getElem?
  intro i
  rw [List.getElem?_take, List.getElem?_take, List.getElem?_append, List.getElem?_append,
    List.getElem?_replicate, List.getElem?_replicate]
  split_ifs <;> first | rfl | omega

/-- A held reply is its code, tag, status and packed results, padded with zeros. -/
theorem replyFrame_eq (free : Nat) (code tag : Byte) (st : Status) (fields : List Field) :
    replyFrame free code tag ⟨st, fields⟩ =
      replyBytes code tag st.code (packFields free 0 fields) := by
  have h := padded_take ([code, tag, BitVec.ofNat 8 st.code] ++ packFields free 0 fields)
  simp only [replyFrame, replyBytes]
  exact h

theorem replyFrame_ok (free : Nat) (code tag : Byte) (fields : List Field) :
    replyFrame free code tag (Reply.ok fields) =
      replyBytes code tag 0 (packFields free 0 fields) := replyFrame_eq _ _ _ _ _

theorem replyFrame_refuse (free : Nat) (code tag : Byte) (st : Status) :
    replyFrame free code tag (Reply.refuse st) = replyBytes code tag st.code [] :=
  replyFrame_eq _ _ _ _ _

theorem replyBytes_length (code tag : Byte) (status : Nat) (results : List Byte) :
    (replyBytes code tag status results).length = 32 := by
  simp [replyBytes]

theorem replyFrame_length (free : Nat) (code tag : Byte) (r : Reply) :
    (replyFrame free code tag r).length = 32 := by
  cases r; rw [replyFrame_eq, replyBytes_length]

/-! ## The exchange -/

/-- Every command of the port answers a next state that holds its reply. -/
theorem State.command_eq (code tag : Byte) (body : Body) (s : State) :
    s.command code tag body =
      .next ((body s.beginExchange).1.holding
        (replyBytes code tag (body s.beginExchange).2.status.code
          (packFields (body s.beginExchange).1.free 0 (body s.beginExchange).2.results))) := by
  have h := replyFrame_eq (body s.beginExchange).1.free code tag (body s.beginExchange).2.status
    (body s.beginExchange).2.results
  unfold State.holding
  rw [← h]
  rfl

/-- A body that refuses leaves what a refused command leaves. -/
theorem State.command_refuse (code tag : Byte) (body : Body) (st : Status) (s : State)
    (h : body s.beginExchange = (s.beginExchange, Reply.refuse st)) :
    s.command code tag body = .next (s.refusing code tag st) := by
  rw [State.command_eq, h]; rfl

theorem afterSeal_sealed (body : Body) (s : State) (h : s.isSealed = true) :
    afterSeal body s = body s := by simp [afterSeal, h]

theorem afterSeal_unsealed (body : Body) (s : State) (h : s.isSealed = false) :
    afterSeal body s = (s, Reply.refuse .notSealed) := by simp [afterSeal, h]

theorem beforeSeal_sealed (body : Body) (s : State) (h : s.isSealed = true) :
    beforeSeal body s = (s, Reply.refuse .sealed) := by simp [beforeSeal, h]

theorem beforeSeal_unsealed (body : Body) (s : State) (h : s.isSealed = false) :
    beforeSeal body s = body s := by simp [beforeSeal, h]

/-! ## Events (R175) -/

/-- A posting leaves the part as it is, adds one event at the tail of a queue with room, or sets
OVERFLOWED. -/
theorem State.post_cases (kind : EventKind) (subject : EventSubject) (value : Int) (s : State) :
    s.post kind subject value = s ∨
    (s.port.events.length < Config.eventRoom ∧ s.post kind subject value =
      { s with port := { s.port with
          events := s.port.events ++ [{ kind, subject, value, postedAt := s.nowSec }] } }) ∨
    s.post kind subject value = { s with port := { s.port with overflowed := true } } := by
  unfold State.post
  split_ifs with a b
  · exact Or.inl rfl
  · exact Or.inr (Or.inl ⟨b, rfl⟩)
  · exact Or.inr (Or.inr rfl)

theorem State.post_events_length (kind : EventKind) (subject : EventSubject) (value : Int) (s : State)
    (h : s.port.events.length ≤ Config.eventRoom) :
    (s.post kind subject value).port.events.length ≤ Config.eventRoom := by
  rcases State.post_cases kind subject value s with e | ⟨g, e⟩ | e <;> rw [e]
  · exact h
  · simp; omega
  · exact h

theorem State.post_mask (kind : EventKind) (subject : EventSubject) (value : Int) (s : State) :
    (s.post kind subject value).port.mask = s.port.mask := by
  rcases State.post_cases kind subject value s with e | ⟨_, e⟩ | e <;> rw [e]

theorem State.post_held (kind : EventKind) (subject : EventSubject) (value : Int) (s : State) :
    (s.post kind subject value).port.held = s.port.held := by
  rcases State.post_cases kind subject value s with e | ⟨_, e⟩ | e <;> rw [e]

/-- A posting changes the port alone. -/
theorem State.post_eq (kind : EventKind) (subject : EventSubject) (value : Int) (s : State) :
    s.post kind subject value = { s with port := (s.post kind subject value).port } := by
  rcases State.post_cases kind subject value s with e | ⟨_, e⟩ | e <;> rw [e]

/-! ## Subjects and draws (R150 to R152) -/

/-- A draw changes the generator and the backoff, and only where the link is IDLE with a subject waiting, the
clash latch clear and no backoff pending. -/
theorem State.draw_cases (s : State) :
    s.draw = s ∨
    ∃ g, s.link.state = .idle ∧ s.link.queue ≠ [] ∧ s.link.clash = false ∧ s.link.backoff = none ∧
      s.link.gen = some g ∧
      s.draw = { s with link := { s.link with
        gen := some (genStep g)
        backoff := some (s.nowMs + (genStep g).toNat % 8 * s.linkSlot) } } := by
  unfold State.draw
  split_ifs with h
  · cases hg : s.link.gen with
    | none => exact Or.inl rfl
    | some g => exact Or.inr ⟨g, h.1, h.2.1, h.2.2.1, h.2.2.2, rfl, rfl⟩
  · exact Or.inl rfl

/-- The generator does not reach 0 from another value (R151). -/
theorem genStep_ne_zero (g : BitVec 16) (h : g ≠ 0) : genStep g ≠ 0 := by
  intro e
  apply h
  unfold genStep at e
  split_ifs at e with b
  · exfalso
    have h15 := congrArg (fun x : BitVec 16 => x.getLsbD 15) e
    simp at h15
  · apply BitVec.eq_of_getLsbD_eq
    intro i hi
    by_cases hz : i = 0
    · subst hz; simpa using b
    · have hj := congrArg (fun x : BitVec 16 => x.getLsbD (i - 1)) e
      simp only [BitVec.getLsbD_ushiftRight] at hj
      rw [show 1 + (i - 1) = i by omega] at hj
      simpa using hj

/-- The first draws of station 3 (R151). -/
theorem genStep_station3 :
    BitVec.ofNat 16 (3 * 4097) = 0x3003 ∧ genStep 0x3003 = 0xAC01 ∧ genStep 0xAC01 = 0xE200 ∧
      genStep 0xE200 = 0x7100 := by decide

/-- A subject asked for (R150): it is queued already, or dropped by a full queue, or joins the tail with the
draw that may start. -/
theorem State.ask_cases (sub : Subject) (s : State) :
    (sub ∈ s.link.queue ∧ s.ask sub = s) ∨
    (sub ∉ s.link.queue ∧ Config.subjectRoom ≤ s.link.queue.length ∧ s.ask sub = s.postDrop sub) ∨
    (sub ∉ s.link.queue ∧ s.link.queue.length < Config.subjectRoom ∧
      s.ask sub = State.draw { s with link := { s.link with queue := s.link.queue ++ [sub] } }) := by
  unfold State.ask
  split_ifs with a b
  · exact Or.inl ⟨a, rfl⟩
  · exact Or.inr (Or.inr ⟨a, b, rfl⟩)
  · exact Or.inr (Or.inl ⟨a, by omega, rfl⟩)

/-- A subject asked for is in the queue unless the queue was full (R150). -/
theorem State.ask_mem (sub : Subject) (s : State) (h : s.link.queue.length < Config.subjectRoom) :
    sub ∈ (s.ask sub).link.queue := by
  rcases State.ask_cases sub s with ⟨a, e⟩ | ⟨_, b, _⟩ | ⟨_, _, e⟩
  · rw [e]; exact a
  · omega
  · rw [e]
    rcases State.draw_cases { s with link := { s.link with queue := s.link.queue ++ [sub] } } with d | d
    · rw [d]; simp
    · obtain ⟨g, -, -, -, -, -, d⟩ := d
      rw [d]; simp

/-! ## One after another -/

/-- What each of a list of operations keeps, all of them keep. -/
theorem State.forEach_keeps {α : Type} (P : State → Prop) (l : List α) (f : α → State → State)
    (s : State) (h : ∀ a ∈ l, ∀ u, P u → P (f a u)) (hs : P s) : P (s.forEach l f) := by
  induction l generalizing s with
  | nil => exact hs
  | cons a rest ih =>
    exact ih (f a s) (fun b hb u hu => h b (List.mem_cons_of_mem _ hb) u hu)
      (h a (by simp) s hs)

/-! ## The log (R113, R117) -/

theorem Record.body_length (seq : BitVec 32) (day : BitVec 16) (free : Nat) (r : Record) :
    (r.body seq day free).length = 46 := by
  simp [Record.body, beBytes_length, beBytesInt_length, Field.bytes_length, i16]

theorem Record.bytes_length (seq : BitVec 32) (day : BitVec 16) (free : Nat) (r : Record) :
    (r.bytes seq day free).length = 48 := by
  simp [Record.bytes, Record.body_length, beBytes_length]

/-- Every record passes its check when it is written (R117). -/
theorem Record.bytes_pass (seq : BitVec 32) (day : BitVec 16) (free : Nat) (r : Record) :
    recordPasses (r.bytes seq day free) = true := by
  have h := Record.body_length seq day free r
  have b := beBytes_length 2 (crc16 (r.body seq day free)).toNat
  unfold recordPasses Record.bytes
  simp only [List.take_append, List.drop_append, h]
  simp only [List.take_of_length_le (Nat.le_of_eq h), Nat.sub_self, List.take_zero, List.append_nil,
    List.drop_of_length_le (Nat.le_of_eq h), List.nil_append, List.drop_zero, List.take_nil,
    List.length_nil, Nat.sub_zero, List.take_of_length_le (Nat.le_of_eq b), ofBytes_beBytes]
  rw [Nat.mod_eq_of_lt (by have := (crc16 (r.body seq day free)).isLt; omega)]
  simp

/-- An append (R117): the record at the tail, the other slots as they were, the run longer by one. -/
theorem State.append_log (r : Record) (holder : Option Holder) (s : State) :
    (s.append r holder).log.slotAt s.log.tail =
      { stored := true, bytes := r.bytes s.log.seq s.table.day s.free } ∧
    (∀ i, i ≠ s.log.tail → (s.append r holder).log.slotAt i = s.log.slotAt i) ∧
    (s.append r holder).log.count = s.log.count + 1 ∧
    (s.append r holder).log.oldest = s.log.oldest ∧
    (s.append r holder).log.seq = s.log.seq + 1 ∧
    (s.append r holder).log.indexCrc = crc16 (indexBytes s.log.oldest (s.log.count + 1)) ∧
    (s.append r holder).log.seqCrc = crc16 (beBytes 4 (s.log.seq + 1).toNat) ∧
    (s.append r none).log.reserved = s.log.reserved ∧
    (∀ h, (s.append r (some h)).log.reserved = s.log.reserved.set h false) ∧
    (s.append r holder).log.corrupt = s.log.corrupt ∧
    (s.append r holder).log.drain = s.log.drain ∧ (s.append r holder).log.scrub = s.log.scrub := by
  have key (i : Nat) : (s.append r holder).log.slotAt i =
      (s.log.putSlot s.log.tail
        { stored := true, bytes := r.bytes s.log.seq s.table.day s.free }).slotAt i := rfl
  refine ⟨?_, fun i hi => ?_, rfl, rfl, rfl, rfl, rfl, rfl, fun _ => rfl, rfl, rfl, rfl⟩
  · rw [key, Log.slotAt_putSlot, if_pos rfl]
  · rw [key, Log.slotAt_putSlot, if_neg hi]

/-! ## Grants and demand (R82 to R84) -/

/-- The grants held, hose by hose. -/
theorem Pump.grantCount_eq (p : Pump) :
    p.grantCount = [(0 : HoseId), 1, 2, 3].countP fun n => p.grants[n] := by
  rcases p with ⟨_, _, ⟨⟨l⟩, size⟩, _, _, _, _, _, _, _⟩
  match l, size with
  | [a, b, c, d], _ => cases a <;> cases b <;> cases c <;> cases d <;> rfl

/-- A request for a FULL grant (R82): granted while a grant is free and the queue empty, else at the tail. -/
theorem Pump.request_eq (maxFull : Nat) (n : HoseId) (p : Pump) :
    (p.grantCount < maxFull → p.queue = [] →
      p.request maxFull n = { p with grants := p.grants.set n true }) ∧
    (maxFull ≤ p.grantCount ∨ p.queue ≠ [] → p.request maxFull n = { p with queue := p.queue ++ [n] }) := by
  refine ⟨fun a b => if_pos ⟨a, b⟩, fun h => if_neg fun g => ?_⟩
  rcases h with h | h
  · exact absurd g.1 (by omega)
  · exact h g.2

/-- A hose gives up its grant, which passes to the head of the queue, or its place (R83). -/
theorem Pump.giveUp_eq (n : HoseId) (p : Pump) :
    (p.grants[n] = true → p.queue = [] → p.giveUp n = { p with grants := p.grants.set n false }) ∧
    (∀ m rest, p.grants[n] = true → p.queue = m :: rest →
      p.giveUp n = { p with grants := (p.grants.set n false).set m true, queue := rest }) ∧
    (p.grants[n] = false →
      p.giveUp n = { p with queue := p.queue.filter fun m => decide (m ≠ n) }) := by
  refine ⟨fun h q => ?_, fun m rest h q => ?_, fun h => ?_⟩
  · unfold Pump.giveUp Pump.passGrant; rw [if_pos h]; simp only [q]
  · unfold Pump.giveUp Pump.passGrant; rw [if_pos h]; simp only [q]
  · unfold Pump.giveUp; rw [if_neg (by simp [h])]

/-- The demand of a pump that is not RUNNING (R84). -/
theorem State.selectedDemand_still (s : State) (k : CompId) :
    (s.pumps[k].state = .off ∨ s.pumps[k].state = .fault → s.selectedDemand k = none) ∧
    (s.pumps[k].state = .starting → s.selectedDemand k = some .slow) ∧
    (s.pumps[k].state = .runOn → s.selectedDemand k = some .idle) := by
  refine ⟨?_, ?_, ?_⟩
  · rintro (h | h) <;> (unfold State.selectedDemand; rw [h])
  · intro h; unfold State.selectedDemand; rw [h]
  · intro h; unfold State.selectedDemand; rw [h]

/-! ## The profile chain (R64, R69) -/

/-- A condition that is not met stays at its step. -/
theorem chain_stays (p : List ProfileStep) (delivered remaining : Int) (fuel : Nat) (st : StepState)
    (h : (condOf p st.index).met delivered remaining st = false) :
    chain p delivered remaining fuel st = .stays st := by
  cases fuel <;> simp [chain, h]

/-- A met condition ends the profile at END, and otherwise enters the next step. -/
theorem chain_next (p : List ProfileStep) (delivered remaining : Int) (fuel : Nat) (st : StepState)
    (h : (condOf p st.index).met delivered remaining st = true) :
    chain p delivered remaining 0 st = .looped ∧
    (nextOf p st.index = none → chain p delivered remaining (fuel + 1) st = .ended) ∧
    (∀ i, nextOf p st.index = some i →
      chain p delivered remaining (fuel + 1) st = chain p delivered remaining fuel (st.enter p i)) := by
  refine ⟨by simp [chain, h], fun e => by simp [chain, h, e], fun i e => by simp [chain, h, e]⟩

/-- The handed stage stays through a chain (R66). -/
theorem chain_handed (p : List ProfileStep) (delivered remaining : Int) (fuel : Nat)
    (st x : StepState) (h : chain p delivered remaining fuel st = .stays x) : x.handed = st.handed := by
  induction fuel generalizing st with
  | zero =>
    unfold chain at h
    split_ifs at h
    cases h; rfl
  | succ fuel ih =>
    unfold chain at h
    split_ifs at h
    · cases e : nextOf p st.index with
      | none => simp [e] at h
      | some i =>
        simp only [e] at h
        exact ih (st.enter p i) h
    · cases h; rfl

/-! ## Entry to SETTLING (R51, R52) -/

/-- The window in flight has its expiry time still to come (R52). -/
theorem State.inWindow_iff (s : State) (n : HoseId) :
    s.inWindow n = true ↔ ∃ due, s.meters[meterOf n].due = some due ∧ s.now < due := by
  simp [State.inWindow, Option.any_eq_true]

/-- The context that an entry to SETTLING leaves, and the other hoses (R51, R52). -/
theorem State.enterSettling_hose (n : HoseId) (c : EndCause) (s : State) :
    (s.enterSettling n c).hoses[n] = s.stoppedContext n c (s.enterSettling n c).hoses[n].journal ∧
    ∀ m : HoseId, m ≠ n → (s.enterSettling n c).hoses[m] = s.hoses[m] := by
  constructor
  · simp [State.enterSettling, State.writeJournal, State.setHose, State.reselect, State.setPump,
      State.release, Hose.settled, State.stoppedContext, State.inWindow]
    rfl
  · intro m ne
    have : n.val ≠ m.val := fun e => ne (Fin.ext e.symm)
    simp [State.enterSettling, State.writeJournal, State.setHose, State.reselect, State.setPump,
      State.release, Vector.getElem_set, this]

/-! ## A window's figures and the pending preset (R49, R93, R94) -/

/-- The figures a window hands over (R90, R93, R94). -/
theorem State.windowOf_eq (s : State) (m : MeterId) :
    s.windowOf m =
      { count := s.meters[m].count, sat := s.meters[m].sat, phaseErr := s.meters[m].phaseErr
        rate := rateOf s.meters[m].count s.metro.meters[m].nf
        mf := curveAt s.metro.meters[m].curve (rateOf s.meters[m].count s.metro.meters[m].nf) } := rfl

/-- A pending preset applied (R49). -/
theorem Hose.applyPending_eq (h : Hose) :
    h.applyPending = { h with preset := h.pendingPreset.or h.preset, pendingPreset := none } := by
  unfold Hose.applyPending
  split <;> rename_i e <;> simp [e] <;> rw [← e]

/-- A pump that is stopped gives up everything (R81). -/
theorem State.stopPump_pumps (k : CompId) (s : State) :
    (s.stopPump k).pumps = s.pumps.set k (s.pumps[k].halted
      (if s.pumps[k].state = .fault ∧ s.pins.pflt[k] = true then .fault else .off)) := rfl

/-! ## The sticky flags as fields (R121, R172) -/

/-- The flags read back from a journal's field. -/
theorem DFlags.ofWord_word (f : DFlags) : DFlags.ofWord f.word = f := by
  rcases f with ⟨_ | _, _ | _, _ | _, _ | _⟩ <;> rfl

/-- Each flag at the bit of its place in the list of R35, and nothing else. -/
theorem DFlags.viewBits_bits (f : DFlags) :
    f.viewBits.testBit 0 = f.uncompensated ∧ f.viewBits.testBit 1 = f.tempHeld ∧
    f.viewBits.testBit 2 = f.overspeed ∧ f.viewBits.testBit 3 = f.overflow ∧ f.viewBits < 16 := by
  rcases f with ⟨_ | _, _ | _, _ | _, _ | _⟩ <;> decide

/-! ## A change of a book and the high-level test (R128, R138) -/

/-- A value held at two bounds. -/
theorem clampInt_eq (lo hi x : Int) (h : lo ≤ hi) : clampInt lo hi x = max lo (min hi x) := by
  unfold clampInt
  split_ifs <;> omega

/-- A book changed by an amount, with what follows it (R128). -/
theorem State.changeBook_eq (k : CompId) (d : Int) (s : State) :
    s.changeBook k d = s.rebooked k (s.stock.books[k].value + d) := by
  simp only [State.changeBook, State.rebooked, State.adjustBook, State.putBook]
  rw [clampInt_eq _ _ _ (by decide)]
  rfl

/-- The high-level test changes nothing, or drops the RAISED permit of a session of its compartment that
meets it by its book or by its gauge (R138). -/
theorem State.highLevelTest_cases (k : CompId) (s : State) :
    s.highLevelTest k = s ∨
    ∃ x : Session, s.stock.session = some x ∧ x.comp = k ∧ x.permit = .raised ∧
      (s.highByBook x = true ∨ s.highByGauge x = true) ∧
      s.highLevelTest k = s.dropPermit x (s.highByBook x) := by
  unfold State.highLevelTest
  split
  · exact Or.inl rfl
  · rename_i x e
    split_ifs with h
    · exact Or.inr ⟨x, e, h.1, h.2.1, by simpa using h.2.2, rfl⟩
    · exact Or.inl rfl

/-! ## Ascending points (R166) -/

/-- Strict ascent from neighbour to neighbour is strict ascent of every earlier over every later one. -/
theorem ascending_iff (l : List Nat) : ascending l = true ↔ l.Pairwise (· < ·) := by
  induction l with
  | nil => simp [ascending]
  | cons a rest ih =>
    cases rest with
    | nil => simp [ascending]
    | cons b rest =>
      rw [ascending, Bool.and_eq_true, decide_eq_true_eq, ih, List.pairwise_cons (a := a)]
      constructor
      · intro ⟨h, p⟩
        refine ⟨fun x hx => ?_, p⟩
        rcases List.mem_cons.mp hx with e | e
        · exact e ▸ h
        · exact h.trans ((List.pairwise_cons.mp p).1 x e)
      · intro ⟨h, p⟩
        exact ⟨h b List.mem_cons_self, p⟩

/-- The points in use of a table or a curve ascend, point by point. -/
theorem ascending_points {n : Nat} (v : Vector (Nat × Nat) n) (count : Nat) :
    ascending ((v.toList.take count).map Prod.fst) = true ↔
      ∀ p q : Fin n, p < q → q.val < count → v[p].1 < v[q].1 := by
  rw [ascending_iff, List.pairwise_map, List.pairwise_iff_getElem]
  constructor
  · intro h p q lt inside
    have := h p.val q.val (by simp; omega) (by simp; omega) lt
    simpa using this
  · intro h i j hi hj lt
    simp only [List.length_take, Vector.length_toList] at hi hj
    have := h ⟨i, by omega⟩ ⟨j, by omega⟩ lt (by simp; omega)
    simpa using this

end Sys2Proof.Machine
end

