-- ==== Sys2Proof/Tests/Slice0.lean ====
section
/-! SUPPORT. Tests: the checks refuse ill-formed terms, frames decode as the spec's tables give them, the spec's
worked cases, a small step of each command and event, and for every statement with hypotheses a state and
operands that meet them, clause by clause. -/

set_option maxRecDepth 100000

namespace Sys2Proof.Tests

open Sys2Proof Sys2Proof.Machine

/-! ## States the tests start from -/

/-- The state an instruction leaves. -/
def after (i : Instr) (s : State) : State :=
  match exec i s with
  | .next t => t
  | _ => s

/-- The calibration of every meter. -/
def testCal : MeterCal :=
  { nf := 1000, count := 2,
    points := #v[(0, 256000), (1000, 257000), (0, 0), (0, 0), (0, 0), (0, 0)] }

/-- A loaded metrology block. -/
def testMetro : Metrology :=
  { meters := Vector.replicate 5 testCal, alpha := Vector.replicate 2 (some 830),
    tcal := Vector.replicate 3 (some (16384, -4000)), issued := some 0 }

/-- Profile 0: SLOW to 500 mL, FULL until 200 mL remain, SLOW to the end. -/
def testProfile : List ProfileStep :=
  [{ stage := .slow, cond := .deliveredAtLeast 500, next := some 1 },
   { stage := .full, cond := .remainingAtMost 200, next := some 2 },
   { stage := .slow, cond := .never, next := none }]

/-- Station 3, loaded before its seal. -/
def loaded : State :=
  { State.reset with
    config :=
      { items := [(1, 3)], strapCount := Vector.replicate 2 2
        strapPoints := Vector.replicate 2 ((Vector.replicate 16 (0, 0)).set 1 (3000, 12000)) }
    profiles := Vector.replicate 8 testProfile
    metro := { testMetro with issued := some testMetro.crc } }

/-- The entry of ring ID 0x094627. -/
def testEntry : Entry :=
  (Entry.new 0x094627 7 5 (true, true) .active 500 300).withCrc

/-- The part sealed for 10 s: every hose IDLE, one machine, both books set. -/
def ready : State :=
  { loaded with
    isSealed := true, now := 10000000, scanDue := some 60000000
    readers := Vector.replicate 4
      { Reader.restarted with
        state := .waiting, baseline := Vector.replicate 24 (some 1000), periodDue := some 12000000 }
    table := { loaded.table with entries := [(4, testEntry)] }
    hoses := Vector.replicate 4 (Hose.bare .idle none)
    pumps := Vector.replicate 2 { Pump.restarted with pwmDue := some 10000500 }
    meters := Vector.replicate 5
      { Meter.restarted with
        levels := some (false, false), due := some 10250000, obsDue := some 10000002 }
    sampler := { Sampler.restarted with due := some 10000000 }
    log := { loaded.log with scrubDue := some 15000000 }
    stock := { loaded.stock with books := #v[bookOf 0 5000000 true, bookOf 1 5000000 true] }
    link := { loaded.link with
      state := .idle, gen := some 0x3003, sweepDue := some 20000000, stockDue := some 60000000 } }

/-- The machine of the entry, identified by its ring. -/
def testIdent : Ident := { method := .ring, slot := 4, ring := 0x094627, number := 7, costCentre := 5 }

/-- Hose H0 in a state, with the context that goes with it. -/
def testHose : HoseState → Hose
  | .offline => Hose.bare .offline none
  | .idle => Hose.bare .idle none
  | .reading => Hose.bare .reading none
  | .finished => Hose.bare .finished none
  | .unidentified => { Hose.bare .unidentified none with reason := some .grade }
  | .identified =>
    { Hose.bare .identified none with
      ident := some testIdent, lookupLimit := some 300000, armExpiry := some 130 }
  | .armed =>
    { Hose.bare .armed none with
      ident := some testIdent, preset := some 20000, acc := some Accum.zero, armExpiry := some 130 }
  | .priming =>
    { Hose.bare .priming none with
      ident := some testIdent, preset := some 20000, acc := some Accum.zero }
  | .flowing =>
    { Hose.bare .flowing none with
      ident := some testIdent, preset := some 20000, acc := some Accum.zero, beenFlowing := true
      step := some (firstStep testProfile) }
  | .paused =>
    { Hose.bare .paused none with
      ident := some testIdent, preset := some 20000, acc := some Accum.zero, beenFlowing := true
      step := some { firstStep testProfile with elapsed := 3 }, pauseExpiry := some 190 }
  | .settling =>
    { Hose.bare .settling none with
      ident := some testIdent, preset := some 20000, acc := some Accum.zero, beenFlowing := true
      endCause := some .hostStop, settleCount := 2, quietRun := 3 }

/-- The part with H0 in a state, its pump P0 RUNNING for it where it holds a claim. -/
def inState (st : HoseState) : State :=
  { ready with
    pins := { ready.pins with seat := ready.pins.seat.set 0 true }
    hoses := ready.hoses.set 0 { testHose st with
      journal := if st.delivering then some ((testHose st).toJournal 0 0) else none }
    pumps := ready.pumps.set 0 { Pump.restarted with
      state := if st.isActive then .running else .off
      claims := (Vector.replicate 4 false).set 0 st.isActive, pwmDue := some 10000500 }
    meters := ready.meters.set 0 { (ready.meters[0] : Meter) with
      attach := if st.delivering then .delivery else .stray }
    readers := ready.readers.set 0 { (ready.readers[0] : Reader) with
      state := if st = .reading then .reading else .waiting
      tryNo := if st = .reading then 1 else 0
      slotDue := if st = .reading then some 10000000 else none }
    log := { ready.log with reserved := ready.log.reserved.set 0 st.isOpen } }

/-- The part with H0 in a state and P0 in a run state. -/
def withPump (st : HoseState) (pump : PumpState) : State :=
  { inState st with
    pumps := (inState st).pumps.set 0 { (inState st).pumps[0] with
      state := pump
      spinUp := if pump = .starting then some 11500 else none
      runOn := if pump = .runOn then some 25 else none } }

/-! ## The invariants hold where they are assumed -/

theorem hoseInv_inState (st : HoseState) : HoseInv (inState st) := by
  cases st <;> exact ⟨by decide, by decide, by decide⟩

theorem grantInv_inState (st : HoseState) : GrantInv (inState st) := by
  refine ⟨hoseInv_inState st, ?_, ?_, ?_, ?_, ?_⟩ <;> cases st <;> decide

theorem flowInv_inState (st : HoseState) : FlowInv (inState st) := by
  refine ⟨hoseInv_inState st, ?_, ?_, ?_, ?_, ?_, ?_, ?_, ?_⟩ <;> cases st <;> decide

theorem logInv_inState (st : HoseState) : LogInv (inState st) := by
  refine ⟨hoseInv_inState st, ?_, ?_, ?_, ?_, ?_, ?_, ?_, ?_⟩ <;> cases st <;> decide

theorem portInv_inState (st : HoseState) : PortInv (inState st) := by
  refine ⟨?_, ?_, ?_⟩ <;> cases st <;> decide

theorem linkInv_inState (st : HoseState) : LinkInv (inState st) := by
  refine ⟨?_, ?_, ?_, ?_, ?_, ?_, ?_, ?_, ?_⟩ <;> cases st <;> decide

theorem tableInv_inState (st : HoseState) : TableInv (inState st) := by
  refine ⟨?_, ?_, ?_, ?_, ?_⟩ <;> cases st <;> decide

theorem crcInv_inState (st : HoseState) : CrcInv (inState st) where
  log := logInv_inState st
  entries := by cases st <;> decide
  day := by cases st <;> decide
  logIndex := by cases st <;> decide
  records i hi := by cases st <;> cases hi
  lengths i := by cases st <;> rfl
  stored i hi := by cases st <;> exact absurd hi (Nat.not_lt_zero i)
  counter := by cases st <;> decide
  books := by cases st <;> decide
  journals := by
    have key : ∀ n : HoseId,
        ((inState st).hoses[n].journal.all fun j => j.crc == crc16 j.bytes) = true := by
      cases st <;> decide
    intro n j hj
    have h := key n
    rw [hj] at h
    simpa using h
  receipt := by cases st <;> intro j hj <;> cases hj
  notices := by cases st <;> decide

/-! ## Well-formed commands -/

/-- A listed code is no UNKNOWN_COMMAND, and an unlisted one is. -/
theorem test_unknownCommand_wellFormed :
    (Instr.unknownCommand 0x06 1).wellFormed = true ∧ (Instr.unknownCommand 0x62 1).wellFormed = true ∧
      (Instr.unknownCommand 0x61 1).wellFormed = false := by decide

/-- The continuation flag set is the other row. -/
theorem test_loadProfile_wellFormed :
    let steps : Vector RawStep 4 := Vector.replicate 4 { head := 0, param := 0, next := 0 }
    (Instr.loadProfile 1 0 1 0 steps).wellFormed = true ∧
      (Instr.loadProfile 1 0 1 1 steps).wellFormed = false := by decide

/-- Drain mode on is the other row. -/
theorem test_readRecord_wellFormed :
    (Instr.readRecord 1 0 0 0).wellFormed = true ∧ (Instr.readRecord 1 0 0 1).wellFormed = false := by
  decide

/-- A listed section is not unknown. -/
theorem test_section_wellFormed :
    (Instr.loadMetrology 1 (.unknown 5)).wellFormed = true ∧
      (Instr.loadMetrology 1 (.unknown 4)).wellFormed = false := by decide

/-! ## Frames -/

/-- Bytes written out from the parameter tables, each with the command they spell. -/
theorem test_frames_spell_commands :
    decodeFrame (frameOf [0x00, 0x07]) = some (.nop 0x07) ∧
    decodeFrame (frameOf [0x06, 0x07]) = some (.unknownCommand 0x06 0x07) ∧
    decodeFrame (frameOf [0x01, 0x09, 118, 2, 0x01, 0xF4, 0x27, 0x10]) =
      some (.setConfig 0x09 118 2 0x01F42710) ∧
    decodeFrame (frameOf [0x03, 0x01, 1, 4, 0, 0, 0, 5, 0x03, 0xE8, 0x01, 0x02, 0x03]) =
      some (.loadMetrology 0x01 (.meterPoint 4 5 1000 0x010203)) ∧
    decodeFrame (frameOf [0x03, 0x01, 0, 4, 0x27, 0x10, 0, 0, 0, 6]) =
      some (.loadMetrology 0x01 (.meterHead 4 10000 6)) ∧
    decodeFrame (frameOf [0x10, 0x01, 0x09, 0x46, 0x27, 0x01, 0x02, 63, 0, 0, 0, 3, 1, 0x01, 0xF4, 0x01, 0x2C]) =
      some (.putMachine 0x01 0x094627 0x0102 63 3 1 500 300) ∧
    decodeFrame (frameOf [0x20, 0x55, 2, 0x00, 0x03, 0xD0, 0x90, 0x12, 0x34]) =
      some (.authorise 0x55 2 250000 0x1234) ∧
    decodeFrame (frameOf [0x30, 0x55, 0, 0, 0x03, 0xFF, 1, 0]) = some (.readRecord 0x55 1023 1 0) ∧
    decodeFrame (frameOf [0x30, 0x55, 0, 0, 0, 0, 0, 1]) = some (.readRecordDrain 0x55 0 0) ∧
    decodeFrame (frameOf [0x40, 0x55, 1, 0x00, 0x4C, 0x4B, 0x40]) = some (.setStock 0x55 1 5000000) ∧
    decodeFrame (frameOf [0x61, 0x55, 0x03, 0xFF, 0xFF]) = some (.setEventMask 0x55 0x03FFFF) ∧
    decodeFrame ([0x14, 0x55, 2, 0, 0, 9, 16] ++ List.replicate 24 0 ++ [1]) =
      some (.getMachine 0x55 2 9 16 1) ∧
    decodeFrame (List.replicate 31 0) = none := by decide

/-- A profile step's six bytes (R174). -/
theorem test_frame_spells_steps :
    decodeFrame (frameOf [0x02, 0x01, 3, 5, 0, 0x12, 0, 0x2D, 0xC6, 0xC0, 0xFF]) =
      some (.loadProfile 0x01 3 5 0
        ((Vector.replicate 4 { head := 0, param := 0, next := 0 }).set 0
          { head := 0x12, param := 3000000, next := 0xFF })) ∧
    decodeFrame (frameOf [0x02, 0x01, 3, 5, 1, 0x40]) =
      some (.loadProfileContinuation 0x01 3 5
        ((Vector.replicate 4 { head := 0, param := 0, next := 0 }).set 0
          { head := 0x40, param := 0, next := 0 })) ∧
    stepOf { head := 0x12, param := 3000000, next := 0xFF } =
      some { stage := .full, cond := .remainingAtMost 3000000, next := none } ∧
    stepOf { head := 0x31, param := 0x00040064, next := 7 } =
      some { stage := .slow, cond := .stall 4 100, next := some 7 } ∧
    stepOf { head := 0x20, param := 0x00010000, next := 0 } =
      some { stage := .closed, cond := .elapsed 1, next := some 0 } ∧
    stepOf { head := 0x00, param := 30000001, next := 0 } = none ∧
    stepOf { head := 0x20, param := 0x0000FFFF, next := 0 } = none ∧
    stepOf { head := 0x03, param := 0, next := 0 } = none ∧
    stepOf { head := 0x50, param := 0, next := 0 } = none ∧
    stepOf { head := 0x80, param := 0, next := 0 } = none ∧
    stepOf { head := 0x40, param := 0, next := 8 } = none := by decide

/-- No word of the table spells a command, and none is put in the queue. -/
theorem test_no_word : decodeTableWord 32 0 = none ∧ State.reset.withFetchWord 32 0 = State.reset :=
  ⟨rfl, rfl⟩

/-! ## Worked cases -/

/-- R148: the CRC of the nine digits. -/
theorem test_crc_of_digits :
    crc16 [0x31, 0x32, 0x33, 0x34, 0x35, 0x36, 0x37, 0x38, 0x39] = 0x29B1 := by decide

/-- R151: the first draws of station 3. -/
theorem test_generator :
    (after (.sealPart 0) loaded).link.gen = some 0x3003 ∧ genStep 0x3003 = 0xAC01 ∧
      genStep 0xAC01 = 0xE200 ∧ genStep 0xE200 = 0x7100 := by decide

/-- 1.7: the counts of the first try and of the second. -/
def firstCounts : List Nat :=
  [1020, 1020, 1400, 1400, 1020, 1150, 1020, 1400, 1020, 1020, 1400, 1400,
   1400, 1020, 1020, 1020, 1020, 1180, 1020, 1020, 1400, 1020, 1400, 1020]

def secondCounts : List Nat := firstCounts.set 5 1020

/-- 1.7: the first try is UNREADABLE, the second reads 0x094627 at rotation 13. -/
theorem test_worked_read :
    (tryOutcome 288 320 (List.replicate 24 (some 1000)) firstCounts = .error .unreadable ∧
    tryOutcome 288 320 (List.replicate 24 (some 1000)) secondCounts = .ok (0x094627, 13)) ∧
    canonical (ringBits 0x0D0D0D) = .error .symmetric ∧ isCanonical 0x094627 = true ∧
    isCanonical 0x0D0D0D = false := by decide

/-- 6.9: windows A, B and C of the weeping valve. -/
theorem test_worked_stray :
    let curve : List (Nat × Nat) := [(0, 640000), (200, 642560), (800, 641280)]
    rateOf 37 2500 = 222 ∧ curveAt curve 222 = 642514 ∧
    grossStep 37 642514 0 = ⟨92863, 90⟩ ∧ strayMl 92863 = 92 ∧
    rateOf 4 2500 = 24 ∧ curveAt curve 24 = 640307 ∧ grossStep 4 640307 90 = ⟨10005, 38⟩ ∧
    rateOf (-2) 2500 = 12 ∧ curveAt curve 12 = 640153 ∧ grossStep (-2) 640153 38 = ⟨-5002, 244⟩ ∧
    strayMl (868 - 5002) = -4 := by decide

/-- 7.8: both windows. -/
theorem test_worked_window :
    let curve : List (Nat × Nat) := [(0, 2565120), (300, 2562560), (1500, 2560000), (3000, 2557440)]
    let before : Accum := { Accum.zero with
      gross := 80000000, net := 78844640, sumG := 80000000, sumGT := 259200000000 }
    let one := before.window ⟨999400, 0⟩ ⟨984966, 665200⟩ 3240
    let two := one.window ⟨989421, 219⟩ ⟨975025, 589650⟩ 3253
    rateOf 100 10000 = 2400 ∧ curveAt curve 2400 = 2558464 ∧ grossStep 100 2558464 0 = ⟨999400, 0⟩ ∧
    vcfOf 830 (.good 3240) = 985558 ∧ netStep 999400 985558 0 = ⟨984966, 665200⟩ ∧
    one.sumGT = 262438056000 ∧ one.delivered = 79829 ∧
    rateOf 99 10000 = 2376 ∧ curveAt curve 2376 = 2558505 ∧ grossStep 99 2558505 0 = ⟨989421, 219⟩ ∧
    vcfOf 830 (.good 3253) = 985450 ∧ netStep 989421 985450 665200 = ⟨975025, 589650⟩ ∧
    two.gross = 81988821 ∧ two.net = 80804631 ∧ two.sumGT = 265656642513 ∧ two.sumG = 81988821 ∧
    two.mean .none = 3240 ∧ two.newlySaturated one = false := by decide

/-- 7.9: the four charges. -/
theorem test_worked_charges :
    let closed (net : Int) : Delivery :=
      { Hose.delivery 0 0 (testHose .flowing) with acc := { Accum.zero with net } }
    (((closed 412337880).record 1850 25 (.good 1500)).charge = 78189) ∧
    (((closed 1000000).record 1005 0 (.good 1500)).charge = 101) ∧
    (((closed (-85000)).record 1850 25 (.good 1500)).charge = 0) ∧
    ((closed (-85000)).record 1850 25 (.good 1500)).flags = flagReversed ∧
    (((closed 30000000000).record 1000000 500 (.good 1500)).charge = 4294967295) ∧
    ((closed 30000000000).record 1000000 500 (.good 1500)).flags = flagChargeSat := by decide

/-- 5.5: the duties of a period of 2,500 µs. -/
theorem test_worked_duty :
    let s : State := { ready with
      config := { ready.config with items := [(1, 3), (35, 2500), (37, 455)] } }
    s.dutyOf (some .slow) = 1137 ∧ s.dutyOf (some .full) = 2500 ∧ s.dutyOf (some .idle) = 375 ∧
      s.dutyOf none = 0 := by decide

/-! ## The hypotheses of the statements are met -/

/-- A command waits, or none, before the seal and after it. -/
theorem test_meets_StepTakesFrontOrIdles :
    { ready with pending := [.nop 1, .estopAssertion] }.pending = .nop 1 :: [.estopAssertion] ∧
    ready.pending = [] ∧ ready.isSealed = true ∧ State.reset.pending = [] ∧
    State.reset.isSealed = false := by decide

theorem test_meets_FramesDecodeBack :
    (Instr.authorise 1 2 250000 7).wellFormed = true ∧
    (encodeFrame (.authorise 1 2 250000 7)).isSome = true ∧
    (Instr.unknownCommand 0xFF 2).wellFormed = true ∧
    (encodeFrame (.unknownCommand 0xFF 2)).isSome = true := by decide

/-- H0 FLOWING at a step of a stage, with a FULL grant or without. -/
def flowingAt (stage : Stage) (grant : Bool) : State :=
  let s := inState .flowing
  { s with
    hoses := s.hoses.set 0 { s.hoses[0] with step := some { firstStep testProfile with stage } }
    pumps := s.pumps.set 0 { s.pumps[0] with grants := (Vector.replicate 4 false).set 0 grant } }

/-- A state with an open valve has the invariant; every row of the stage table, with its lines. -/
theorem test_meets_ValvesOpenOnlyWhenSafe :
    FlowInv (inState .flowing) ∧ (inState .flowing).drivenStage 0 = .slow ∧
    (∀ x ∈ [(Stage.closed, true, Stage.closed), (.slow, true, .slow), (.full, true, .full),
        (.full, false, .slow)],
      (flowingAt x.1 x.2.1).hoses[(0 : HoseId)].state = .flowing ∧
      (flowingAt x.1 x.2.1).hoses[(0 : HoseId)].step.map StepState.stage = some x.1 ∧
      (flowingAt x.1 x.2.1).drivenStage 0 = x.2.2) ∧
    (let lines (s : State) := (s.vslow 0, s.vfull 0)
     lines (flowingAt .closed false) = (false, false) ∧ lines (flowingAt .slow false) = (true, false) ∧
     lines (flowingAt .full true) = (true, true) ∧ lines (inState .paused) = (false, false)) ∧
    (inState .paused).hoses[(0 : HoseId)].state ≠ .flowing :=
  ⟨flowInv_inState _, by decide⟩

/-- A part with a delivery open, and a STOP of it waiting. -/
def stopping : State := { inState .flowing with pending := [.stop 1 0] }

theorem stopping_steps : step stopping = .next (after (.stop 1 0) { stopping with pending := [] }) := rfl

theorem test_meets_FlowInvKept : FlowInv stopping ∧ ∃ t, step stopping = .next t :=
  have h := flowInv_inState .flowing
  ⟨⟨⟨h.hoses.offline, h.hoses.reading, h.hoses.attached⟩, h.stopped, h.claimed, h.own, h.flowing,
    h.waiting, h.spinning, h.runningOn, h.latched⟩, _, stopping_steps⟩

theorem test_meets_GrantInvKept : GrantInv stopping ∧ ∃ t, step stopping = .next t :=
  have h := grantInv_inState .flowing
  ⟨⟨⟨h.hoses.offline, h.hoses.reading, h.hoses.attached⟩, h.empty, h.limit, h.once, h.apart,
    h.holders⟩, _, stopping_steps⟩

theorem test_meets_PortAndStoreInvKept :
    PortInv stopping ∧ StoreInv stopping ∧ StoreInv (after (.stop 1 0) { stopping with pending := [] }) ∧ ∃ t, step stopping = .next t :=
  have h := portInv_inState .flowing
  ⟨⟨h.held, h.events, h.mask⟩, ⟨by decide, by decide⟩, ⟨by decide, by decide⟩, _, stopping_steps⟩

theorem test_meets_LinkInvKept : LinkInv stopping ∧ ∃ t, step stopping = .next t :=
  have h := linkInv_inState .flowing
  ⟨⟨h.room, h.once, h.deferrals, h.generator, h.backoff, h.jam, h.quiet, h.sending, h.asleep⟩, _,
    stopping_steps⟩

theorem logInv_stopping : LogInv stopping :=
  have h := logInv_inState .flowing
  ⟨⟨h.hoses.offline, h.hoses.reading, h.hoses.attached⟩, h.room, h.inRing, h.unsealed, h.deliveries,
    h.receipts, h.journals, h.sessions, h.noSession⟩

theorem test_meets_LogInvKept : LogInv stopping ∧ ∃ t, step stopping = .next t :=
  ⟨logInv_stopping, _, stopping_steps⟩

theorem test_meets_RetainedChecksKept : CrcInv stopping ∧ ∃ t, step stopping = .next t :=
  have h := crcInv_inState .flowing
  ⟨⟨logInv_stopping, h.entries, h.day, h.logIndex, h.records, h.lengths, h.stored, h.counter, h.books,
    h.journals, h.receipt, h.notices⟩, _, stopping_steps⟩

theorem test_meets_TableInvKept : TableInv stopping ∧ ∃ t, step stopping = .next t :=
  have h := tableInv_inState .flowing
  ⟨⟨h.rising, h.slots, h.rings, h.numbers, h.ranges⟩, _, stopping_steps⟩

theorem test_meets_PortAnswersOrRefuses : State.reset.isSealed = false ∧ ready.isSealed = true ∧
    ready.port.held.length = 32 ∧ (31 : Nat) < 32 := by decide

/-- An event of a signed kind and one of another. -/
def strayEvent : Event := { kind := .strayFlow, subject := .hose 2, value := -37, postedAt := 9 }

def closedEvent : Event :=
  { kind := .deliveryClosed, subject := .hose 3, value := 4294967295, postedAt := 4294967295 }

theorem test_meets_ReadEventTakesOldest :
    ready.port.events = [] ∧ ([strayEvent].length < 256) ∧
    (closedEvent.subject.number < 2 ^ 32 ∧ closedEvent.postedAt < 2 ^ 32 ∧
      closedEvent.kind.signedValue = false ∧ 0 ≤ closedEvent.value ∧ closedEvent.value < 2 ^ 32) ∧
    strayEvent.kind.signedValue = true ∧ -2 ^ 31 ≤ strayEvent.value ∧ strayEvent.value < 2 ^ 31 ∧
    (let left (l : List Event) : Bool :=
       (after (.readEvent 0) { ready with port := { ready.port with events := l } }).patn
     left [] = false ∧ left [strayEvent] = false ∧ left [strayEvent, closedEvent] = true) := by
  decide

/-- A queue with no room. -/
def fullPort : Port := { ready.port with events := List.replicate 32 strayEvent }

theorem test_meets_EventMaskDecidesPosting :
    (0x040000 : BitVec 24) >>> 18 ≠ 0 ∧ (0x03FFFF : BitVec 24) >>> 18 = 0 ∧
    (0x03FFFF : BitVec 24).getLsbD (EventKind.receiptClosed.code - 1) = true ∧
    ready.port.mask.getLsbD (EventKind.hoseIdentified.code - 1) = false ∧
    ready.port.events.length < 32 ∧ 32 ≤ fullPort.events.length ∧
    fullPort.mask.getLsbD (EventKind.receiptClosed.code - 1) = false ∧
    ready.patn = false ∧ { ready with port := fullPort }.patn = true := by decide

theorem test_meets_ViewsShowPages :
    (0 : Byte).toNat < ((viewStream 0 (ready.hoseRows 3)).length + 26) / 27 ∧
    ((viewStream 0 (ready.stockRows)).length + 26) / 27 ≤ (255 : Byte).toNat ∧
    4 ≤ (4 : Byte).toNat ∧ (16 : Byte).toNat ≤ 16 ∧ 16 < (17 : Byte).toNat ∧
    keyOf 0 0x094627 = some (.byRing 0x094627) ∧
    ready.entryOfKey (.byRing 0x094627) = some (4, testEntry) ∧
    keyOf 1 65535 = some (.byNumber 65535) ∧ ready.entryOfKey (.byNumber 65535) = none ∧
    keyOf 2 255 = some (.bySlot 255) ∧ ready.entryOfKey (.bySlot 5) = none ∧
    ready.entryOfKey (.bySlot 4) = some (4, testEntry) ∧ keyOf 1 0 = none ∧ keyOf 1 65536 = none ∧
    keyOf 2 256 = none ∧ keyOf 3 0 = none ∧ (1 : Byte).toNat < 2 ∧ 2 ≤ (2 : Byte).toNat ∧
    (∀ f ∈ ((inState .flowing).hoseRows 0).flatMap ViewRow.shown, 0 < f.width ∧
      if f.signed then -(256 ^ f.width : Int) ≤ 2 * f.value ∧ 2 * f.value < (256 ^ f.width : Int)
      else 0 ≤ f.value ∧ f.value < (256 ^ f.width : Int)) := by decide

theorem test_meets_SetConfigStoresValue :
    State.reset.isSealed = false ∧ (0 : Byte).toNat = 0 ∧ 119 < (120 : Byte).toNat ∧
    ((117 : Byte).toNat ≤ 117 ∧ (1 : Byte) ≠ 0) ∧ 16 < (17 : Byte).toNat ∧
    (1 ≤ (1 : Byte).toNat ∧ (117 : Byte).toNat ≤ 117) ∧
    (119 : Byte).toNat = 118 + (1 : CompId).val ∧ (16 : Byte).toNat = (15 : Fin 16).val + 1 := by decide

/-- Four places of NEVER steps in SLOW. -/
def neverSteps : Vector RawStep 4 := Vector.replicate 4 { head := 0x41, param := 0, next := 255 }

/-- Four places that fail. -/
def badSteps : Vector RawStep 4 := Vector.replicate 4 { head := 0x43, param := 0, next := 255 }

/-- A load of eight steps for profile 7, staged. -/
def stagedLoad : StagedLoad :=
  { profile := 7, count := 8, steps := List.replicate 4 { stage := .slow, cond := .never, next := none } }

theorem test_meets_LoadProfileReplacesOrStages :
    State.reset.isSealed = false ∧ (7 : Byte).toNat = (7 : Fin 8).val ∧ (4 : Byte).toNat ≤ 4 ∧
    (stepsOf 4 neverSteps).isSome = true ∧ (stepsOf 0 neverSteps).isSome = true ∧
    (4 < (5 : Byte).toNat ∧ (8 : Byte).toNat ≤ 8) ∧
    (let s : State := { State.reset with staged := some stagedLoad }
     s.staged = some stagedLoad ∧ stagedLoad.profile = (7 : Fin 8).val ∧
      (stepsOf (stagedLoad.count - 4) neverSteps).isSome = true ∧
      stepsOf (stagedLoad.count - 4) badSteps = none ∧ stagedLoad.profile ≠ (6 : Byte).toNat) ∧
    7 < (8 : Byte).toNat ∧ 8 < (9 : Byte).toNat ∧ stepsOf (min 4 4) badSteps = none ∧
    State.reset.staged = none ∧ (2 : Byte) ≠ 0 ∧ 4 ≤ 4 ∧ (3 : Fin 4).val < 4 := by decide

/-- Steps at the ends of their ranges, and the same a step beyond (R62, R174). -/
theorem test_steps_at_bounds :
    stepOf ⟨0x02, 30000000, 7⟩ = some { stage := .full, cond := .deliveredAtLeast 30000000, next := some 7 } ∧
    stepOf ⟨0x10, 30000000, 255⟩ = some { stage := .closed, cond := .remainingAtMost 30000000, next := none } ∧
    stepOf ⟨0x21, 0x00010000, 0⟩ = some { stage := .slow, cond := .elapsed 1, next := some 0 } ∧
    stepOf ⟨0x31, 0x00FFFFFF, 0⟩ = some { stage := .slow, cond := .stall 255 65535, next := some 0 } ∧
    (∀ r ∈ ([⟨0x02, 30000001, 7⟩, ⟨0x10, 30000001, 255⟩, ⟨0x21, 0x0000FFFF, 0⟩, ⟨0x31, 0x01000000, 0⟩,
      ⟨0x31, 0x0000FFFF, 0⟩, ⟨0x51, 0, 255⟩, ⟨0x43, 0, 255⟩, ⟨0x45, 0, 255⟩, ⟨0xC1, 0, 255⟩,
      ⟨0x41, 0, 8⟩] : List RawStep), stepOf r = none) := by decide

theorem test_meets_LoadMetrologyReplacesSection :
    State.reset.isSealed = false ∧ ((1 : BitVec 16) ≠ 0 ∧ 2 ≤ (2 : Byte).toNat ∧ (6 : Byte).toNat ≤ 6) ∧
    ((0 : BitVec 16) = 0 ∧ (1 : Byte).toNat < 2 ∧ 6 < (7 : Byte).toNat) ∧ (1 : BitVec 24) ≠ 0 ∧
    (1500 : BitVec 16).toNat ≤ 1500 ∧ 1500 < (1501 : BitVec 16).toNat ∧ 5 ≤ (5 : Byte).toNat ∧
    6 ≤ (6 : BitVec 32).toNat ∧ 2 ≤ (2 : Byte).toNat ∧ 3 ≤ (3 : Byte).toNat := by decide

theorem loaded_passes (i : Nat) (h : 1 ≤ i) (g : i ≤ 137) : loaded.testItem i = true := by
  have key : ∀ j, j < 138 → 1 ≤ j → loaded.testItem j = true := by decide
  exact key i (by omega) h

theorem logInv_loaded : LogInv loaded where
  hoses := ⟨by decide, by decide, by decide⟩
  room := by decide
  inRing := by decide
  unsealed := by decide
  deliveries := by decide
  receipts := by decide
  journals := by decide
  sessions := by decide
  noSession := by decide

theorem flowInv_loaded : FlowInv loaded where
  hoses := ⟨by decide, by decide, by decide⟩
  stopped := by decide
  claimed := by decide
  own := by decide
  flowing := by decide
  waiting := by decide
  spinning := by decide
  runningOn := by decide
  latched := by decide

/-- A part of whose items only the last fails. -/
def lastFails : State := { loaded with metro := { loaded.metro with tcal := loaded.metro.tcal.set 2 none } }

theorem lastFails_before (j : Nat) (h : 1 ≤ j) (g : j < 137) : lastFails.testItem j = true := by
  have key : ∀ j, j < 137 → 1 ≤ j → lastFails.testItem j = true := by decide
  exact key j g h

/-- A part that passes, one whose first and one whose last item alone fails, and one without its CRC. -/
theorem test_meets_SealTestsThenCompletes :
    (loaded.isSealed = false ∧ LogInv loaded ∧ FlowInv loaded ∧
      (∀ i, 1 ≤ i → i ≤ 137 → loaded.testItem i = true) ∧
      loaded.metro.issued = some loaded.metro.crc) ∧
    (State.reset.testItem 1 = false ∧ ∀ j : Nat, 1 ≤ j → j < 1 → State.reset.testItem j = true) ∧
    (lastFails.isSealed = false ∧ lastFails.testItem 137 = false ∧
      ∀ j, 1 ≤ j → j < 137 → lastFails.testItem j = true) ∧
    { loaded with metro := { loaded.metro with issued := none } }.metro.issued ≠
      some { loaded with metro := { loaded.metro with issued := none } }.metro.crc :=
  ⟨⟨rfl, logInv_loaded, flowInv_loaded, loaded_passes, by decide⟩,
    ⟨by decide, fun j h g => absurd h (by omega)⟩,
    ⟨rfl, by decide, lastFails_before⟩, by decide⟩

/-- A journal of the test machine's delivery, sound or lost. -/
def sealJournal (lost : Bool) : Journal := { (testHose .flowing).toJournal 0 0 with lost }

/-- The part before its seal with journals of H0 and H3, the second lost, one of a receipt into C0, and a
loss found. -/
def closing : State :=
  { loaded with
    table := { loaded.table with entries := [(4, testEntry)] }
    hoses := (loaded.hoses.set 0 (Hose.bare .offline (some (sealJournal false)))).set 3
      (Hose.bare .offline (some (sealJournal true)))
    stock := { loaded.stock with rjournal := some (Session.opened 0).journal }
    log := { loaded.log with reserved := #v[true, false, false, true, true] }
    losses := [⟨7, 3⟩] }

theorem closing_passes (i : Nat) (h : 1 ≤ i) (g : i ≤ 137) : closing.testItem i = true := by
  have key : ∀ j, j < 138 → 1 ≤ j → closing.testItem j = true := by decide
  exact key i (by omega) h

/-- The closing of journals into records, sound and lost, of a receipt, and a loss to post. -/
theorem test_meets_SealTestsThenCompletes_closings :
    (closing.isSealed = false ∧ LogInv closing ∧ FlowInv closing ∧ TableInv closing ∧
      (∀ i, 1 ≤ i → i ≤ 137 → closing.testItem i = true) ∧
      closing.metro.issued = some closing.metro.crc) ∧
    (closing.hoses[(0 : HoseId)].journal = some (sealJournal false) ∧
      closing.hoses[(3 : HoseId)].journal = some (sealJournal true) ∧
      (sealJournal false).lost = false ∧ (sealJournal true).lost = true ∧
      closing.port.mask.getLsbD 3 = false ∧ closing.port.mask.getLsbD 17 = false ∧
      closing.port.mask.getLsbD 16 = false ∧
      closing.port.events.length + closing.losses.length ≤ 18 ∧ closing.link.queue.length ≤ 11 ∧
      (closing.entryOfRing ((sealJournal false).delivery 0 0).ring).isSome = true) ∧
    (closing.stock.rjournal = some (Session.opened 0).journal ∧
      (Session.opened 0).journal.lost = false ∧
      { (Session.opened 0).journal with lost := true }.lost = true) ∧
    (closing.entryAt 4 = some testEntry ∧ closing.entryAt 5 = none) ∧
    ((1, 1, (1 : Int), (16 : Int)).1 ≤ 1 ∧ 117 ≤ (116, 117, (1 : Int), (65535 : Int)).2.1) :=
  ⟨⟨rfl, ⟨⟨by decide, by decide, by decide⟩, by decide, by decide, by decide, by decide, by decide,
      by decide, by decide, by decide⟩,
    ⟨⟨by decide, by decide, by decide⟩, by decide, by decide, by decide, by decide, by decide,
      by decide, by decide, by decide⟩,
    ⟨by decide, by decide, by decide, by decide, by decide⟩, closing_passes, by decide⟩,
    by decide, by decide, by decide, by decide⟩

/-- A part that starts with its carrier, an emergency stop and both pump faults asserted, and one with none. -/
theorem test_meets_SealTestsThenCompletes_starts :
    (loaded.link.state = .unknown ∧ closing.link.state = .unknown) ∧
    (let t := loaded.complete
     t.link.quiet = some loaded.linkQuiet ∧ t.link.jam = none ∧ t.link.rx = none ∧
      t.pumps[(0 : CompId)].state = .off ∧ t.readers[(0 : HoseId)].state = .refreshing ∧
      t.port.events.map (fun e => e.kind.code) = [EventKind.restockState.code]) ∧
    (let t := State.complete { loaded with
       pins := { loaded.pins with lcd := true, estop := true, pflt := #v[true, true] } }
     t.link.quiet = none ∧ t.link.jam = some loaded.linkJam ∧ t.link.rx = some RxFrame.empty ∧
      t.pumps[(1 : CompId)].state = .fault ∧
      t.port.events.map (fun e => (e.kind.code, e.value)) =
        [(EventKind.pumpFault.code, (0 : Int)), (EventKind.pumpFault.code, 0), (EventKind.estop.code, 0),
          (EventKind.restockState.code, (RestockState.want.code : Int))]) := by
  decide

/-- A part none of whose retained items passes its check but the records given. -/
def spoiled (slots : List (Nat × LogSlot)) : State :=
  { closing with
    table := { closing.table with entries := [(4, { testEntry with crc := testEntry.crc + 1 })], dayCrc := 1 }
    log := { closing.log with slots, indexCrc := closing.log.indexCrc + 1, seqCrc := closing.log.seqCrc + 1 }
    stock := { closing.stock with books := closing.stock.books.map fun b => { b with crc := b.crc + 1 } }
    link := { closing.link with noticeCrc := closing.link.noticeCrc + 1 } }

theorem test_meets_RestartClearsAndKeeps :
    (Instr.restart 5, (2 : Byte)) ∈ [(Instr.powerUp, (0 : Byte)), (.resetnAssertion, 1), (.restart 5, 2)] ∧
    CrcInv (inState .settling) ∧
    Instr.resetnAssertion ∈ [Instr.powerUp, .resetnAssertion, .restart 5] ∧
    StoreInv ready ∧
    (∀ l ∈ [[], [(1023, ({ stored := true, bytes := (adjustRecord 0 0 5000000).bytes 1 0 0 } : LogSlot))]],
      StoreInv (spoiled l)) ∧
    ((spoiled []).table.dayCrc ≠ crc16 (beBytes 2 (spoiled []).table.day.toNat) ∧
      (spoiled []).log.indexCrc ≠ crc16 (beBytes 2 (spoiled []).log.oldest ++ beBytes 2 (spoiled []).log.count) ∧
      (spoiled []).log.seqCrc ≠ crc16 (beBytes 4 (spoiled []).log.seq.toNat) ∧
      ∃ j < 1024, ¬ ((spoiled []).log.slotAt (j % 1024)).stored = true) :=
  ⟨by decide, crcInv_inState _, by decide, ⟨by decide, by decide⟩,
    by
      intro l h
      simp only [List.mem_cons, List.not_mem_nil, or_false] at h
      rcases h with h | h <;> subst h <;> exact ⟨by decide, by decide⟩,
    ⟨by decide, by decide, by decide, 0, by decide, by decide⟩⟩

/-- Every slot of the log stored, its index failing its check. -/
def spoiledFull : State :=
  spoiled ((List.range 1024).map fun i => (i, { stored := true, bytes := [] }))

theorem spoiledFull_slot (j : Nat) (h : j < 1024) : (spoiledFull.log.slotAt j).stored = true := by
  have key : ∀ (l : List Nat), j ∈ l →
      Sparse.find? (l.map fun i => (i, ({ stored := true, bytes := [] } : LogSlot))) j =
        some { stored := true, bytes := [] } := by
    intro l
    induction l with
    | nil => exact fun g => absurd g (List.not_mem_nil)
    | cons a l ih =>
      intro g
      by_cases e : a = j
      · simp [Sparse.find?, e]
      · simp [Sparse.find?, e, ih ((List.mem_cons.mp g).resolve_left fun q => e q.symm)]
  have whole := key _ (List.mem_range.mpr h)
  show ((Sparse.find? ((List.range 1024).map fun i => (i, ({ stored := true, bytes := [] } : LogSlot))) j).getD
    LogSlot.blank).stored = true
  rw [whole]
  rfl

/-- A table without a free slot. -/
def fullTable : State :=
  { ready with table := { ready.table with entries := (List.range 256).map fun i =>
      (i, { testEntry with number := BitVec.ofNat 16 (1000 + i) }) } }

theorem test_meets_TableCommandsActOnEntry :
    (ready.isSealed = true ∧ permitsOf 3 = some (true, true) ∧ entryStateOf 1 = some .barred ∧
      isCanonical 0x094627 = true ∧ (1 : BitVec 16) ≠ 0 ∧ (63 : Byte).toNat ≤ 63 ∧ (1 : BitVec 16) ≠ 0 ∧
      (∀ q ∈ ready.table.entries, q.2.number = 7 → q.2.ring = 0x094627) ∧
      ready.entryOfRing 0x094627 = some (4, testEntry)) ∧
    (isCanonical 0x0001FF = true ∧ ready.entryOfRing 0x0001FF = none ∧ ready.entryAt 0 = none ∧
      ∀ q ∈ ready.table.entries, q.2.number = 65535 → q.2.ring = 0x0001FF) ∧
    (entryKeyOf 1 7 = some (.byNumber 7) ∧ ready.entryOfKey (.byNumber 7) = some (4, testEntry) ∧
      testEntry.state = .active ∧ testEntry.state ≠ .barred ∧
      ready.entryOfKey (.byNumber 8) = none) ∧
    ((inState .identified).hoses[(0 : HoseId)].state.holdsEntry = true ∧
      (inState .identified).hoses[(0 : HoseId)].serves 4 = true) ∧
    (∀ n : HoseId, ready.hoses[n].state.holdsEntry = true → ready.hoses[n].serves 4 = false) ∧
    (isCanonical 0x0001FE = false ∧ 63 < (64 : Byte).toNat ∧ ¬ 1 ≤ (0 : Byte).toNat ∧
      3 < (4 : Byte).toNat ∧ 1 < (2 : Byte).toNat) ∧
    (∃ q ∈ ready.table.entries, q.2.number = 7 ∧ q.2.ring ≠ 0x0001FF) ∧
    fullTable.isSealed = true ∧ (¬ ∃ q ∈ fullTable.table.entries, q.2.number = 7 ∧ q.2.ring ≠ 0x0001FF) ∧
    (∀ q ∈ fullTable.table.entries, q.2.ring ≠ 0x0001FF) ∧
    (1 ≤ (1 : BitVec 24).toNat ∧ (65535 : BitVec 24).toNat ≤ 65535 ∧ 65535 < (65536 : BitVec 24).toNat ∧
      2 ≤ (2 : Byte).toNat ∧ 2 ≤ (255 : Byte).toNat) ∧
    ∀ j < 256, (fullTable.entryAt j).isSome = true := by decide

theorem test_meets_SetDayStartsDay :
    ready.isSealed = true ∧ (0 : BitVec 16) = ready.table.day ∧ (65535 : BitVec 16) ≠ ready.table.day := by
  decide

/-- An AUTHORISE of an IDENTIFIED hose, and a keyed one at its allowance's bound. -/
def keyedReady : State :=
  { inState .unidentified with config := { ready.config with items := [(1, 3), (14, 1)] } }

theorem test_meets_AuthoriseArms :
    ((inState .identified).isSealed = true ∧ (inState .identified).metroFault = false ∧
      (inState .identified).estopLatch = false ∧ ((inState .identified).pumpOf 0).state ≠ .fault ∧
      (inState .identified).hoses[(0 : HoseId)].state = .identified ∧
      (inState .identified).hoses[(0 : HoseId)].ident = some testIdent ∧
      (inState .identified).entryAt testIdent.slot = some testEntry ∧
      (inState .identified).objection 4 testEntry ((inState .identified).hoseComp 0) .ring = none) ∧
    keyedReady.isSealed = true ∧ keyedReady.metroFault = false ∧ keyedReady.estopLatch = false ∧
    (keyedReady.pumpOf 0).state ≠ .fault ∧ keyedReady.hoses[(0 : HoseId)].state = .unidentified ∧
    (7 : BitVec 16) ≠ 0 ∧ keyedReady.keyedAllowed = true ∧
    keyedReady.entryOfNumber 7 = some (4, testEntry) ∧
    keyedReady.objection 4 testEntry (keyedReady.hoseComp 0) .keyed = none := by decide

/-- Each refusal of an AUTHORISE is met, with an objection of each kind. -/
theorem test_meets_AuthoriseArms_refusals :
    4 ≤ (4 : Byte).toNat ∧ (3 : Byte).toNat = (3 : HoseId).val ∧
    ((inState .identified).hoses[(0 : HoseId)].state = .identified ∧ (65535 : BitVec 16) ≠ 0) ∧
    ((inState .armed).hoses[(0 : HoseId)].state = .armed ∧ keyedReady.hoses[(0 : HoseId)].state ≠ .identified) ∧
    ({ keyedReady with metroFault := true }.metroFault = true ∧
      { keyedReady with estopLatch := true }.estopLatch = true ∧ keyedReady.metroFault = false ∧
      (withPump .unidentified .fault).pumpOf 0 = (withPump .unidentified .fault).pumps[(0 : CompId)] ∧
      (withPump .unidentified .fault).pumps[(0 : CompId)].state = .fault) ∧
    (inState .unidentified).keyedAllowed = false ∧
    (∀ q ∈ keyedReady.table.entries, q.2.number ≠ 8) ∧
    (let e := testEntry
     let s := keyedReady
     s.objection 4 { e with state := .barred } 0 .keyed = some .barred ∧
      s.objection 4 { e with permitC0 := false } 0 .keyed = some .grade ∧
      { s with stock := State.reset.stock }.objection 4 e 0 .keyed = some .stockUnset ∧
      { s with log := { s.log with count := 1024 } }.objection 4 e 0 .keyed = some .logFull ∧
      s.objection 4 { e with allowance := 0 } 0 .keyed = some .noAllowance ∧
      { s with stock := { s.stock with books := s.stock.books.set 0 (bookOf 0 0 true) } }.objection 4 e 0
        .keyed = some .stockShort) := by decide

theorem test_meets_StopActsByState :
    (∀ st : HoseState,
      (inState st).isSealed = true ∧ GrantInv (inState st) ∧ (inState st).hoses[(0 : HoseId)].state = st) ∧
    4 ≤ (4 : Byte).toNat :=
  ⟨fun st => ⟨by cases st <;> rfl, grantInv_inState st, by cases st <;> rfl⟩, by decide⟩

theorem test_meets_SetPresetHoldsGrant :
    (∀ st ∈ [HoseState.armed, .priming, .flowing, .paused],
      (inState st).isSealed = true ∧ (inState st).hoses[(0 : HoseId)].state = st ∧
      (inState st).hoses[(0 : HoseId)].ident = some testIdent ∧
      (inState st).entryAt testIdent.slot = some testEntry) ∧
    (inState .settling).hoses[(0 : HoseId)].state ∉ [HoseState.armed, .priming, .flowing, .paused] ∧
    4 ≤ (4 : Byte).toNat := by decide

/-- The latch set, with the line as given. -/
def latched (estop : Bool) : State :=
  { ready with estopLatch := true, pins := { ready.pins with estop } }

theorem test_meets_EstopClearClearsLatch :
    State.reset.isSealed = false ∧ (ready.isSealed = true ∧ ready.estopLatch = false) ∧
    ((latched true).isSealed = true ∧ (latched true).estopLatch = true ∧
      (latched true).pins.estop = true) ∧
    (latched false).isSealed = true ∧ (latched false).estopLatch = true ∧
      (latched false).pins.estop = false := by decide

/-- A reader whose baselines are invalid. -/
def noBaseline : State := { ready with readers := Vector.replicate 4 { Reader.restarted with state := .waiting } }

theorem test_meets_SeatLineActsByState :
    (inState .armed).hoses[(0 : HoseId)].state ≠ .idle ∧
    (ready.hoses[(0 : HoseId)].state = .idle ∧
      ∀ p ∈ ready.readers[(0 : HoseId)].baseline.toList, p.isSome = true) ∧
    (noBaseline.hoses[(0 : HoseId)].state = .idle ∧
      none ∈ noBaseline.readers[(0 : HoseId)].baseline.toList) ∧
    ∀ st : HoseState, GrantInv (inState st) ∧ (inState st).hoses[(0 : HoseId)].state = st :=
  ⟨by decide, by decide, by decide, fun st => ⟨grantInv_inState st, by cases st <;> rfl⟩⟩

theorem test_meets_DeadmanHeldStartsDelivery :
    ∀ p ∈ [PumpState.off, .starting, .running, .runOn],
      (withPump .armed p).hoses[(0 : HoseId)].state = .armed ∧ ((withPump .armed p).pumpOf 0).state = p ∧
      p ≠ .fault ∧ (withPump .armed p).hoses[(0 : HoseId)].beenFlowing = false := by decide

/-- A PAUSED hose that has never flowed. -/
def pausedEarly : State :=
  { inState .paused with
    hoses := (inState .paused).hoses.set 0 { testHose .paused with beenFlowing := false, step := none } }

theorem test_meets_DeadmanPausesAndResumes :
    (∀ st : HoseState, GrantInv (inState st) ∧ (inState st).hoses[(0 : HoseId)].state = st) ∧
    (GrantInv (withPump .armed .fault) ∧ ((withPump .armed .fault).pumpOf 0).state = .fault) ∧
    ((inState .paused).hoses[(0 : HoseId)].state = .paused ∧
      ((inState .paused).pumpOf 0).state = .running ∧
      (inState .paused).hoses[(0 : HoseId)].beenFlowing = true ∧
      (inState .paused).hoses[(0 : HoseId)].step.isSome = true ∧
      (after (.deadmanHeld 0) (inState .paused)).hoses[(0 : HoseId)].step.isSome = true) ∧
    (withPump .paused .starting).hoses[(0 : HoseId)].state = .paused ∧
    ((withPump .paused .starting).pumpOf 0).state ≠ .running ∧
    pausedEarly.hoses[(0 : HoseId)].state = .paused ∧
    pausedEarly.hoses[(0 : HoseId)].beenFlowing = false :=
  ⟨fun st => ⟨grantInv_inState st, by cases st <;> rfl⟩,
    ⟨⟨⟨by decide, by decide, by decide⟩, by decide, by decide, by decide, by decide, by decide⟩,
      by decide⟩, by decide, by decide, by decide, by decide, by decide⟩

theorem test_meets_EstopStopsEverything :
    loaded.isSealed = false ∧
    (∀ st ∈ [HoseState.priming, .flowing, .paused, .identified, .armed, .settling],
      (inState st).isSealed = true ∧ (inState st).hoses[(0 : HoseId)].state = st ∧
      (inState st).port.mask.getLsbD 6 = false ∧ (inState st).port.events.length ≤ 27) ∧
    (inState .paused).hoses[(0 : HoseId)].state.isActive = true ∧
    (inState .settling).hoses[(0 : HoseId)].state.isActive = false ∧
    (inState .armed).link.queue.length ≤ 12 ∧
    (after .estopAssertion (inState .armed)).link.queue = [.machine 0x094627] := by decide

theorem test_meets_PumpFaultStopsClaimants :
    loaded.isSealed = false ∧ (inState .flowing).isSealed = true ∧
    ((inState .flowing).hoses[(0 : HoseId)].state.isActive = true ∧ (inState .flowing).hoseComp 0 = 0) ∧
    ((inState .flowing).hoseComp 3 ≠ 0 ∧ (inState .flowing).hoses[(1 : HoseId)].state.isActive = false) ∧
    (inState .flowing).pumps[(0 : CompId)].state ≠ .fault ∧ (withPump .armed .fault).isSealed = true ∧
    (withPump .armed .fault).pumps[(0 : CompId)].state = .fault := by decide

/-- Reader R0 in a pass at a pad. -/
def passing (pad : Nat) (first : Option Nat) : State :=
  { ready with readers := ready.readers.set 0 { (ready.readers[0] : Reader) with
      state := .refreshing, pad, slotDue := some 10000000
      baseline := (Vector.replicate 24 (some 1000)).set 0 first } }

theorem test_meets_BaselinePassMeasuresPads :
    (ready.readers[(0 : HoseId)].periodDue = some 12000000 ∧
      ready.readers[(0 : HoseId)].state = .waiting ∧ ready.pins.seat[(0 : HoseId)] = false ∧
      ready.hoses[(0 : HoseId)].state = .idle) ∧
    ((inState .finished).readers[(0 : HoseId)].periodDue = some 12000000 ∧
      (inState .finished).pins.seat[(0 : HoseId)] = true) ∧
    ((passing 0 none).readers[(0 : HoseId)].slotDue = some 10000000 ∧
      (passing 0 none).readers[(0 : HoseId)].state = .refreshing ∧
      (passing 0 none).readers[(0 : HoseId)].pad = (0 : Fin 24).val ∧
      (passing 0 none).readers[(0 : HoseId)].baseline[(0 : Fin 24)] = none) ∧
    (passing 23 none).readers[(0 : HoseId)].pad = (23 : Fin 24).val ∧
    (passing 23 none).readers[(0 : HoseId)].baseline[(23 : Fin 24)] = some 1000 ∧
    (65535 : BitVec 16) = 65535 ∧ (65534 : BitVec 16) ≠ 0 ∧
    (State.reset.readers[(0 : HoseId)].state = .stopped ∧ ready.readers[(0 : HoseId)].state = .waiting ∧
      (passing 23 none).readers[(0 : HoseId)].state = .refreshing) := by decide

/-- The books unset. -/
def unsetBooks : State := { ready with stock := State.reset.stock }

/-- Reader R0 in a try at pad 23 with the counts of 1.7 before it. -/
def trying (tries : Nat) (counts : List Nat) : State :=
  let r : Reader := { (inState .reading).readers[(0 : HoseId)] with pad := 23, tryNo := tries, counts }
  { inState .reading with readers := (inState .reading).readers.set 0 r }

theorem test_meets_TryEndsAtLastPad :
    ((inState .reading).readers[(0 : HoseId)].slotDue = some 10000000 ∧
      (inState .reading).readers[(0 : HoseId)].state = .reading ∧
      (inState .reading).readers[(0 : HoseId)].pad < 23) ∧
    (let s := trying 2 (secondCounts.take 23)
     s.readers[(0 : HoseId)].slotDue = some 10000000 ∧ s.readers[(0 : HoseId)].state = .reading ∧
      s.readers[(0 : HoseId)].pad = 23 ∧
      tryOutcome s.tLo s.tHi s.readers[(0 : HoseId)].baseline.toList
        (s.readers[(0 : HoseId)].counts ++ [(1020 : BitVec 16).toNat]) = .ok (0x094627, 13) ∧
      s.ringLookup 0x094627 (s.hoseComp 0) = .found testIdent 300000 ∧
      { s with table := State.reset.table }.ringLookup 0x094627 (s.hoseComp 0) =
        .refused .unknownMachine) ∧
    (let s := trying 3 (firstCounts.take 23)
     tryOutcome s.tLo s.tHi s.readers[(0 : HoseId)].baseline.toList
        (s.readers[(0 : HoseId)].counts ++ [(1020 : BitVec 16).toNat]) = .error .unreadable ∧
      s.readTries ≤ s.readers[(0 : HoseId)].tryNo ∧ s.readers[(0 : HoseId)].pad = 23 ∧
      (trying 2 (firstCounts.take 23)).readers[(0 : HoseId)].tryNo < s.readTries) := by decide

/-- Pads and weights at the bounds of their clauses, and both ends of the lookup. -/
theorem test_meets_TryEndsAtLastPad_pads :
    (257 < 258 ∧ classify 257 258 (some 1000) 1008 = .one ∧ classify 257 258 (some 1000) 1007 = .zero ∧
      classify 256 259 (some 1000) 1005 = .unsure ∧ classify 257 258 (some 1000) 65535 = .unsure) ∧
    (let pads (ones unsure : Nat) : List Pad := List.replicate ones .one ++ List.replicate unsure .unsure ++
      List.replicate (24 - ones - unsure) .zero
     resolveWeight (pads 9 2) = .error .unreadable ∧ (resolveWeight (pads 8 1)).toOption.isSome = true ∧
      (resolveWeight (pads 9 1)).toOption.isSome = true ∧ (resolveWeight (pads 9 0)).toOption.isSome = true ∧
      resolveWeight (pads 8 0) = .error .weight ∧ resolveWeight (pads 10 1) = .error .weight) ∧
    (∀ q ∈ ready.table.entries, q.2.ring ≠ 0x0001FF) ∧ ready.entryOfRing 0x094627 = some (4, testEntry) ∧
    ready.objection 4 testEntry 0 .ring = none ∧ unsetBooks.entryOfRing 0x094627 = some (4, testEntry) ∧
    unsetBooks.objection 4 testEntry 0 .ring = some .stockUnset := by decide

/-- The counts of a try on the ring ID 0x0D0D0D against a baseline of 1000. -/
def symmetricCounts : List Nat := (ringBits 0x0D0D0D).map fun b => if b then 1500 else 1000

theorem test_meets_CanonicalRotationFound :
    (ringBits 0x094627).length = 24 ∧ canonical (ringBits 0x094627) = .ok (0x094627, 0) ∧
    canonical (rotation (ringBits 0x094627) 23) = .ok (0x094627, 1) ∧
    (canonical (ringBits 0x0D0D0D) = .error .symmetric ∧ (ringBits 0x0D0D0D).countP id = 9) ∧ 23 < 24 ∧
    tryOutcome (inState .reading).tLo (inState .reading).tHi
      (inState .reading).readers[(0 : HoseId)].baseline.toList symmetricCounts = .error .symmetric := by
  decide

theorem test_meets_HoseExpiriesEndWaiting :
    GrantInv (inState .armed) ∧ GrantInv (inState .paused) ∧
    ((inState .identified).hoses[(0 : HoseId)].armExpiry = some 130 ∧
      (inState .identified).hoses[(0 : HoseId)].state = .identified) ∧
    ((inState .armed).hoses[(0 : HoseId)].armExpiry = some 130 ∧
      (inState .armed).hoses[(0 : HoseId)].state = .armed) ∧
    ((inState .paused).hoses[(0 : HoseId)].pauseExpiry = some 190 ∧
      (inState .paused).hoses[(0 : HoseId)].state = .paused) ∧
    ready.hoses[(0 : HoseId)].armExpiry = none ∧ ready.hoses[(0 : HoseId)].pauseExpiry = none :=
  ⟨grantInv_inState _, grantInv_inState _, by decide, by decide, by decide, by decide, by decide⟩

/-- No run-on time. -/
def noRunOn : State :=
  { withPump .idle .starting with config := { ready.config with items := [(1, 3), (34, 0)] } }

theorem test_meets_PumpExpiriesMovePump :
    ((withPump .priming .starting).pumps[(0 : CompId)].spinUp = some 11500 ∧
      (∀ n : HoseId, (withPump .priming .starting).pumps[(0 : CompId)].claims[n] = true →
        (withPump .priming .starting).hoseComp n = 0) ∧
      (withPump .priming .starting).pumps[(0 : CompId)].claims.toList.any id = true ∧
      (withPump .priming .starting).hoses[(0 : HoseId)].state = .priming ∧
      (withPump .priming .starting).pumps[(0 : CompId)].claims[(0 : HoseId)] = true) ∧
    ((withPump .idle .starting).pumps[(0 : CompId)].spinUp = some 11500 ∧
      (withPump .idle .starting).pumps[(0 : CompId)].claims.toList.any id = false ∧
      0 < (withPump .idle .starting).pumpRunon) ∧
    (noRunOn.pumps[(0 : CompId)].spinUp = some 11500 ∧ noRunOn.pumpRunon = 0 ∧
      noRunOn.pumps[(0 : CompId)].claims.toList.any id = false) ∧
    (withPump .idle .runOn).pumps[(0 : CompId)].runOn = some 25 ∧
    ready.pumps[(0 : CompId)].pwmDue = some 10000500 ∧
    (ready.pumps[(0 : CompId)].state = .off ∧ (withPump .armed .fault).pumps[(0 : CompId)].state = .fault ∧
      (withPump .priming .starting).pumps[(0 : CompId)].state = .starting ∧
      (withPump .idle .runOn).pumps[(0 : CompId)].state = .runOn) ∧
    (let p := { (inState .flowing).pumps[(0 : CompId)] with grants := (Vector.replicate 4 false).set 0 true }
     p.state = .running ∧ p.grants[(0 : HoseId)] = true) ∧
    ((inState .flowing).pumps[(0 : CompId)].state = .running ∧
      (∀ n : HoseId, (inState .flowing).pumps[(0 : CompId)].grants[n] = false) ∧
      (inState .flowing).pumps[(0 : CompId)].claims[(0 : HoseId)] = true ∧
      (inState .flowing).hoses[(0 : HoseId)].state = .flowing ∧ (inState .flowing).drivenStage 0 = .slow) ∧
    ((inState .paused).pumps[(0 : CompId)].state = .running ∧
      ∀ n : HoseId, (inState .paused).pumps[(0 : CompId)].grants[n] = false ∧
        ¬((inState .paused).pumps[(0 : CompId)].claims[n] = true ∧
          ((inState .paused).hoses[n].state = .priming ∨ (inState .paused).hoses[n].state = .flowing))) := by
  decide

/-- H0 FLOWING at step 0 of a profile with a net figure. -/
def flowingWith (profile : List ProfileStep) (net : Int) : State :=
  { inState .flowing with
    profiles := Vector.replicate 8 profile
    hoses := (inState .flowing).hoses.set 0 { testHose .flowing with
      acc := some { Accum.zero with net }, step := some (firstStep profile) } }

/-- A step whose condition is met at once, with the step that follows. -/
def metStep (next : Option Nat) : ProfileStep := { stage := .full, cond := .deliveredAtLeast 0, next }

/-- Each end of a chain is met, and the hard stop. -/
theorem test_meets_EvaluationFollowsProfile :
    (∀ p ∈ [testProfile, [metStep none], [metStep (some 0)]],
      (flowingWith p 0).hoses[(0 : HoseId)].step = some (firstStep p)) ∧
    ((flowingWith testProfile 20000000).hoses[(0 : HoseId)].remaining ≤ 0 ∧
      0 < (flowingWith testProfile 19999999).hoses[(0 : HoseId)].remaining) ∧
    chain [metStep none] 0 20000 8 (firstStep [metStep none]) = .ended ∧
    chain [metStep (some 0)] 0 20000 8 (firstStep [metStep (some 0)]) = .looped ∧
    (chain testProfile 500 19500 8 (firstStep testProfile) =
      .stays { index := 1, stage := .full, handed := .slow, elapsed := 0, stall := 0 }) ∧
    chain testProfile 499 19501 8 (firstStep testProfile) = .stays (firstStep testProfile) ∧
    chain testProfile 19800 200 8
        { index := 1, stage := .full, handed := .full, elapsed := 9, stall := 0 } =
      .stays { index := 2, stage := .slow, handed := .full, elapsed := 0, stall := 0 } ∧
    (condOf testProfile 0 = .deliveredAtLeast 500 ∧ nextOf testProfile 0 = some 1 ∧
      nextOf testProfile 2 = none ∧ condOf testProfile 2 = .never ∧ testProfile[2]? ≠ none) ∧
    (let p := Pump.restarted
     let held (p : Pump) := [(0 : HoseId), 1, 2, 3].countP fun m => p.grants[m]
     let q := { p with grants := p.grants.set 0 true }
     held p < 1 ∧ p.queue = [] ∧ 1 ≤ held q ∧ q.queue = [] ∧ { q with queue := [1] }.queue ≠ [] ∧
      p.grants[(0 : HoseId)] = false ∧ q.grants[(0 : HoseId)] = true) := by decide

theorem test_meets_ObservationCounts :
    (ready.meters[(4 : MeterId)].obsDue = some 10000002 ∧
      ready.meters[(4 : MeterId)].levels = some (false, false)) ∧
    { ready with meters := ready.meters.set 4 { (ready.meters[4] : Meter) with levels := none } }.meters[
      (4 : MeterId)].levels = none ∧
    (let next (p : Bool × Bool) : Bool × Bool := (!p.2, p.1)
     (true, false) = next (false, false) ∧ next (false, true) = (false, false) ∧
      (true, true) = (!(false, false).1, !(false, false).2)) := by decide

/-- The windows of a meter with a fall of 0.5, of a half, and the curve at its ends and between. -/
theorem test_meets_MeterFactorFollowsCurve :
    (2 ≤ testCal.count ∧ testCal.count ≤ 6 ∧
      (∀ p q : Fin 6, p < q → q.val < testCal.count → testCal.points[p].1 < testCal.points[q].1) ∧
      (∀ p : Fin 6, p.val < testCal.count →
        1 ≤ testCal.points[p].2 ∧ testCal.points[p].2 ≤ 16777215)) ∧
    (testCal.factor 0 = 256000 ∧ testCal.factor 1 = 256001 ∧ testCal.factor 999 = 256999 ∧
      testCal.factor 1000 = 257000 ∧ testCal.factor 65535 = 257000) ∧
    ready.meters[(0 : MeterId)].count = 0 ∧
    (0 : Nat) ≤ 0 ∧ (∀ q ∈ [((0 : Nat), (5 : Nat))], q.1 < 10) ∧ 10 ≤ 65535 ∧
    ascending (([] ++ (0, 5) :: (10, 7) :: []).map Prod.fst) = true ∧ 0 ≤ 9 ∧ 9 < 10 := by decide

/-- Temperatures and sums at the bounds of the steps of a window. -/
theorem test_meets_StrayWindowMovesToBook_steps :
    (100 * (14442 : Int) - 50 < 830 * (3240 - 1500) ∧ 830 * (3240 - 1500) < 100 * (14442 : Int) + 50) ∧
    ((0 : Int) < 1 ∧ 10 * ((1505 : Int) - 1500) = 100 * 1 - 50) := by decide

theorem test_meets_DeliveryWindowAccounts_sums :
    let a : Accum := { Accum.zero with gross := 2 ^ 47 - 1, net := -(2 ^ 47 - 1), satG := true }
    a.satGross = false ∧ a.satG = true ∧ (2 ^ 47 - 1 : Int) < a.gross + 1 ∧
      a.net + -1 < -(2 ^ 47 - 1 : Int) ∧ a.gross + 0 ≤ 2 ^ 47 - 1 ∧ -(2 ^ 47 - 1 : Int) ≤ a.net + 0 := by
  decide

/-- M0 in a stray window of a count with an episode as given. -/
def stray (count : Int) (episode : Bool) : State :=
  { inState .armed with
    meters := (inState .armed).meters.set 0 { (ready.meters[0] : Meter) with
      count, stray := { StrayAcc.zero with episode, quiet := if episode then 3 else 0 } } }

/-- MR in a stray window of a count with an episode as given. -/
def strayMR (count : Int) (episode : Bool) : State :=
  { ready with
    meters := ready.meters.set 4 { (ready.meters[4] : Meter) with
      count, due := some 10250000
      stray := { StrayAcc.zero with episode, quiet := if episode then 3 else 0 } } }

theorem test_meets_StrayWindowMovesToBook :
    (∀ p ∈ [((0 : Int), true), (0, false), (37, false), (-2, true), (32767, false)],
      (stray p.1 p.2).meters[meterOf 0].due = some 10250000 ∧
      (stray p.1 p.2).meters[meterOf 0].attach = .stray) ∧
    (stray 37 false).port.mask.getLsbD 4 = false ∧ (stray 37 false).port.events.length ≤ 28 ∧
    (stray 37 false).hoses[(0 : HoseId)].state = .armed ∧ ready.hoses[(0 : HoseId)].state ≠ .armed ∧
    strayMl (grossStep 37 256000 0).whole ≠ 0 ∧ strayMl (grossStep 0 256000 0).whole = 0 ∧
    (∀ p ∈ [((0 : Int), true), (0, false), (37, false), (-2, true)],
      (strayMR p.1 p.2).meters[meterMR].due = some 10250000 ∧
      (strayMR p.1 p.2).meters[meterMR].attach = .stray) ∧
    State.reset.meters[meterMR].due = none := by decide

/-- H0's delivery window with a count, its mark, and phase errors before. -/
def window (st : HoseState) (count : Int) (sat : Bool) (gross : Int) (errors : Nat) : State :=
  { inState st with
    hoses := (inState st).hoses.set 0 { testHose st with
      acc := some { Accum.zero with gross, net := min gross 19000000 }, phaseErrors := errors }
    meters := (inState st).meters.set 0 { ((inState st).meters[0] : Meter) with count, sat } }

theorem grantInv_window (st : HoseState) : GrantInv (window st 100 false 0 0) := by
  refine ⟨⟨?_, ?_, ?_⟩, ?_, ?_, ?_, ?_, ?_⟩ <;> cases st <;> decide

/-- What the window of H0 leaves of its context. -/
def windowLeft (s : State) : HoseState × Option EndCause × Bool × Option Nat :=
  let h := (after (.windowExpiry 0) s).hoses[(0 : HoseId)]
  (h.state, h.endCause, h.settleFresh, h.pauseExpiry)

/-- A window that finds nothing remaining. -/
def windowDone (st : HoseState) : State :=
  let s := window st 0 false 0 0
  { s with hoses := s.hoses.set 0 { s.hoses[0] with preset := some 0 } }

/-- A window that ends a delivery, from PRIMING, FLOWING and PAUSED, and one that ends nothing. -/
theorem test_meets_DeliveryWindowAccounts_ends :
    (∀ st ∈ [HoseState.priming, .flowing, .paused], GrantInv (window st 100 false 0 0)) ∧
    (∀ st ∈ [HoseState.priming, .flowing, .paused],
      windowLeft (window st 32767 true 0 0) = (.settling, some .overspeed, false, none) ∧
      windowLeft (window st 0 false 0 4) = (.settling, some .meterFault, false, none) ∧
      windowLeft (windowDone st) = (.settling, some .presetReached, false, none)) ∧
    (∀ st ∈ [HoseState.priming, .paused],
      (after (.windowExpiry 0) (window st 0 false 0 0)).hoses[(0 : HoseId)].state = st) :=
  ⟨fun st _ => grantInv_window st, by decide, by decide⟩

theorem test_meets_DeliveryWindowAccounts :
    (∀ st ∈ [HoseState.priming, .flowing, .paused],
      (window st 100 false 0 0).meters[meterOf 0].due = some 10250000 ∧
      (window st 100 false 0 0).meters[meterOf 0].attach = .delivery ∧
      (window st 100 false 0 0).hoses[(0 : HoseId)].acc = some { Accum.zero with net := min 0 19000000 } ∧
      (window st 100 false 0 0).hoses[(0 : HoseId)].state = st) ∧
    (window .flowing 32767 true 0 0).meters[meterOf 0].sat = true ∧
    (let a : Accum := { Accum.zero with gross := 2 ^ 47 - 1 }
     a.newlySaturated (a.window ⟨1, 0⟩ ⟨1, 0⟩ 1500) = true ∧
      Accum.zero.newlySaturated (Accum.zero.window ⟨1, 0⟩ ⟨1, 0⟩ 1500) = false) ∧
    3 < min 65535 ((window .paused 0 false 0 4).hoses[(0 : HoseId)].phaseErrors + 0) ∧
    min 65535 ((window .paused 0 false 0 3).hoses[(0 : HoseId)].phaseErrors + 0) ≤ 3 ∧
    ((window .flowing 1000 false 20000000 0).hoses[(0 : HoseId)].preset.getD 0 : Nat) ≤
      truncDiv (19000000 + 1000000) 1000 ∧
    (window .flowing 1000 false 20000000 0).hoses[(0 : HoseId)].step.isSome = true ∧
    ((window .flowing 100 false 0 0).hoses[(0 : HoseId)].state = .flowing ∧
      (window .flowing 100 false 0 0).hoses[(0 : HoseId)].step.isSome = true ∧
      (window .flowing 100 false 0 0).meters[meterOf 0].sat = false) := by decide

/-- The mean temperature of a DELIVERY record of the settling hose. -/
def testMean : Int :=
  (State.deliveryRecord (inState .settling) ((testHose .settling).delivery 0 0)).mean

theorem test_meets_SettlingClosesWithRecord :
    (let s := inState .settling
     s.meters[meterOf 0].due = some 10250000 ∧ s.meters[meterOf 0].attach = .delivery ∧
      s.hoses[(0 : HoseId)].state = .settling ∧ s.hoses[(0 : HoseId)].settleFresh = false ∧
      s.settleQuiet ≤ s.hoses[(0 : HoseId)].quietRun + 1 ∧
      0 < s.settleQuiet ∧ s.hoses[(0 : HoseId)].settleCount + 1 < s.settleMax ∧
      s.entryOfRing s.hoses[(0 : HoseId)].identity.ring = some (4, testEntry) ∧
      { s with table := State.reset.table }.entryOfRing 0x094627 = none ∧
      s.port.mask.getLsbD 3 = false ∧ s.port.events.length ≤ 27) ∧
    (let s := after (.stop 1 0) (inState .flowing)
     s.meters[meterOf 0].due = some 10250000 ∧ s.meters[meterOf 0].attach = .delivery ∧
      s.hoses[(0 : HoseId)].state = .settling ∧ s.hoses[(0 : HoseId)].settleFresh = true) ∧
    ((0 : Int) ≤ 1850 ∧ (-1000 : Int) ≤ -1000) ∧ (0 : Int) < 1 ∧ (0 : Int) ≤ 0 ∧
    ((inState .settling).hoses[(0 : HoseId)].ident = some testIdent ∧
      (inState .settling).hoses[(0 : HoseId)].endCause.isSome = true) ∧
    ((-32768 : Int) ≤ testMean ∧ testMean ≤ 32767) := by decide

/-- A STOP taken at the window's expiry time leaves its window to be counted, one taken before it does not
(R52, R74; log entry 8). -/
theorem test_stop_with_expiry :
    (after (.windowExpiry 0) (after (.stop 1 0) { inState .flowing with now := 10250000 })).hoses[
      (0 : HoseId)].settleCount = 1 ∧
    (after (.windowExpiry 0) (after (.stop 1 0) { inState .flowing with now := 10249999 })).hoses[
      (0 : HoseId)].settleCount = 0 := by decide

/-- The record of a SET_STOCK of C0. -/
def testRecord : List Byte := (adjustRecord 0 0 5000000).bytes 1 0 0

/-- The part with that record stored, at slot 0 and read in drain mode. -/
def logged : State :=
  { ready with
    log := { ready.log with
      slots := [(0, { stored := true, bytes := testRecord })], count := 1, seq := 2
      indexCrc := crc16 (indexBytes 0 1), seqCrc := crc16 (beBytes 4 2), drain := some (0, 1) } }

theorem logged_slot (i : Nat) :
    logged.log.slotAt i = if i = 0 then { stored := true, bytes := testRecord } else LogSlot.blank := by
  by_cases h : i = 0
  · subst h; rfl
  · rw [if_neg h]
    show Option.getD (if 0 = i then _ else _) _ = _
    rw [if_neg (fun g => h g.symm)]
    rfl

theorem crcInv_logged : CrcInv logged where
  log := by
    refine ⟨⟨?_, ?_, ?_⟩, ?_, ?_, ?_, ?_, ?_, ?_, ?_, ?_⟩ <;> decide
  entries := by decide
  day := by decide
  logIndex := by decide
  records i h := by
    rw [logged_slot] at h ⊢
    split_ifs at h ⊢
    · decide
    · cases h
  lengths i := by
    rw [logged_slot]
    split_ifs
    · decide
    · rfl
  stored i h := by
    have h0 : i = 0 := Nat.lt_one_iff.mp h
    subst h0
    decide
  counter := by decide
  books := by decide
  journals n j h := by
    have key : ∀ n : HoseId, logged.hoses[n].journal = none := by decide
    rw [key n] at h
    cases h
  receipt j h := by cases h
  notices := by decide

theorem test_meets_RecordReadsReturnHalves :
    CrcInv logged ∧ CrcInv (inState .idle) ∧
    ((0 : BitVec 32).toNat ≤ 1023 ∧ (0 : BitVec 32).toNat < logged.log.count) ∧
    ((1023 : BitVec 32).toNat ≤ 1023 ∧ logged.log.count ≤ (1023 : BitVec 32).toNat) ∧
    (1023 < (1024 : BitVec 32).toNat ∧ 1 < (2 : Byte).toNat ∧ (2 : Byte) ≠ 0) ∧
    (0 < logged.log.count ∧ logged.log.drain = some (logged.log.oldest, 1) ∧
      recordSeq (logged.log.slotAt logged.log.oldest).bytes = (1 : BitVec 32).toNat) ∧
    (inState .idle).log.drain = none ∧ (0 < logged.log.count ∧ (logged.log.release 1).count = 0) ∧
    (1 : Byte) ≠ 0 :=
  ⟨crcInv_logged, crcInv_inState _, by decide, by decide, by decide, by decide, by decide, by decide,
    by decide⟩

theorem test_meets_ReleaseFreesOldest :
    logged.log.count ≤ 1024 ∧ logged.log.oldest < 1024 ∧
    (let l : Log := { logged.log with oldest := 1023, count := 1024 }
     l.count ≤ 1024 ∧ l.oldest < 1024) := by decide

/-- The record damaged in its charge. -/
def damaged : State :=
  { logged with log := { logged.log with
      slots := [(0, { stored := true, bytes := testRecord.set 33 1 })] } }

theorem test_meets_ScrubMarksFailingRecord :
    (ready.log.scrubDue = some 15000000 ∧ ready.log.count = 0) ∧
    (0 < logged.log.count ∧ logged.log.scrub = none ∧ recordPasses (logged.log.slotAt 0).bytes = true) ∧
    (recordPasses (damaged.log.slotAt 0).bytes = false ∧ 0 ∉ damaged.log.corrupt ∧
      0 ∈ { damaged.log with corrupt := [0] }.corrupt) ∧
    (let l : Log := { logged.log with
        count := 2, scrub := some 0
        slots := [(0, { stored := true, bytes := testRecord }), (1, { stored := true, bytes := testRecord })] }
     (l.slotAt 0).stored = true ∧ 0 ≠ l.position (l.count - 1) ∧ 1 = l.position (l.count - 1) ∧
      (l.slotAt 2).stored = false) := by decide

/-- The part with a receipt open into C0, its figure and permit as given. -/
def receiving (ending : Bool) (net : Int) (permit : Permit) : State :=
  let x : Session := { Session.opened 0 with ending, permit, acc := { Accum.zero with net } }
  { ready with
    meters := ready.meters.set 4 { (ready.meters[4] : Meter) with attach := .receipt, count := 100 }
    stock := { ready.stock with session := some x, rjournal := some x.journal, restock := .receiving }
    log := { ready.log with reserved := ready.log.reserved.set holderReceipt true } }

/-- A log without a free slot. -/
def fullLog : State := { ready with log := { ready.log with count := 1024 } }

theorem test_meets_SetStockReplacesBook :
    ready.isSealed = true ∧ (2 ≤ (2 : Byte).toNat ∧ 2147483647 < (2147483648 : BitVec 32).toNat) ∧
    ((2147483647 : BitVec 32).toNat ≤ 2147483647 ∧
      (receiving false 0 .raised).stock.session.isSome = true ∧ (receiving false 0 .raised).isSealed = true) ∧
    (fullLog.stock.session = none ∧ fullLog.log.freeCount = 0 ∧ fullLog.isSealed = true) ∧
    ready.stock.session = none ∧ 1 ≤ ready.log.freeCount ∧
    1 ≤ { ready.log with count := 1023 }.freeCount ∧ ready.link.queue.length < 16 ∧
    (after (.setStock 0 0 1000000) ready).stock.restock ≠ ready.stock.restock ∧
    (after (.setStock 0 0 5000000) ready).stock.restock = ready.stock.restock := by decide

theorem test_meets_SetParkedTakesValue :
    State.reset.isSealed = false ∧ ready.isSealed = true ∧ 1 < (2 : Byte).toNat ∧
      (1 : Byte).toNat ≤ 1 := by decide

/-- C0 filled to its high level by its book, and by its gauge. -/
def highBook : State :=
  { ready with stock := { ready.stock with books := ready.stock.books.set 0 (bookOf 0 9800000 true) } }

def highGauge : State :=
  { ready with stock := { ready.stock with
      levels := ready.stock.levels.set 0 (some { mm := 2500, gauge := 9800000 }) } }

theorem test_meets_ReceiptOpensAndEnds :
    ready.isSealed = true ∧ 2 ≤ (2 : Byte).toNat ∧
    (receiving false 0 .raised).stock.session.isSome = true ∧
    (unsetBooks.isSealed = true ∧ unsetBooks.stock.session = none ∧
      unsetBooks.stock.books[(0 : CompId)].isSet = false) ∧
    (fullLog.stock.session = none ∧ fullLog.stock.books[(0 : CompId)].isSet = true ∧
      fullLog.log.freeCount = 0) ∧
    (ready.stock.session = none ∧ ready.stock.books[(0 : CompId)].isSet = true ∧
      1 ≤ ready.log.freeCount) ∧
    highBook.highFillOf 0 ≤ highBook.stock.books[(0 : CompId)].value ∧
    (∃ l : Level, highGauge.stock.levels[(0 : CompId)] = some l ∧ highGauge.highFillOf 0 ≤ l.gauge) ∧
    highGauge.stock.books[(0 : CompId)].value < highGauge.highFillOf 0 ∧
    (ready.stock.books[(0 : CompId)].value < ready.highFillOf 0 ∧
      ready.stock.levels[(0 : CompId)] = none) ∧
    (receiving true 0 .ended).stock.session.isSome = true ∧ (receiving true 0 .ended).isSealed = true :=
  ⟨by decide, by decide, by decide, by decide, by decide, by decide, by decide,
    ⟨_, rfl, by decide⟩, by decide, by decide, by decide, by decide⟩

theorem test_meets_ReceiptWindowAccounts :
    (∀ e ∈ [false, true], ∀ p ∈ [Permit.raised, .dropped, .ended],
      (receiving e 0 p).meters[meterMR].due = some 10250000 ∧
      (receiving e 0 p).meters[meterMR].attach = .receipt ∧
      ((receiving e 0 p).stock.session.map Session.ending) = some e) ∧
    (let s := receiving false 0 .raised
     ∀ x, s.stock.session = some x →
      (s.highByBook (s.windowSession x (s.windowOf meterMR)) ||
        s.highByGauge (s.windowSession x (s.windowOf meterMR))) = false) ∧
    (let s := receiving false 4800000000 .raised
     ∀ x, s.stock.session = some x →
      (s.highByBook (s.windowSession x (s.windowOf meterMR)) ||
        s.highByGauge (s.windowSession x (s.windowOf meterMR))) = true) ∧
    ((receiving true 0 .ended).port.mask.getLsbD 17 = false ∧
      (receiving true 0 .ended).port.events.length ≤ 28) := by
  refine ⟨by decide, ?_, ?_, by decide⟩ <;> (intro s x h; cases h; decide)

/-- A receipt into C0 whose compartment is high by its gauge alone. -/
def receivingHigh : State :=
  let s := receiving false 0 .raised
  { s with stock := { s.stock with levels := s.stock.levels.set 0 (some { mm := 2500, gauge := 9800000 }) } }

/-- The cases of the high-level test: no session, neither figure, the book, the gauge alone, another
compartment and a permit not RAISED; and a receipt that ends, from RECEIVING and from NORMAL. -/
theorem test_meets_ReceiptWindowAccounts_cases :
    (let permits (k : CompId) (s : State) := (s.highLevelTest k).stock.session.map Session.permit
     let posted (s : State) := (s.highLevelTest 0).port.events.map fun e => (e.kind.code, e.value)
     let code := EventKind.highLevel.code
     permits 0 ready = none ∧ permits 0 (receiving false 0 .raised) = some .raised ∧
      permits 1 (receiving false 4800000000 .raised) = some .raised ∧
      permits 0 (receiving false 4800000000 .ended) = some .ended ∧
      posted (receiving false 4800000000 .raised) = [(code, 0)] ∧ posted receivingHigh = [(code, 1)]) ∧
    (let ends (own : RestockState) : State :=
       let s := receiving true 0 .ended
       after (.windowExpiry meterMR) { s with stock := { s.stock with restock := own } }
     let told (t : State) := (t.stock.restock, t.port.events.map fun e => e.kind.code)
     told (ends .receiving) =
       (.normal, [EventKind.receiptClosed.code, EventKind.restockState.code]) ∧
     told (ends .normal) = (.normal, [EventKind.receiptClosed.code])) := by decide

/-- A station with books low enough to want fuel, its restock state, and one peer in a state. -/
def wanting (own : RestockState) (peer : Option PeerStock) : State :=
  let slot : Option Peer := peer.map fun x => { lastSeq := 899, heardAt := 1, stale := 121, stock := some x }
  { ready with
    stock := { ready.stock with
      books := ready.stock.books.set 0 (bookOf 0 2999999 true), restock := own
      goHold := if own = .go then some 3610 else none }
    link := { ready.link with peers := ready.link.peers.set 6 slot } }

/-- A peer's stock fields in a state with a key. -/
def peerIn (state : RestockState) (key : Nat) : PeerStock :=
  { state, yielding := false, key, book0 := 0, book1 := 0 }

theorem test_meets_RestockEvaluated :
    (receiving false 0 .raised).stock.restock = .receiving ∧
    (ready.stock.restock ≠ .receiving ∧ ¬ ∃ k : CompId,
      ready.stock.books[k].value < ready.reorder k * 1000) ∧
    (∀ own : List RestockState, own = [.normal, .want, .go] → ∀ r ∈ own,
      (wanting r none).stock.restock = r ∧ (wanting r none).stock.yieldUntil = none ∧
      ∃ k : CompId, (wanting r none).stock.books[k].value < (wanting r none).reorder k * 1000) ∧
    ((wanting .want none).evaluated = .go ∧ (wanting .normal none).evaluated = .go ∧
      (wanting .want (some (peerIn .receiving 350))).evaluated = .want ∧
      (wanting .want (some (peerIn .want 298))).evaluated = .want ∧
      (wanting .want (some (peerIn .want 300))).evaluated = .go ∧
      (wanting .want (some (peerIn .want 299))).evaluated = .go ∧
      (wanting .go (some (peerIn .go 298))).evaluated = .want ∧
      (wanting .go (some (peerIn .go 299))).evaluated = .go) ∧
    (wanting .normal none).evaluated ≠ (wanting .normal none).stock.restock ∧
    ready.evaluated = ready.stock.restock ∧ (∀ k : CompId, 0 < ready.capacity k) ∧
    (7, peerIn .go 298) ∈ (wanting .go (some (peerIn .go 298))).peerStocks := by
  refine ⟨by decide, by decide, ?_, by decide, by decide, by decide, by decide, by decide⟩
  intro own h
  subst h
  decide

/-- The entry with a reservation heard from station 7. -/
def heardFrom7 : State :=
  { ready with table := { ready.table with
      entries := [(4, { testEntry with heard := testEntry.heard.set 6 (some { ml := 50000, expiry := 60 }) })] } }

theorem test_meets_ReservationsAndHoldsExpire :
    (∃ e, heardFrom7.entryAt (4 : SlotId).val = some e ∧
      e.heard[(6 : StationId)] = some { ml := 50000, expiry := 60 }) ∧
    (∀ e, ready.entryAt (4 : SlotId).val = some e → e.heard[(6 : StationId)] = none) ∧
    (∀ e, ready.entryAt (255 : SlotId).val = some e → e.heard[(6 : StationId)] = none) ∧
    ((wanting .go none).stock.goHold = some 3610 ∧ (wanting .go none).stock.restock = .go) ∧
    { ready.stock with yieldUntil := some 20 }.yieldUntil = some 20 ∧
    ready.stock.goHold = none ∧ ready.stock.yieldUntil = none :=
  ⟨⟨_, rfl, by decide⟩, (by intro e h; cases h; decide), (by intro e h; cases h), by decide, rfl, rfl, rfl⟩

/-- The sampler at an input with a block of a length. -/
def sampling (pos : Fin 5) (n : Nat) : State :=
  { ready with sampler := { ready.sampler with
      pos, inputs := ready.sampler.inputs.set pos
        { first := List.replicate n 2048, second := [], fillSecond := false, value := none } } }

theorem test_meets_SampleFillsBlock :
    (∀ p : Fin 5, (sampling p 15).sampler.due = some 10000000) ∧
    (List.replicate 14 2048 ++ [(4095 : BitVec 12).toNat]).length < 16 ∧
    16 ≤ (List.replicate 15 2048 ++ [(4095 : BitVec 12).toNat]).length ∧
    (4 : Fin 5).val = (2 : Fin 3).val + 2 ∧ ready.metro.tcal[(2 : Fin 3)] = some (16384, -4000) ∧
    (1 : Fin 5).val = (1 : CompId).val := by decide

/-- A level history of four or five values. -/
def withHistory (s : State) (l : List Nat) : State :=
  { s with stock := { s.stock with history := s.stock.history.set 0 l } }

/-- A history one short, one that completes, one that shifts, with its median, reconciled and not. -/
theorem test_meets_SampleFillsBlock_levels :
    ((withHistory ready [1, 2, 3]).stock.history[(0 : CompId)].length ≤ 5 ∧
      ([1, 2, 3] ++ [4]).length < 5) ∧
    (∀ l ∈ [[5, 1, 4, 2], [9, 5, 1, 4, 2]], (withHistory ready l).stock.history[(0 : CompId)].length ≤ 5 ∧
      (let joined := l ++ [3]
       let history := if joined.length = 6 then joined.tail else joined
       history.length = 5 ∧ 3 ∈ history ∧ (history.countP fun x => decide (x < 3)) ≤ 2 ∧
        (history.countP fun x => decide (3 < x)) ≤ 2)) ∧
    { ready with stock := { ready.stock with parked := true } }.reconciles 0 = true ∧
    ready.reconciles 0 = false ∧
    ready.stock.variance[(0 : CompId)].outside = false ∧
    (∀ x, (receiving false 0 .raised).stock.session = some x → x.comp = 0 ∧ x.permit = .raised) ∧
    (receiving false 0 .raised).reconciles 0 = false ∧
    ∀ x, (receiving false 0 .dropped).stock.session = some x → x.permit ≠ .raised := by
  refine ⟨by decide, by decide, by decide, by decide, by decide, ?_, by decide, ?_⟩ <;>
    (intro x h; cases h; decide)

/-- The link in a state with a backoff, deferrals and a queue. -/
def linkIn (st : LinkState) (backoff : Option Nat) (deferrals : Nat) (queue : List Subject) : State :=
  { ready with link := { ready.link with state := st, backoff, deferrals, queue } }

theorem test_meets_CarrierEventFollowsState :
    loaded.isSealed = false ∧
    (∀ st ∈ [LinkState.busy, .jammed, .sending, .unknown, .idle],
      (linkIn st none 0 []).isSealed = true ∧ (linkIn st none 0 []).link.state = st) ∧
    (linkIn .idle (some 20) 30 [.stock]).link.deferrals < 31 ∧
    (linkIn .idle (some 20) 31 [.stock]).link.backoff ≠ none ∧
    (linkIn .idle (some 20) 31 [.stock]).link.deferrals = 31 ∧
    (linkIn .idle (some 20) 31 [.stock, .machine 0x094627]).link.queue = .stock :: [.machine 0x094627] := by
  decide

/-- A frame in transmission, with the carrier as given. -/
def sending (lcd : Bool) : State :=
  { ready with
    pins := { ready.pins with lcd }
    link := { ready.link with state := .sending, tx := some { bytes := [18, 2], due := 10018756 } } }

theorem test_meets_LinkTimersAndCharacters :
    { ready.link with quiet := some 10050 }.quiet = some 10050 ∧
    { ready.link with jam := some 12000 }.jam = some 12000 ∧
    { ready.link with rx := some RxFrame.empty }.rx = some RxFrame.empty ∧
    ready.link.quiet = none ∧ ready.link.jam = none ∧ ready.link.rx = none ∧
    (∀ b ∈ [true, false], (sending b).link.tx = some { bytes := [18, 2], due := 10018756 } ∧
      (sending b).pins.lcd = b ∧ (sending b).ltxe = true ∧
      (after .endOfTransmission (sending b)).ltxe = false) := by decide

/-- A wait queue of sixteen subjects. -/
def fullLink : State := linkIn .idle none 0 ((List.range 16).map fun i => .machine (BitVec.ofNat 24 i))

theorem test_meets_BackoffExpirySendsHead :
    ((linkIn .idle (some 10020) 0 [.machine 0x094627, .stock]).link.backoff = some 10020 ∧
      (linkIn .idle (some 10020) 0 [.machine 0x094627, .stock]).link.queue =
        .machine 0x094627 :: [.stock] ∧
      (linkIn .idle (some 10020) 0 [.machine 0x094627, .stock]).entryOfRing 0x094627 =
        some (4, testEntry)) ∧
    ((linkIn .idle (some 10020) 0 [.stock]).link.queue = .stock :: []) ∧
    (linkIn .idle (some 10020) 0 [.machine 0x0001FF]).link.queue = .machine 0x0001FF :: [] ∧
    (linkIn .idle (some 10020) 0 [.machine 0x0001FF]).entryOfRing 0x0001FF = none ∧
    (.stock ∈ (linkIn .idle none 0 [.stock]).link.queue ∧ .stock ∉ ready.link.queue ∧
      16 ≤ fullLink.link.queue.length ∧ .stock ∉ fullLink.link.queue ∧
      (linkIn .idle none 0 (fullLink.link.queue.take 15)).link.queue.length < 16) ∧
    (let l := (linkIn .idle none 0 [.stock]).link
     l.state = .idle ∧ l.queue ≠ [] ∧ l.clash = false ∧ l.backoff = none ∧ l.gen = some 0x3003) ∧
    (linkIn .busy none 0 [.stock]).link.state ≠ .idle ∧ ready.link.queue = [] ∧
    (linkIn .idle (some 10020) 0 [.stock]).link.backoff ≠ none ∧
    ready.ltxe = false ∧
    (after .backoffExpiry (linkIn .idle (some 10020) 0 [.stock])).ltxe = true := by decide

/-- 10.10: the frame of station 7, its site and sequence as given. -/
def frame7 (site seq : Nat) : List Byte :=
  let body : List Byte := [18, 2] ++ beBytes 2 site ++ [7] ++ beBytes 2 seq ++ [0, 0, 2] ++ beBytes 2 180 ++
    [0, 0, 0, 0]
  body ++ beBytes 2 (crc16 body).toNat

/-- The link BUSY with a frame in reception, at site 0x2A10. -/
def hearing (frame : List Byte) : State :=
  { linkIn .busy none 1 [.machine 0x094627, .stock] with
    config := { ready.config with items := [(1, 3), (2, 0x2A10)] }
    pins := { ready.pins with lcd := true }
    link := { (linkIn .busy none 1 [.machine 0x094627, .stock]).link with
      jam := some 12012, rx := some { kept := frame, count := frame.length }, gen := some 0xAC01
      peers := ready.link.peers.set 6 (some
        { lastSeq := 899, heardAt := 1, stale := 121, stock := some (peerIn .normal 350) }) } }

theorem test_meets_CarrierReleaseChecksFrame :
    loaded.isSealed = false ∧ (sending true).link.state = .sending ∧
    ((hearing []).isSealed = true ∧ (hearing []).link.state ≠ .sending ∧
      (hearing []).link.rx = some { kept := [], count := 0 }) ∧
    (linkIn .busy none 0 []).link.rx = none ∧
    (∀ p ∈ [(0x2A10, 901), (0x2A11, 901)],
      (frame7 p.1 p.2).length = ((frame7 p.1 p.2).getD 0 0).toNat ∧ (frame7 p.1 p.2).length = 18 ∧
      (crc16 ((frame7 p.1 p.2).take 16)).toNat = fieldAt (frame7 p.1 p.2) 16 2) ∧
    ((hearing (frame7 0x2A10 901)).acceptNotice ((frame7 0x2A10 901).take 18)).isSome = true ∧
    (hearing (frame7 0x2A11 901)).acceptNotice ((frame7 0x2A11 901).take 18) = none ∧
    ((frame7 0x2A10 901).set 16 0).length ≠ 0 ∧
    (crc16 (((frame7 0x2A10 901).set 9 3).take 16)).toNat ≠ fieldAt ((frame7 0x2A10 901).set 9 3) 16 2 := by
  decide

/-- A notice of a station at a sequence. -/
def noticeOf (station : Nat) (seq : BitVec 16) (body : NoticeBody) : Notice :=
  { site := 0, station, seq, body }

/-- An own number, a stale sequence, a stock notice, and a machine notice of this day and of another. -/
theorem test_meets_CarrierReleaseChecksFrame_notices :
    ((noticeOf 3 0 (.machine 0 0 0 0)).station = ready.station ∧ ready.link.clash = false ∧
      { ready.link with clash := true }.clash = true) ∧
    ((noticeOf 7 0 (.machine 0 0 0 0)).station = (6 : StationId).val + 1 ∧
      (noticeOf 16 0 (.machine 0 0 0 0)).station = (15 : StationId).val + 1 ∧
      (7 : Nat) ≠ ready.station ∧ (16 : Nat) ≠ ready.station) ∧
    ((hearing []).link.peers[(6 : StationId)].map Peer.lastSeq = some 899 ∧
      32768 ≤ ((899 + 32768 : BitVec 16) - 899).toNat ∧
      ¬(32768 ≤ ((899 + 32767 : BitVec 16) - 899).toNat ∨ (899 + 32767 : BitVec 16) = 899)) ∧
    (ready.link.peers[(15 : StationId)] = none ∧ (1 : BitVec 16) ≠ ready.table.day ∧
      (0 : BitVec 16) = ready.table.day ∧ ready.entryOfRing 0x0001FF = none ∧
      ready.entryOfRing 0x094627 = some (4, testEntry)) ∧
    (ready.siteMode = 0 ∧
      { ready with config := { ready.config with items := [(1, 3), (4, 1)] } }.siteMode = 1 ∧
      2 ≤ { ready with config := { ready.config with items := [(1, 3), (4, 2)] } }.siteMode) := by decide

/-- An entry with an own tally, swept from a position. -/
def sweeping (pos : Nat) (clash : Bool) : State :=
  { ready with
    table := { ready.table with
      entries := [(4, Entry.withCrc { testEntry with tally := testEntry.tally.set 2 85000 })] }
    link := { ready.link with sweepPos := pos, clash } }

theorem test_meets_LinkPeriodsRun :
    ((hearing []).link.peers[(6 : StationId)]).isSome = true ∧
    (ready.link.peers[(6 : StationId)] = none ∧ ready.link.stockDue = some 60000000 ∧
      ready.link.sweepDue = some 20000000) ∧
    ((sweeping 5 true).link.clash = true ∧ (sweeping 5 false).link.clash = false) ∧
    (∀ p ∈ ready.table.entries, ¬ (0 < p.2.tally[ready.ownIndex] ∨ 0 < ready.ownOpenSum p.1 none)) ∧
    (TableInv (sweeping 5 false) ∧ (sweeping 255 false).link.sweepPos < 256 ∧
      ∃ p ∈ (sweeping 5 false).table.entries, 0 < p.2.tally[(sweeping 5 false).ownIndex] ∧
        ∀ q ∈ (sweeping 5 false).table.entries,
          (p.1 + 256 - 5) % 256 ≤ (q.1 + 256 - 5) % 256) :=
  ⟨by decide, by decide, by decide, by decide,
    ⟨by decide, by decide, by decide, by decide, by decide⟩, by decide, by decide⟩

theorem test_meets_ScanLatchesMetrologyFault :
    (ready.scanDue = some 60000000 ∧ ready.metro.issued = some ready.metro.crc) ∧
    (let s : State := { inState .flowing with
        metro := { ready.metro with alpha := ready.metro.alpha.set 0 (some 831) } }
     s.scanDue = some 60000000 ∧ s.metro.issued ≠ some s.metro.crc ∧
      s.hoses[(0 : HoseId)].state.isActive = true) ∧
    loaded.scanDue = none := by decide

/-! ## Small steps -/

/-- PUT_MACHINE takes the lowest free slot; the same number under another ring is DUPLICATE. -/
theorem test_putMachine :
    (after (.putMachine 1 0x0001FF 8 0 1 0 100 50) ready).entryAt 0 =
      some (Entry.new 0x0001FF 8 0 (true, false) .active 100 50).withCrc ∧
    (after (.putMachine 1 0x0001FF 7 0 1 0 100 50) ready).port.held =
      replyBytes 0x10 1 Status.duplicate.code [] := by decide

/-- A day with another number starts the tallies anew. -/
theorem test_setDay :
    ((after (.setDay 1 20) (sweeping 0 false)).entryAt 4).map Entry.tallySum = some 0 ∧
    (after (.setDay 1 20) (sweeping 0 false)).table.day = 20 := by decide

/-- A seated nozzle starts a read; the 24th count of the second try identifies the hose. -/
theorem test_read_identifies :
    (after (.seatEvent 0) ready).hoses[(0 : HoseId)].state = .reading ∧
    (after (.seatEvent 0) ready).readers[(0 : HoseId)].slotDue = some 10002000 ∧
    (after (.padMeasurement 0 1020) (trying 2 (secondCounts.take 23))).hoses[(0 : HoseId)] =
      { testHose .identified with armExpiry := some 130 } := by decide

/-- An AUTHORISE of a preset above the limit of 300 L is granted the limit. -/
theorem test_authorise :
    (after (.authorise 9 0 400000 0) (inState .identified)).port.held =
      replyBytes 0x20 9 0 (beBytes 4 300000 ++ beBytes 4 300000 ++ [0, 0, 7, 5]) ∧
    (after (.authorise 9 0 400000 0) (inState .identified)).link.queue = [.machine 0x094627] := by decide

/-- 5.6: a claim of a pump that is OFF starts its spin-up; one of a RUNNING pump flows at once. -/
theorem test_deadman :
    ((after (.deadmanHeld 0) (inState .armed)).pumps[(0 : CompId)]).spinUp = some 11500 ∧
    (after (.deadmanHeld 0) (inState .armed)).hoses[(0 : HoseId)].state = .priming ∧
    (after (.deadmanHeld 0) (withPump .armed .runOn)).hoses[(0 : HoseId)].state = .flowing ∧
    (after (.deadmanHeld 0) (withPump .armed .runOn)).vslow 0 = true := by decide

/-- 5.6: at the spin-up expiry the PRIMING hose flows at step 0 and the pump asks for SLOW. -/
theorem test_spinUp :
    let t := after (.spinUpExpiry 0) (withPump .priming .starting)
    t.pumps[(0 : CompId)].state = .running ∧ t.pumps[(0 : CompId)].demand = some .slow ∧
      t.hoses[(0 : HoseId)].step = some (firstStep testProfile) ∧ t.now = 11500000 := by decide

/-- 5.6: a freed grant passes to the head of the queue. -/
theorem test_grant_passes :
    let p : Pump := { Pump.restarted with grants := #v[true, false, false, false], queue := [2, 1] }
    (p.giveUp 0).grants = #v[false, false, true, false] ∧ (p.giveUp 0).queue = [1] ∧
    (p.request 1 3).queue = [2, 1, 3] := by decide

/-- The fourth quiet window closes the delivery: record, counter, reservation, journal and meter. -/
theorem test_close :
    let t := after (.windowExpiry 0) (inState .settling)
    t.hoses[(0 : HoseId)] = Hose.bare .finished none ∧ t.log.count = 1 ∧ t.log.seq = 2 ∧
      t.log.reserved[(0 : Fin 5)] = false ∧ t.meters[(0 : MeterId)].attach = .stray ∧
      recordPasses (t.log.slotAt 0).bytes = true ∧
      t.port.events = [{ kind := .deliveryClosed, subject := .hose 0, value := 1, postedAt := 10 }] := by
  decide

/-- A window of 100 counts of 1,000 µL. -/
theorem test_deliveryWindow :
    let t := after (.windowExpiry 0) (window .flowing 100 false 0 0)
    (t.hoses[(0 : HoseId)].acc.map Accum.gross) = some 100093 ∧
      t.hoses[(0 : HoseId)].flags.uncompensated = true ∧ t.hoses[(0 : HoseId)].state = .flowing ∧
      t.meters[(0 : MeterId)].count = 0 ∧ t.meters[(0 : MeterId)].lastRate = 240 := by decide

/-- 6.9: a stray window debits the book and posts its event. -/
theorem test_strayWindow :
    let t := after (.windowExpiry 0) (stray 37 false)
    t.stock.books[(0 : CompId)].value = 4999963 ∧
      t.port.events = [{ kind := .strayFlow, subject := .hose 0, value := 37, postedAt := 10 }] := by decide

/-- A damaged record is marked once. -/
theorem test_scrub :
    (after .scrubExpiry { damaged with log := { damaged.log with scrubDue := some 15000000 } }).log.corrupt =
      [0] := by decide

/-- Draining a record already returned releases it. -/
theorem test_drain :
    (after (.readRecordDrain 1 0 0) logged).log.count = 0 ∧
    (after (.readRecordDrain 1 0 0) logged).port.held =
      replyBytes 0x30 1 Status.empty.code (List.replicate 24 0 ++ [0, 0, 0]) := by decide

/-- A book set below the reorder level makes the station want fuel. -/
theorem test_setStock :
    (after (.setStock 1 0 1000000) ready).stock.restock = .want ∧
    (after (.setStock 1 0 1000000) ready).log.count = 1 ∧
    (after (.setStock 1 0 1000000) ready).link.queue = [.stock] := by decide

/-- A receipt raises the permit; its end ends it; its last window credits the book. -/
theorem test_receipt :
    (after (.receiptBegin 1 0) ready).rperm = true ∧ (after (.receiptBegin 1 0) highBook).rperm = false ∧
    (after (.receiptEnd 1) (receiving false 0 .raised)).rperm = false ∧
    (after (.windowExpiry 4) (receiving true 3000000 .ended)).stock.books[(0 : CompId)].value = 5003100 ∧
    (after (.windowExpiry 4) (receiving true 3000000 .ended)).stock.session = none := by decide

/-- The GO hold runs out into a yield. -/
theorem test_goHold :
    (after .goHoldExpiry (wanting .go none)).stock.restock = .want ∧
    (after .goHoldExpiry (wanting .go none)).stock.yieldUntil = some 7210 := by decide

/-- The sixteenth sample of T0 completes its block: 2175 converts to 4700. -/
theorem test_analogBlock :
    (after (.analogSample 4095) (sampling 2 15)).sampler.temps[(0 : Fin 3)] = .good 4700 ∧
    (after (.analogSample 4095) (sampling 2 15)).sampler.pos = 3 := by decide

/-- 10.10: station 7's notice is accepted, and the draw gives k = 0; a copy with sequence 899 is discarded. -/
theorem test_notice :
    let t := after .carrierRelease (hearing (frame7 0x2A10 901))
    (t.link.peers[(6 : StationId)].map Peer.lastSeq) = some 901 ∧ t.link.state = .idle ∧
      t.link.gen = some 0xE200 ∧ t.link.backoff = some 10000 ∧
      (after .carrierRelease (hearing (frame7 0x2A10 899))).link.seqDiscards = 1 ∧
      (after .carrierRelease (hearing (frame7 0x2A11 901))).link.rxRejects = 1 := by decide

/-- 10.10: the MACHINE frame takes 22 × 1,042 µs. -/
theorem test_sends :
    let t := after .backoffExpiry (linkIn .idle (some 10020) 1 [.machine 0x094627, .stock])
    t.link.state = .sending ∧ t.link.queue = [.stock] ∧ t.link.deferrals = 0 ∧ t.link.noticeSeq = 1 ∧
      (t.link.tx.map TxFrame.due) = some (10020000 + 22924) ∧ t.ltxe = true := by decide

/-- The sweep asks for the entry with an own tally and moves past it. -/
theorem test_sweep :
    (after .machineSweep (sweeping 5 false)).link.queue = [.machine 0x094627] ∧
    (after .machineSweep (sweeping 5 false)).link.sweepPos = 5 := by decide

/-- An emergency stop settles the flowing hose and stops the pump. -/
theorem test_estop :
    let t := after .estopAssertion (inState .flowing)
    t.hoses[(0 : HoseId)].state = .settling ∧ t.vslow 0 = false ∧ t.prun 0 = false ∧ t.estopLatch = true ∧
      t.port.events = [{ kind := .estop, subject := .part, value := 1, postedAt := 10 }] := by decide

/-- A restart keeps the journal of an open delivery, and the seal after it closes it INTERRUPTED. -/
theorem test_restart :
    let t := after (.restart 1) (inState .flowing)
    t.losses = [] ∧ t.hoses[(0 : HoseId)].state = .offline ∧
      t.hoses[(0 : HoseId)].journal = (inState .flowing).hoses[(0 : HoseId)].journal ∧
      t.port.held = startupReply 2 0 ∧ t.log.reserved[(0 : Fin 5)] = true := by decide

/-- A journal found at the seal becomes a record. -/
theorem test_seal_closes_journal :
    let s : State := { loaded with
      hoses := loaded.hoses.set 2 (Hose.bare .offline (some ((testHose .flowing).toJournal 2 1)))
      log := { loaded.log with reserved := loaded.log.reserved.set 2 true } }
    let t := after (.sealPart 1) s
    t.log.count = 1 ∧ t.hoses[(2 : HoseId)] = Hose.bare .idle none ∧
      t.log.reserved = Vector.replicate 5 false ∧
      (t.log.slotAt 0).bytes.getD 38 0 = BitVec.ofNat 8 EndCause.interrupted.code ∧
      t.port.held = replyBytes 0x04 1 0 [0, 0, 0, 1] := by decide

/-- A queued event is read, and the queue's count follows. -/
theorem test_readEvent :
    (after (.readEvent 3) { ready with port := { ready.port with events := [strayEvent] } }).port.held =
      replyBytes 0x60 3 0 ([5, 2, 0, 0, 0, 2] ++ beBytesInt 4 (-37) ++ [0, 0, 0, 9, 0, 0]) := by decide

/-- With nothing to do a sealed part lets a microsecond pass. -/
theorem test_idle : ready.idle.now = 10000001 ∧ State.reset.idle = State.reset := by decide

end Sys2Proof.Tests
end

section
/-! The canonical rotation of a read's pattern (01, R10): where it stands, that a turn of the nozzle turns it,
and what a pattern without one looks like. -/

namespace Sys2Proof.Machine

/-! ## Rotations of a pattern (R10) -/

/-- The value of rotation `j` of a pattern. -/
def rotationValue (l : List Bool) (j : Nat) : Nat := patternValue (rotation l j)

theorem rotationValues_eq (l : List Bool) :
    rotationValues l = (List.range 24).map (rotationValue l) := rfl

theorem rotation_eq_rotate (l : List Bool) (j : Nat) (h : j ≤ l.length) :
    rotation l j = l.rotate j := (List.rotate_eq_drop_append_take h).symm

/-- Two turns of a pattern are one. -/
theorem rotation_rotation (l : List Bool) (j k : Nat) (hl : l.length = 24) (hj : j < 24) (hk : k < 24) :
    rotation (rotation l k) j = rotation l ((j + k) % 24) := by
  rw [rotation_eq_rotate l k (by omega), rotation_eq_rotate _ j (by rw [List.length_rotate]; omega),
    rotation_eq_rotate l _ (by omega), List.rotate_rotate, ← hl, List.rotate_mod, Nat.add_comm]

theorem rotation_length (l : List Bool) (j : Nat) : (rotation l j).length = l.length := by
  simp only [rotation, List.length_append, List.length_drop, List.length_take]
  omega

/-! ## The value of a pattern -/

/-- An accumulator in front of a pattern is shifted past it. -/
theorem patternValue_foldl (l : List Bool) (a : Nat) :
    l.foldl (fun acc b => 2 * acc + cond b 1 0) a = 2 ^ l.length * a + patternValue l := by
  induction l generalizing a with
  | nil => simp [patternValue]
  | cons b rest ih =>
    have front : patternValue (b :: rest) = 2 ^ rest.length * cond b 1 0 + patternValue rest := by
      simpa [patternValue] using ih (2 * 0 + cond b 1 0)
    rw [List.foldl_cons, ih, front, List.length_cons, pow_succ]
    ring

/-- The first element of a pattern is its most significant bit. -/
theorem patternValue_cons (b : Bool) (l : List Bool) :
    patternValue (b :: l) = (if b then 2 ^ l.length else 0) + patternValue l := by
  cases b with
  | false => simp [patternValue]
  | true => simpa [patternValue] using patternValue_foldl l 1

theorem patternValue_lt (l : List Bool) : patternValue l < 2 ^ l.length := by
  induction l with
  | nil => decide
  | cons b rest ih =>
    rw [patternValue_cons, List.length_cons, pow_succ]
    split_ifs <;> omega

/-- Patterns of one length have different values. -/
theorem patternValue_injective (l m : List Bool) (len : l.length = m.length)
    (h : patternValue l = patternValue m) : l = m := by
  induction l generalizing m with
  | nil => exact (List.eq_nil_of_length_eq_zero len.symm).symm
  | cons b rest ih =>
    cases m with
    | nil => cases len
    | cons c tail =>
      have len' : rest.length = tail.length := by simpa using len
      have hr := patternValue_lt rest
      have ht := patternValue_lt tail
      rw [patternValue_cons, patternValue_cons, len'] at h
      rw [len'] at hr
      have head : b = c := by
        cases b <;> cases c <;> simp_all; all_goals omega
      subst head
      rw [ih tail len' (by omega)]

/-! ## The least rotation -/

theorem leastRotation_min? (l : List Bool) :
    (patternValue l :: rotationValues l).min? = some (leastRotation l) := rfl

/-- The least of the rotation values is one of them, and none is below it. -/
theorem leastRotation_spec (l : List Bool) :
    (∃ j < 24, rotationValue l j = leastRotation l) ∧ ∀ i < 24, leastRotation l ≤ rotationValue l i := by
  have unturned : rotationValue l 0 = patternValue l := by simp [rotationValue, rotation]
  obtain ⟨mem, le⟩ := List.min?_eq_some_iff.mp (leastRotation_min? l)
  rw [rotationValues_eq] at mem le
  refine ⟨?_, fun i hi => le _ ?_⟩
  · rcases List.mem_cons.mp mem with e | e
    · exact ⟨0, by decide, unturned.trans e.symm⟩
    · obtain ⟨j, hj, e⟩ := List.mem_map.mp e
      exact ⟨j, List.mem_range.mp hj, e⟩
  · exact List.mem_cons_of_mem _ (List.mem_map_of_mem (List.mem_range.mpr hi))

/-- The rotations that give the least value, in their order. -/
def leastTurns (l : List Bool) : List Nat :=
  (List.range 24).filter fun j => rotationValue l j == leastRotation l

theorem mem_leastTurns (l : List Bool) (j : Nat) :
    j ∈ leastTurns l ↔ j < 24 ∧ rotationValue l j = leastRotation l := by
  simp [leastTurns]

theorem leastTurns_length (l : List Bool) :
    (rotationValues l).count (leastRotation l) = (leastTurns l).length := by
  rw [rotationValues_eq, List.count, List.countP_map, List.countP_eq_length_filter]
  rfl

/-- A rotation below all others is the one place where the least value stands. -/
theorem leastTurns_eq_singleton (l : List Bool) (j : Nat) :
    leastTurns l = [j] ↔ j < 24 ∧ ∀ i < 24, i ≠ j → rotationValue l j < rotationValue l i := by
  obtain ⟨⟨k, hk, least⟩, le⟩ := leastRotation_spec l
  constructor
  · intro h
    have mem (i : Nat) : i = j ↔ i < 24 ∧ rotationValue l i = leastRotation l := by
      rw [← mem_leastTurns, h, List.mem_singleton]
    obtain ⟨hj, ej⟩ := (mem j).mp rfl
    refine ⟨hj, fun i hi ne => ?_⟩
    have ei : rotationValue l i ≠ leastRotation l := fun e => ne ((mem i).mpr ⟨hi, e⟩)
    have := le i hi
    omega
  · rintro ⟨hj, below⟩
    have ek : k = j := by
      by_contra ne
      have := below k hk ne
      have := le j hj
      omega
    subst ek
    have only : leastTurns l = (List.range 24).filter (· == k) := by
      refine List.filter_congr fun i hi => ?_
      have hi := List.mem_range.mp hi
      by_cases e : i = k
      · simp [e, least]
      · have := below i hi e
        simp [e]
        omega
    rw [only, List.filter_beq, List.count_eq_one_of_mem List.nodup_range (List.mem_range.mpr hk)]
    rfl

/-! ## The ring ID and the orientation, or SYMMETRIC (R10) -/

theorem canonical_of_singleton (l : List Bool) (j : Nat) (h : leastTurns l = [j]) :
    canonical l = .ok (BitVec.ofNat 24 (rotationValue l j), j) := by
  obtain ⟨hj, below⟩ := (leastTurns_eq_singleton l j).mp h
  have least : rotationValue l j = leastRotation l :=
    ((mem_leastTurns l j).mp (by rw [h]; exact List.mem_singleton_self j)).2
  have once : (rotationValues l).count (leastRotation l) = 1 := by rw [leastTurns_length, h]; rfl
  have index : ((rotationValues l).findIdx fun v => v == leastRotation l) = j := by
    rw [rotationValues_eq, List.findIdx_eq (by simpa using hj)]
    refine ⟨by simp [least], fun i hi => ?_⟩
    have := below i (by omega) (by omega)
    simp
    omega
  simp only [canonical, if_pos once, index, least]

theorem canonical_of_not_singleton (l : List Bool) (h : (leastTurns l).length ≠ 1) :
    canonical l = .error .symmetric := by
  rw [← leastTurns_length] at h
  simp only [canonical, if_neg h]

/-- A try finds its ring where one rotation is below all others, and there alone. -/
theorem canonical_eq_ok_iff (l : List Bool) (ring : BitVec 24) (j : Nat) :
    canonical l = .ok (ring, j) ↔
      ring = BitVec.ofNat 24 (rotationValue l j) ∧ j < 24 ∧
        ∀ i < 24, i ≠ j → rotationValue l j < rotationValue l i := by
  rw [← leastTurns_eq_singleton]
  constructor
  · intro h
    by_cases one : (leastTurns l).length = 1
    · obtain ⟨k, hk⟩ := List.length_eq_one_iff.mp one
      rw [canonical_of_singleton l k hk] at h
      obtain ⟨rfl, rfl⟩ : BitVec.ofNat 24 (rotationValue l k) = ring ∧ k = j := by simpa using h
      exact ⟨rfl, hk⟩
    · rw [canonical_of_not_singleton l one] at h
      cases h
  · rintro ⟨rfl, h⟩
    exact canonical_of_singleton l j h

/-- A try without a ring fails as SYMMETRIC, its least value standing at two rotations. -/
theorem canonical_error (l : List Bool) (reason : UnidReason) (h : canonical l = .error reason) :
    reason = .symmetric ∧ ∃ i j, i < j ∧ j < 24 ∧ rotationValue l i = rotationValue l j ∧
      ∀ m < 24, rotationValue l i ≤ rotationValue l m := by
  obtain ⟨⟨k, hk, least⟩, le⟩ := leastRotation_spec l
  have mem : k ∈ leastTurns l := (mem_leastTurns l k).mpr ⟨hk, least⟩
  have sorted : (leastTurns l).Pairwise (· < ·) := List.pairwise_lt_range.filter _
  match e : leastTurns l with
  | [] => simp [e] at mem
  | [j] => rw [canonical_of_singleton l j e] at h; cases h
  | i :: j :: rest =>
    rw [canonical_of_not_singleton l (by simp [e])] at h
    obtain ⟨-, ei⟩ := (mem_leastTurns l i).mp (by simp [e])
    obtain ⟨hj, ej⟩ := (mem_leastTurns l j).mp (by simp [e])
    rw [e] at sorted
    exact ⟨by simpa using h.symm, i, j, (List.pairwise_cons.mp sorted).1 j (by simp), hj,
      ei.trans ej.symm, fun m hm => ei ▸ le m hm⟩

/-- The ring ID is its least rotation's value, which fits its 24 bits. -/
theorem rotationValue_toNat (l : List Bool) (j : Nat) (hl : l.length = 24) :
    (BitVec.ofNat 24 (rotationValue l j)).toNat = rotationValue l j := by
  have h := patternValue_lt (rotation l j)
  rw [rotation_length, hl] at h
  exact Nat.mod_eq_of_lt h

/-- Turning the nozzle leaves the ring ID and turns the orientation. -/
theorem canonical_rotation (l : List Bool) (k : Nat) (ring : BitVec 24) (j : Nat) (hl : l.length = 24)
    (hk : k < 24) (h : canonical l = .ok (ring, j)) :
    canonical (rotation l k) = .ok (ring, (j + 24 - k) % 24) := by
  obtain ⟨rfl, hj, below⟩ := (canonical_eq_ok_iff l ring j).mp h
  have turned (i : Nat) (hi : i < 24) :
      rotationValue (rotation l k) i = rotationValue l ((i + k) % 24) :=
    congrArg patternValue (rotation_rotation l i k hl hi hk)
  have back : ((j + 24 - k) % 24 + k) % 24 = j := by omega
  refine (canonical_eq_ok_iff _ _ _).mpr ⟨?_, by omega, fun i hi ne => ?_⟩
  · rw [turned _ (by omega), back]
  · rw [turned _ (by omega), back, turned i hi]
    exact below _ (by omega) (by omega)

/-! ## Periodic patterns (R10) -/

/-- A pattern that a turn leaves, every repetition of the turn leaves. -/
theorem rotate_mul_of_rotate (l : List Bool) (d k : Nat) (h : l.rotate d = l) : l.rotate (k * d) = l := by
  induction k with
  | zero => simp
  | succ k ih => rw [Nat.succ_mul, ← List.rotate_rotate, ih, h]

/-- A pattern of 24 that half a turn leaves has an even weight. -/
theorem even_weight_of_half_turn (l : List Bool) (hl : l.length = 24) (h : l.rotate 12 = l) :
    l.countP id % 2 = 0 := by
  have halves : l.drop 12 ++ l.take 12 = l.take 12 ++ l.drop 12 := by
    rw [List.take_append_drop, ← List.rotate_eq_drop_append_take (by omega), h]
  have same : l.drop 12 = l.take 12 := (List.append_inj halves (by simp [hl])).1
  rw [← List.take_append_drop 12 l, List.countP_append, same]
  omega

/-- Repeating a turn of 1 to 23 pads comes to half a turn, unless the turn is of 8 or 16 pads. -/
theorem turn_reaches : ∀ d < 24, 0 < d → (∃ k < 24, k * d % 24 = 12) ∨ ∃ k < 24, k * d % 24 = 8 := by
  decide

/-- A pattern of weight 9 that a turn leaves repeats with a period of 8 pads, as half a turn cannot leave an
odd weight. -/
theorem rotate_eight_of_rotate (l : List Bool) (d : Nat) (hl : l.length = 24) (weight : l.countP id = 9)
    (pos : 0 < d) (hd : d < 24) (h : l.rotate d = l) : l.rotate 8 = l := by
  have reach (k m : Nat) (e : k * d % 24 = m) : l.rotate m = l := by
    rw [← e, ← hl, List.rotate_mod, rotate_mul_of_rotate l d k h]
  rcases turn_reaches d hd pos with ⟨k, -, e⟩ | ⟨k, -, e⟩
  · have := even_weight_of_half_turn l hl (reach k 12 e)
    omega
  · exact reach k 8 e

/-- Two equal rotations are a turn that leaves the pattern. -/
theorem rotate_sub_of_value_eq (l : List Bool) (i j : Nat) (hl : l.length = 24) (lt : i < j) (hj : j < 24)
    (h : rotationValue l i = rotationValue l j) : l.rotate (j - i) = l := by
  have same := patternValue_injective _ _ (by rw [rotation_length, rotation_length]) h
  rw [rotation_eq_rotate l i (by omega), rotation_eq_rotate l j (by omega)] at same
  have back := congrArg (List.rotate · (24 - i)) same
  simp only [List.rotate_rotate] at back
  rw [show i + (24 - i) = l.length by omega, List.rotate_length,
    show j + (24 - i) = l.length + (j - i) by omega, ← List.rotate_rotate, List.rotate_length] at back
  exact back.symm

/-- A SYMMETRIC pattern of weight 9 repeats with a period of 8 pads. -/
theorem rotation_eight_of_symmetric (l : List Bool) (hl : l.length = 24) (weight : l.countP id = 9)
    (h : canonical l = .error .symmetric) : rotation l 8 = l := by
  obtain ⟨-, i, j, lt, hj, same, -⟩ := canonical_error l _ h
  rw [rotation_eq_rotate l 8 (by omega)]
  exact rotate_eight_of_rotate l (j - i) hl weight (by omega) (by omega)
    (rotate_sub_of_value_eq l i j hl lt hj same)

/-! ## The end of a try that fails (R12) -/

/-- A posting neither reads nor writes the machine table. -/
theorem State.post_table (kind : EventKind) (subject : EventSubject) (value : Int) (table : MachineTable)
    (s : State) :
    State.post kind subject value { s with table } = { s.post kind subject value with table } := by
  unfold State.post
  dsimp only
  split_ifs <;> rfl

/-- A failed try starts the next one while tries remain. -/
theorem State.endTry_again (n : HoseId) (counts : List Nat) (s : State) (reason : UnidReason)
    (h : tryOutcome s.tLo s.tHi s.readers[n].baseline.toList counts = .error reason)
    (remain : s.readers[n].tryNo < s.readTries) :
    s.endTry n counts = s.setReader n
      { Reader.measuring .reading s.now s.readers[n] with tryNo := s.readers[n].tryNo + 1 } := by
  simp only [State.endTry, h, if_pos remain]

/-- The last try that fails ends the read with its reason. -/
theorem State.endTry_failed (n : HoseId) (counts : List Nat) (s : State) (reason : UnidReason)
    (h : tryOutcome s.tLo s.tHi s.readers[n].baseline.toList counts = .error reason)
    (last : s.readTries ≤ s.readers[n].tryNo) : s.endTry n counts = s.readFailed n reason := by
  simp only [State.endTry, h, if_neg (Nat.not_lt.mpr last)]

/-- The reader at the end of a read, with the read's result (R11, R12). -/
def Reader.ended (result : ReadResult) (r : Reader) : Reader := { r.waiting with last := some result }

theorem State.readFailed_eq (n : HoseId) (reason : UnidReason) (s : State) :
    s.readFailed n reason = State.post .hoseUnidentified (.hose n) reason.code
      { s with
        readers := s.readers.set n (s.readers[n].ended (.failed reason s.readers[n].tryNo))
        hoses := s.hoses.set n
          { s.hoses[n] with state := .unidentified, reason := some reason, ident := none } } := rfl

/-- No entry is looked up at the end of a try that fails: the machine table stays and has no effect. -/
theorem State.endTry_error_table (n : HoseId) (counts : List Nat) (table : MachineTable) (s : State)
    (reason : UnidReason)
    (h : tryOutcome s.tLo s.tHi s.readers[n].baseline.toList counts = .error reason) :
    State.endTry n counts { s with table } = { State.endTry n counts s with table } := by
  rcases Nat.lt_or_ge s.readers[n].tryNo s.readTries with remain | last
  · rw [State.endTry_again n counts s reason h remain,
      State.endTry_again n counts { s with table } reason h remain]
    rfl
  · rw [State.endTry_failed n counts s reason h last,
      State.endTry_failed n counts { s with table } reason h last, State.readFailed_eq,
      State.readFailed_eq, ← State.post_table]

/-- Settles O36, by where the least value stands: at one rotation, which a turn of the nozzle moves, or at two,
which make a turn that leaves the pattern. -/
theorem canonicalRotationFound : Obligations.CanonicalRotationFound := by
  unfold Obligations.CanonicalRotationFound
  refine ⟨fun bits hl => ⟨fun ring j h => ?_, fun h => ?_, fun reason h => ?_, ?_, ?_⟩,
    ⟨rfl, patternValue_cons⟩, fun n counts table s => s.endTry_error_table n counts table .symmetric⟩
  · obtain ⟨rfl, hj, below⟩ := (canonical_eq_ok_iff bits ring j).mp h
    exact ⟨hj, rotationValue_toNat bits j hl, below⟩
  · exact (canonical_error bits _ h).2
  · exact (canonical_error bits reason h).1
  · exact fun k ring j => canonical_rotation bits k ring j hl
  · exact rotation_eight_of_symmetric bits hl

end Sys2Proof.Machine
end

section
/-! The period expiry and the pad measurements of a baseline pass (01, R2 to R5). -/

namespace Sys2Proof.Machine

theorem exec_periodExpiry (n : HoseId) (due : Nat) (s : State) (h : s.readers[n].periodDue = some due) :
    exec (.periodExpiry n) s = .next ((s.reach due).readerPeriodAt due n) := by
  show execPeriodExpiry n s = _
  simp only [execPeriodExpiry, h]

theorem State.passStarts_iff (n : HoseId) (s : State) :
    s.passStarts n = true ↔ s.readers[n].state = .waiting ∧ s.pins.seat[n] = false ∧
      (s.hoses[n].state = .idle ∨ s.hoses[n].state = .finished) := by
  simp [State.passStarts, and_assoc]

theorem State.readerPeriodAt_starts (due : Nat) (n : HoseId) (s : State) (h : s.passStarts n = true) :
    s.readerPeriodAt due n = s.setReader n
      (Reader.measuring .refreshing s.now { s.readers[n] with periodDue := some (due + readerPeriod) }) := by
  simp only [State.readerPeriodAt, if_pos h]

theorem State.readerPeriodAt_waits (due : Nat) (n : HoseId) (s : State) (h : ¬ s.passStarts n = true) :
    s.readerPeriodAt due n =
      s.setReader n { s.readers[n] with periodDue := some (due + readerPeriod) } := by
  simp only [State.readerPeriodAt, if_neg h]

theorem exec_padMeasurement_refreshing (n : HoseId) (due : Nat) (count : BitVec 16) (s : State)
    (h : s.readers[n].slotDue = some due) (st : s.readers[n].state = .refreshing) :
    exec (.padMeasurement n count) s = .next ((s.reach due).passMeasured n due count.toNat) := by
  show execPadMeasurement n count s = _
  have st' : (s.reach due).readers[n].state = .refreshing := st
  simp only [execPadMeasurement, h, st']

theorem exec_padMeasurement_reading (n : HoseId) (due : Nat) (count : BitVec 16) (s : State)
    (h : s.readers[n].slotDue = some due) (st : s.readers[n].state = .reading) :
    exec (.padMeasurement n count) s = .next ((s.reach due).tryMeasured n due count.toNat) := by
  show execPadMeasurement n count s = _
  have st' : (s.reach due).readers[n].state = .reading := st
  simp only [execPadMeasurement, h, st']

/-- Every count but 0 and those of 65535 on is good (R3). -/
theorem goodCount_iff (c : Nat) : goodCount c = true ↔ ¬ (c = 0 ∨ 65535 ≤ c) := by
  simp only [goodCount, Bool.and_eq_true, decide_eq_true_eq]
  omega

theorem goodCount_toNat (count : BitVec 16) :
    goodCount count.toNat = true ↔ ¬ (count = 0 ∨ count = 65535) := by
  rw [goodCount_iff]
  bv_omega

/-- The baseline after a measurement of a pass, by the count as it comes (R5). -/
theorem baselineAfter_toNat (old : Option Nat) (count : BitVec 16) :
    baselineAfter old count.toNat =
      if count = 0 ∨ count = 65535 then old
      else match old with
        | none => some count.toNat
        | some b => some ((3 * b + count.toNat) / 4) := by
  by_cases fault : count = 0 ∨ count = 65535
  · rw [if_pos fault]
    exact if_neg (mt (goodCount_toNat count).mp (not_not.mpr fault))
  · rw [if_neg fault]
    exact if_pos ((goodCount_toNat count).mpr fault)

/-- A measurement of a pass updates the baseline of its pad, and moves the reader on (R4). -/
theorem State.passMeasured_eq (n : HoseId) (due count : Nat) (p : Fin 24) (s : State)
    (pad : s.readers[n].pad = p.val) :
    let r : Reader := { s.readers[n] with
      baseline := s.readers[n].baseline.set p (baselineAfter s.readers[n].baseline[p] count) }
    s.passMeasured n due count = s.setReader n
      (if p.val = 23 then r.waiting else { r with pad := p.val + 1, slotDue := some (due + padSlot) }) := by
  have last : 23 ≤ p.val ↔ p.val = 23 := by omega
  rw [Fin.getElem_fin] at pad
  simp only [State.passMeasured, Fin.getElem_fin, pad, dif_pos p.isLt, last]

/-- What a pad's line does by its reader's state (R1, R3). -/
theorem Reader.padDrive_eq (r : Reader) (p : Fin 24) :
    (r.state = .stopped → r.padDrive p = .undriven) ∧
    (r.state = .waiting → r.padDrive p = .discharged) ∧
    (r.state = .refreshing ∨ r.state = .reading →
      r.padDrive p = if p.val = r.pad then .measured else .discharged) := by
  unfold Reader.padDrive
  refine ⟨fun h => by rw [h], fun h => by rw [h], ?_⟩
  rintro (h | h) <;> simp only [h, eq_comm]

/-- Settles O34: the expiry by the conditions of R2, the measurement by its pad and count. -/
theorem baselinePassMeasuresPads : Obligations.BaselinePassMeasuresPads := by
  unfold Obligations.BaselinePassMeasuresPads
  refine ⟨fun n due s h => ⟨fun starts => ?_, fun starts => ?_⟩, fun n due p count s h st pad => ?_,
    fun n p s => s.readers[n].padDrive_eq p⟩
  · have starts' := ((s.reach due).passStarts_iff n).mpr starts
    rw [exec_periodExpiry n due s h, State.readerPeriodAt_starts due n _ starts']
    rfl
  · have waits := mt ((s.reach due).passStarts_iff n).mp starts
    rw [exec_periodExpiry n due s h, State.readerPeriodAt_waits due n _ waits]
    rfl
  · rw [exec_padMeasurement_refreshing n due count s h st,
      State.passMeasured_eq n due count.toNat p (s.reach due) pad, baselineAfter_toNat]
    rfl

end Sys2Proof.Machine
end

section
/-! The measurements of a read try and the end of a try (01, R7 to R12), with the lookup of a ring ID (02, R25). -/

namespace Sys2Proof.Machine

/-! ## The class of a pad and the weight of a try (R8, R9) -/

/-- A pad with a baseline, by its count (R8). -/
theorem classify_some (lo hi b count : Nat) :
    classify lo hi (some b) count =
      if count = 0 ∨ 65535 ≤ count then .unsure
      else if hi ≤ count * 256 / b then .one
      else if count * 256 / b ≤ lo then .zero
      else .unsure := by
  by_cases fault : count = 0 ∨ 65535 ≤ count
  · simp only [classify, if_pos fault, if_neg (mt (goodCount_iff count).mp (not_not.mpr fault))]
  · simp only [classify, if_neg fault, if_pos ((goodCount_iff count).mpr fault)]

theorem patternWith_true (pads : List Pad) : patternWith true pads = pads.map fun p => p != .zero :=
  List.map_congr_left fun p _ => by cases p <;> rfl

theorem patternWith_false (pads : List Pad) : patternWith false pads = pads.map fun p => p == .one :=
  List.map_congr_left fun p _ => by cases p <;> rfl

/-- The weight of a pattern: the sure ones, and the unsure pads where they are taken as ones. -/
theorem countP_patternWith (v : Bool) (pads : List Pad) :
    (patternWith v pads).countP id =
      (pads.countP fun p => p = .one) + if v then pads.countP fun p => p = .unsure else 0 := by
  induction pads with
  | nil => cases v <;> rfl
  | cons p rest ih =>
    simp only [patternWith, List.map_cons, List.countP_cons] at ih ⊢
    cases p <;> cases v <;> simp_all <;> omega

/-- The resolution of the weight: two unsure pads are not settled, one is where the weight then is nine
(R9). -/
theorem resolveWeight_cases (pads : List Pad) :
    let unsure := pads.countP fun p => p == .unsure
    let sure := pads.countP fun p => p == .one
    (2 ≤ unsure → resolveWeight pads = .error .unreadable) ∧
    (unsure = 1 → sure = 8 → resolveWeight pads = .ok (patternWith true pads)) ∧
    (unsure ≤ 1 → sure = 9 → resolveWeight pads = .ok (patternWith false pads)) ∧
    (unsure ≤ 1 → sure ≠ 9 → ¬(unsure = 1 ∧ sure = 8) → resolveWeight pads = .error .weight) := by
  intro unsure sure
  have eq : resolveWeight pads =
      if 2 ≤ unsure then .error .unreadable
      else if unsure = 1 ∧ sure = 8 then .ok (patternWith true pads)
      else if unsure = 1 ∧ sure = 9 then .ok (patternWith false pads)
      else if unsure = 0 ∧ sure = 9 then .ok (patternWith false pads)
      else .error .weight := rfl
  rw [eq]
  refine ⟨fun u => if_pos u, fun u s => ?_, fun u s => ?_, fun u s t => ?_⟩
  · rw [if_neg (by omega), if_pos ⟨u, s⟩]
  · rw [if_neg (by omega), if_neg (by omega)]
    split_ifs
    · rfl
    · rfl
    · omega
  · rw [if_neg (by omega), if_neg t, if_neg (by omega), if_neg (by omega)]

/-- A resolved pattern has its pads and a weight of nine. -/
theorem resolveWeight_ok (pads : List Pad) (bits : List Bool) (h : resolveWeight pads = .ok bits) :
    bits.length = pads.length ∧ bits.countP id = 9 := by
  have weight (v : Bool) := countP_patternWith v pads
  have length (v : Bool) : (patternWith v pads).length = pads.length := List.length_map _
  simp only [resolveWeight] at h
  split_ifs at h with _ a b c <;> cases h
  · exact ⟨length true, by rw [weight]; simp; omega⟩
  · exact ⟨length false, by rw [weight]; simp; omega⟩
  · exact ⟨length false, by rw [weight]; simp; omega⟩

/-- A try has the outcome of its pattern where its weight resolves, and fails with the weight's reason where
it does not. -/
theorem tryOutcome_cases (lo hi : Nat) (baseline : List (Option Nat)) (counts : List Nat) :
    let pads := List.zipWith (classify lo hi) baseline counts
    (∀ reason, resolveWeight pads = .error reason →
      tryOutcome lo hi baseline counts = .error reason) ∧
    (∀ bits, resolveWeight pads = .ok bits → tryOutcome lo hi baseline counts = canonical bits) := by
  have pads : (baseline.zip counts).map (fun p => classify lo hi p.1 p.2) =
      List.zipWith (classify lo hi) baseline counts := List.map_zip_eq_zipWith
  unfold tryOutcome
  rw [pads]
  exact ⟨fun reason h => by rw [h], fun bits h => by rw [h]⟩

/-! ## The lookup of a ring ID (R25) -/

theorem State.entryOfRing_none (ring : BitVec 24) (s : State) (h : ∀ q ∈ s.table.entries, q.2.ring ≠ ring) :
    s.entryOfRing ring = none := by
  simpa [State.entryOfRing, State.findEntry] using h

theorem State.entryOfRing_some (ring : BitVec 24) (slot : Nat) (e : Entry) (s : State)
    (h : s.entryOfRing ring = some (slot, e)) : (slot, e) ∈ s.table.entries ∧ e.ring = ring :=
  ⟨List.mem_of_find?_eq_some h, by simpa using List.find?_some h⟩

theorem State.ringLookup_none (ring : BitVec 24) (k : CompId) (s : State) (h : s.entryOfRing ring = none) :
    s.ringLookup ring k = .refused .unknownMachine := by
  simp only [State.ringLookup, h]

theorem State.ringLookup_objection (ring : BitVec 24) (k : CompId) (slot : Nat) (e : Entry)
    (reason : UnidReason) (s : State) (h : s.entryOfRing ring = some (slot, e))
    (against : s.objection slot e k .ring = some reason) : s.ringLookup ring k = .refused reason := by
  simp only [State.ringLookup, h, against]

theorem State.ringLookup_found (ring : BitVec 24) (k : CompId) (slot : Nat) (e : Entry) (s : State)
    (h : s.entryOfRing ring = some (slot, e)) (against : s.objection slot e k .ring = none) :
    s.ringLookup ring k =
      .found { method := .ring, slot, ring := e.ring, number := e.number, costCentre := e.costCentre }
        (s.limit slot e k .ring none) := by
  simp only [State.ringLookup, h, against]

/-! ## A measurement of a try and the try's end (R7, R11, R12) -/

theorem State.tryMeasured_kept (n : HoseId) (due count : Nat) (s : State) (h : s.readers[n].pad < 23) :
    s.tryMeasured n due count = s.setReader n { s.readers[n] with
      counts := s.readers[n].counts ++ [count]
      pad := s.readers[n].pad + 1
      slotDue := some (due + padSlot) } := by
  simp only [State.tryMeasured, if_neg (Nat.not_le.mpr h)]

theorem State.tryMeasured_last (n : HoseId) (due count : Nat) (s : State) (h : s.readers[n].pad = 23) :
    s.tryMeasured n due count = s.endTry n (s.readers[n].counts ++ [count]) := by
  simp only [State.tryMeasured, if_pos h.ge]

/-- The 24th measurement of a try is its end. -/
theorem exec_padMeasurement_last (n : HoseId) (due : Nat) (count : BitVec 16) (s : State)
    (h : s.readers[n].slotDue = some due) (st : s.readers[n].state = .reading)
    (pad : s.readers[n].pad = 23) :
    exec (.padMeasurement n count) s =
      .next ((s.reach due).endTry n (s.readers[n].counts ++ [count.toNat])) := by
  rw [exec_padMeasurement_reading n due count s h st,
    State.tryMeasured_last n due count.toNat (s.reach due) pad]
  rfl

/-- A try that finds its ring ends the read. -/
theorem State.endTry_succeeded (n : HoseId) (counts : List Nat) (ring : BitVec 24) (orientation : Nat)
    (s : State) (h : tryOutcome s.tLo s.tHi s.readers[n].baseline.toList counts = .ok (ring, orientation)) :
    s.endTry n counts = s.readSucceeded n ring orientation := by
  simp only [State.endTry, h]

theorem State.readSucceeded_found (n : HoseId) (ring : BitVec 24) (orientation : Nat) (i : Ident)
    (limit : Nat) (s : State) (h : s.ringLookup ring (s.hoseComp n) = .found i limit) :
    s.readSucceeded n ring orientation =
      (s.setReader n (s.readers[n].ended (.ring ring orientation s.readers[n].tryNo))).identified n i limit := by
  have h' (r : Reader) : (s.setReader n r).ringLookup ring ((s.setReader n r).hoseComp n) =
      .found i limit := h
  simp only [State.readSucceeded, h']
  rfl

theorem State.readSucceeded_refused (n : HoseId) (ring : BitVec 24) (orientation : Nat)
    (reason : UnidReason) (s : State) (h : s.ringLookup ring (s.hoseComp n) = .refused reason) :
    s.readSucceeded n ring orientation =
      (s.setReader n (s.readers[n].ended (.ring ring orientation s.readers[n].tryNo))).unidentified
        n reason := by
  have h' (r : Reader) : (s.setReader n r).ringLookup ring ((s.setReader n r).hoseComp n) =
      .refused reason := h
  simp only [State.readSucceeded, h']
  rfl

/-- Settles O35: a measurement by its pad, the try's end by its outcome, the lookup and the tries left. -/
theorem tryEndsAtLastPad : Obligations.TryEndsAtLastPad := by
  unfold Obligations.TryEndsAtLastPad
  refine ⟨fun n due count s h st _ => ⟨fun pad => ?_, fun ring orientation pad out => ⟨?_, ?_⟩,
      fun reason pad out => ⟨fun remain => ?_, fun last => ?_⟩⟩,
    fun lo hi count => ⟨rfl, fun b _ => classify_some lo hi b count⟩, fun pads => ?_, tryOutcome_cases,
    fun ring k s => ⟨fun absent => s.ringLookup_none ring k (s.entryOfRing_none ring absent),
      fun slot e found => ?_⟩⟩
  · rw [exec_padMeasurement_reading n due count s h st,
      State.tryMeasured_kept n due count.toNat (s.reach due) pad]
    rfl
  · intro i limit found
    rw [exec_padMeasurement_last n due count s h st pad,
      State.endTry_succeeded n _ ring orientation (s.reach due) out,
      State.readSucceeded_found n ring orientation i limit (s.reach due) found]
    rfl
  · intro reason refused
    rw [exec_padMeasurement_last n due count s h st pad,
      State.endTry_succeeded n _ ring orientation (s.reach due) out,
      State.readSucceeded_refused n ring orientation reason (s.reach due) refused]
    rfl
  · rw [exec_padMeasurement_last n due count s h st pad,
      State.endTry_again n _ (s.reach due) reason out remain, ← st]
    rfl
  · rw [exec_padMeasurement_last n due count s h st pad,
      State.endTry_failed n _ (s.reach due) reason out last]
    rfl
  · obtain ⟨two, eight, nine, other⟩ := resolveWeight_cases pads
    rw [← patternWith_true, ← patternWith_false]
    exact ⟨two, eight, nine, other, resolveWeight_ok pads⟩
  · obtain ⟨listed, rfl⟩ := s.entryOfRing_some ring slot e found
    exact ⟨listed, rfl, fun reason => s.ringLookup_objection e.ring k slot e reason found,
      s.ringLookup_found e.ring k slot e found⟩

end Sys2Proof.Machine
end

section
/-! The seat line: the start of a read, the end of a seating by the hose's state, and the entry to SETTLING
(01, R6, R7, R13; 03, R37, R42, R51; 05, R78, R83, R84). -/

namespace Sys2Proof.Machine

/-! ## Giving up a grant and a claim (R78, R83) -/

theorem Pump.giveUp_keeps (n : HoseId) (p : Pump) :
    (p.giveUp n).state = p.state ∧ (p.giveUp n).claims = p.claims ∧ (p.giveUp n).runOn = p.runOn ∧
      (p.giveUp n).spinUp = p.spinUp := by
  unfold Pump.giveUp Pump.passGrant
  split_ifs
  · dsimp only
    split <;> exact ⟨rfl, rfl, rfl, rfl⟩
  · exact ⟨rfl, rfl, rfl, rfl⟩

/-- A hose that gives up its grant or place holds neither, a queued hose holding no grant. -/
theorem Pump.giveUp_gone (n : HoseId) (p : Pump) (apart : n ∈ p.queue → p.grants[n] = false) :
    (p.giveUp n).grants[n] = false ∧ n ∉ (p.giveUp n).queue := by
  obtain ⟨alone, passed, placed⟩ := Pump.giveUp_eq n p
  cases held : p.grants[n] with
  | false => rw [placed held]; exact ⟨held, by simp⟩
  | true =>
    have absent : n ∉ p.queue := fun mem => by simp [apart mem] at held
    match e : p.queue with
    | [] => rw [alone held e]; exact ⟨by simp, by simp [e]⟩
    | m :: rest =>
      rw [e, List.mem_cons, not_or] at absent
      obtain ⟨ne, notin⟩ := absent
      have ne' : m.val ≠ n.val := fun h => ne (Fin.ext h.symm)
      rw [passed m rest held e]
      exact ⟨by simp [Vector.getElem_set_ne, ne'], notin⟩

/-- A pump that has lost a hose's grant or place and its claim. -/
def Pump.without (n : HoseId) (p : Pump) : Pump :=
  { p.giveUp n with claims := (p.giveUp n).claims.set n false }

theorem any_toList_iff (v : Vector Bool 4) : v.toList.any id = true ↔ ∃ m : HoseId, v[m] = true := by
  simp only [List.any_eq_true, Vector.mem_toList_iff, Vector.mem_iff_getElem, id]
  constructor
  · rintro ⟨_, ⟨i, hi, rfl⟩, h⟩
    exact ⟨⟨i, hi⟩, h⟩
  · rintro ⟨m, h⟩
    exact ⟨v[m], ⟨m.val, m.isLt, rfl⟩, h⟩

/-- The claims left are those of the other hoses. -/
theorem Pump.without_claims (n m : HoseId) (p : Pump) :
    (p.without n).claims[m] = if m = n then false else p.claims[m] := by
  obtain ⟨-, claims, -⟩ := Pump.giveUp_keeps n p
  by_cases e : m = n
  · subst e; simp [Pump.without]
  · have e' : n.val ≠ m.val := fun h => e (Fin.ext h.symm)
    simp [Pump.without, claims, e, e', Vector.getElem_set_ne]

/-- Whether another hose claims the pump. -/
theorem Pump.without_claims_any (n : HoseId) (p : Pump) :
    (p.without n).claims.toList.any id = true ↔ ∃ m : HoseId, m ≠ n ∧ p.claims[m] = true := by
  simp only [any_toList_iff, Pump.without_claims]
  refine exists_congr fun m => ?_
  by_cases e : m = n <;> simp [e]

/-- A pump that loses its last claim while RUNNING runs down (R78). -/
theorem State.released_runsDown (n : HoseId) (p : Pump) (s : State) (running : p.state = .running)
    (alone : ∀ m : HoseId, m ≠ n → p.claims[m] = false) : s.released n p = s.runDown (p.without n) := by
  obtain ⟨state, -⟩ := Pump.giveUp_keeps n p
  have last : ¬ (p.without n).claims.toList.any id = true := by
    rw [Pump.without_claims_any]
    simpa using alone
  unfold State.released
  dsimp only
  split
  case h_1 => exact if_neg last
  all_goals
    rename_i other
    rw [state, running] at other
    cases other

/-- Any other pump only loses the claim (R78). -/
theorem State.released_stays (n : HoseId) (p : Pump) (s : State)
    (h : p.state ≠ .running ∨ ∃ m : HoseId, m ≠ n ∧ p.claims[m] = true) :
    s.released n p = p.without n := by
  obtain ⟨state, -⟩ := Pump.giveUp_keeps n p
  rw [← Pump.without_claims_any, ← state] at h
  unfold State.released
  dsimp only
  split
  case h_1 running => exact if_pos (h.resolve_left (not_not.mpr running))
  all_goals rfl

/-- Every pump runs down at its last claim, or stays. -/
theorem State.released_cases (n : HoseId) (p : Pump) (s : State) :
    s.released n p = p.without n ∨
    (p.state = .running ∧ (∀ m : HoseId, m ≠ n → p.claims[m] = false) ∧
      s.released n p = s.runDown (p.without n)) := by
  by_cases h : p.state ≠ .running ∨ ∃ m : HoseId, m ≠ n ∧ p.claims[m] = true
  · exact Or.inl (s.released_stays n p h)
  · push Not at h
    obtain ⟨running, alone⟩ := h
    have alone : ∀ m : HoseId, m ≠ n → p.claims[m] = false := by simpa using alone
    exact Or.inr ⟨running, alone, s.released_runsDown n p running alone⟩

/-- A hose that releases its claim holds no claim, grant or place, and the others' claims stay. -/
theorem State.released_gone (n : HoseId) (p : Pump) (s : State) (apart : n ∈ p.queue → p.grants[n] = false) :
    ((s.released n p).grants[n] = false ∧ n ∉ (s.released n p).queue) ∧
    (s.released n p).claims[n] = false ∧
    ∀ m : HoseId, m ≠ n → (s.released n p).claims[m] = p.claims[m] := by
  have gone : (p.without n).grants[n] = false ∧ n ∉ (p.without n).queue := Pump.giveUp_gone n p apart
  have own : (p.without n).claims[n] = false := by rw [Pump.without_claims, if_pos rfl]
  have others (m : HoseId) (ne : m ≠ n) : (p.without n).claims[m] = p.claims[m] := by
    rw [Pump.without_claims, if_neg ne]
  rcases s.released_cases n p with e | ⟨-, alone, e⟩ <;> rw [e]
  · exact ⟨gone, own, others⟩
  · unfold State.runDown
    split_ifs
    · exact ⟨gone, own, others⟩
    · exact ⟨⟨by simp [Pump.halted], by simp [Pump.halted]⟩, by simp [Pump.halted], fun m ne => by
        rw [alone m ne]; simp [Pump.halted]⟩

/-! ## The demand selected anew (R84) -/

theorem State.reselect_pump (k j : CompId) (s : State) :
    (s.reselect k).pumps[j] =
      if j = k then { s.pumps[k] with demand := s.selectedDemand k } else s.pumps[j] :=
  s.setPump_get k j _

/-- The selection of a demand does not depend on the demand in force. -/
theorem State.selectedDemand_reselect (k j : CompId) (s : State) :
    (s.reselect k).selectedDemand j = s.selectedDemand j := by
  have pump (i : CompId) : (s.reselect k).pumps[i].state = s.pumps[i].state ∧
      (s.reselect k).pumps[i].claims = s.pumps[i].claims ∧
      (s.reselect k).pumps[i].grants = s.pumps[i].grants := by
    rw [State.reselect_pump]
    split_ifs with e
    · subst e; exact ⟨rfl, rfl, rfl⟩
    · exact ⟨rfl, rfl, rfl⟩
  have granted (n : HoseId) : (s.reselect k).granted n = s.granted n := by
    obtain ⟨-, -, grants⟩ := pump (s.hoseComp n)
    exact congrArg (fun g : Vector Bool 4 => g[n]) grants
  have asks (n : HoseId) : (s.reselect k).asksSlow n = s.asksSlow n := by
    have driven : (s.reselect k).drivenStage n = s.drivenStage n := by
      simp only [State.drivenStage, granted]
      rfl
    simp only [State.asksSlow, driven]
    rfl
  obtain ⟨state, claims, grants⟩ := pump j
  simp only [State.selectedDemand, state, claims, grants, asks]

/-! ## Entry to SETTLING (R51) -/

/-- The pump of a hose that enters SETTLING loses its claim, grant and place, and its demand is selected
anew. -/
theorem State.enterSettling_pumpOf (n : HoseId) (cause : EndCause) (s : State) :
    (s.enterSettling n cause).pumpOf n = { s.released n (s.pumpOf n) with
      demand := (s.enterSettling n cause).selectedDemand (s.hoseComp n) } := by
  obtain ⟨v, shape, own⟩ : ∃ v : State, s.enterSettling n cause = v.reselect (s.hoseComp n) ∧
      v.pumps[s.hoseComp n] = s.released n (s.pumpOf n) := ⟨_, rfl, s.setPump_same (s.hoseComp n) _⟩
  have pump := v.reselect_pump (s.hoseComp n) (s.hoseComp n)
  rw [if_pos rfl, own, ← v.selectedDemand_reselect, ← shape] at pump
  exact pump

theorem State.enterSettling_pump_other (n : HoseId) (cause : EndCause) (k : CompId) (s : State)
    (ne : k ≠ s.hoseComp n) : (s.enterSettling n cause).pumps[k] = s.pumps[k] :=
  ((State.reselect_pump _ _ _).trans (if_neg ne)).trans (s.setPump_other (s.hoseComp n) k _ ne)

/-- An entry to SETTLING changes the hoses and the pumps alone. -/
theorem State.enterSettling_eq (n : HoseId) (cause : EndCause) (s : State) :
    s.enterSettling n cause =
      { s with hoses := (s.enterSettling n cause).hoses, pumps := (s.enterSettling n cause).pumps } := rfl

theorem State.enterSettling_journal (n : HoseId) (cause : EndCause) (s : State) :
    (s.enterSettling n cause).hoses[n].journal =
      some ((s.enterSettling n cause).hoses[n].toJournal n (s.hoseComp n)) := by
  have written (u : State) : (u.writeJournal n).hoses[n].journal =
      some ((u.writeJournal n).hoses[n].toJournal n (u.hoseComp n)) := by
    have own : (u.writeJournal n).hoses[n] =
        { u.hoses[n] with journal := some (u.hoses[n].toJournal n (u.hoseComp n)) } := u.setHose_same n _
    rw [own]
    rfl
  exact written _

theorem State.drivenStage_settling (n : HoseId) (s : State) (h : s.hoses[n].state = .settling) :
    s.drivenStage n = .closed := by
  simp only [State.drivenStage, h]

/-- Giving up a grant or a place and the claim, grants and queue case by case (R83). -/
theorem Pump.without_grants (n : HoseId) (p : Pump) :
    (p.grants[n] = false →
      (p.without n).grants = p.grants ∧ (p.without n).queue = p.queue.filter fun m => m ≠ n) ∧
    (p.grants[n] = true → p.queue = [] →
      (p.without n).grants = p.grants.set n false ∧ (p.without n).queue = []) ∧
    (∀ (m : HoseId) (rest : List HoseId), p.grants[n] = true → p.queue = m :: rest →
      (p.without n).grants = (p.grants.set n false).set m true ∧ (p.without n).queue = rest) := by
  obtain ⟨alone, passed, placed⟩ := Pump.giveUp_eq n p
  unfold Pump.without
  refine ⟨fun h => ?_, fun h q => ?_, fun m rest h q => ?_⟩
  · rw [placed h]; exact ⟨rfl, rfl⟩
  · rw [alone h q]; exact ⟨rfl, q⟩
  · rw [passed m rest h q]; exact ⟨rfl, rfl⟩

/-- What an entry to SETTLING does (R51), where a hose that waits for a grant holds none (R82). -/
theorem State.enterSettling_settles (n : HoseId) (cause : EndCause) (s : State)
    (apart : n ∈ (s.pumpOf n).queue → (s.pumpOf n).grants[n] = false) :
    EntersSettling n cause s (s.enterSettling n cause) := by
  obtain ⟨context, others⟩ := s.enterSettling_hose n cause
  have pump := s.enterSettling_pumpOf n cause
  obtain ⟨state, -, runOn, spinUp⟩ := Pump.giveUp_keeps n (s.pumpOf n)
  obtain ⟨grant, claim, claims⟩ := s.released_gone n (s.pumpOf n) apart
  have settling : (s.enterSettling n cause).hoses[n].state = .settling := by rw [context]; rfl
  refine
    { state := settling
      context
      journal := s.enterSettling_journal n cause
      closed := State.drivenStage_settling n _ settling
      claim := by rw [pump]; exact claim
      claims := by rw [pump]; exact claims
      runsOn := fun running alone => ?_
      staysOn := fun stays => ?_
      demand := by rw [pump]
      grant := by rw [pump]; exact grant
      others
      pump := fun k => s.enterSettling_pump_other n cause k
      frame := s.enterSettling_eq n cause }
  · rw [pump, s.released_runsDown n _ running alone]
    unfold State.runDown
    exact ⟨fun some => by rw [if_pos some]; exact ⟨rfl, rfl⟩,
      fun none => by rw [if_neg (by omega)]; exact ⟨rfl, rfl⟩⟩
  · rw [pump, s.released_stays n _ stays]
    exact ⟨state, runOn, spinUp, Pump.without_grants n (s.pumpOf n)⟩

/-! ## Cancellation (R42) -/

/-- A posting neither reads nor writes the hoses. -/
theorem State.post_hoses (kind : EventKind) (subject : EventSubject) (value : Int)
    (hoses : Vector Hose 4) (s : State) :
    State.post kind subject value { s with hoses } = { s.post kind subject value with hoses } := by
  unfold State.post
  dsimp only
  split_ifs <;> rfl

/-- A draw neither reads nor writes the hoses. -/
theorem State.draw_hoses (hoses : Vector Hose 4) (s : State) :
    State.draw { s with hoses } = { s.draw with hoses } := by
  unfold State.draw
  dsimp only
  split_ifs
  · cases s.link.gen <;> rfl
  · rfl

/-- A subject asked for neither reads nor writes the hoses. -/
theorem State.ask_hoses (sub : Subject) (hoses : Vector Hose 4) (s : State) :
    State.ask sub { s with hoses } = { s.ask sub with hoses } := by
  unfold State.ask
  dsimp only
  split_ifs
  · rfl
  · exact State.draw_hoses hoses { s with link := { s.link with queue := s.link.queue ++ [sub] } }
  · exact State.post_hoses _ _ _ hoses s

/-- A hose comes to rest by its own lines and journal, whatever else has changed. -/
theorem State.toRest_of_same (n : HoseId) (s t : State) (hoses : t.hoses = s.hoses) (pins : t.pins = s.pins) :
    t.toRest n = { t with hoses := s.hoses.set n (s.atRest n) } := by
  unfold State.toRest State.setHose State.restState State.atRest
  rw [hoses, pins]

/-- A cancellation leaves what R42 names. -/
theorem State.cancel_eq_cancelled (n : HoseId) (s : State) : s.cancel n = s.cancelled n := by
  unfold State.cancel State.cancelled
  split_ifs
  · have rest := State.toRest_of_same n s (s.disarm n) (by simp) (by simp)
    exact rest.trans (State.ask_hoses (.machine s.hoses[n].identity.ring) (s.hoses.set n (s.atRest n))
      (s.setReserved (holderOf n) false)).symm
  · rfl

/-! ## The seat line (R6, R7, R13, R37) -/

theorem exec_seatEvent_idle (n : HoseId) (s : State) (h : s.hoses[n].state = .idle) :
    exec (.seatEvent n) s = .next ((s.setSeat n true).startRead n) :=
  congrArg Host.Outcome.next (if_pos h)

theorem exec_seatEvent_other (n : HoseId) (s : State) (h : s.hoses[n].state ≠ .idle) :
    exec (.seatEvent n) s = .next (s.setSeat n true) :=
  congrArg Host.Outcome.next (if_neg h)

/-- The reader as a read starts: no result, first try, nothing measured (R7). -/
def Reader.starting (r : Reader) : Reader := { r with last := none, tryNo := 1, pad := 0, counts := [] }

theorem State.startRead_measures (n : HoseId) (s : State)
    (h : ∀ p ∈ s.readers[n].baseline.toList, p.isSome = true) :
    s.startRead n = { s with
      hoses := s.hoses.set n { s.hoses[n] with state := .reading }
      readers := s.readers.set n
        { s.readers[n].starting with state := .reading, slotDue := some (s.now + padSlot) } } := by
  have valid : s.readers[n].baseline.toList.all Option.isSome = true := List.all_eq_true.mpr h
  unfold State.startRead
  exact if_pos valid

theorem State.startRead_fails (n : HoseId) (s : State) (h : none ∈ s.readers[n].baseline.toList) :
    s.startRead n = State.post .hoseUnidentified (.hose n) UnidReason.noBaseline.code
      { s with
        hoses := s.hoses.set n
          { s.hoses[n] with state := .unidentified, reason := some .noBaseline, ident := none }
        readers := s.readers.set n (s.readers[n].starting.ended (.failed .noBaseline 1)) } := by
  have invalid : ¬ s.readers[n].baseline.toList.all Option.isSome = true := fun valid =>
    absurd (List.all_eq_true.mp valid none h) (by decide)
  unfold State.startRead
  refine (if_neg invalid).trans ?_
  rw [State.readFailed_eq]
  simp [State.setReader, State.setHose, Reader.ended, Reader.waiting, Reader.starting]

theorem exec_unseatEvent (n : HoseId) (s : State) :
    exec (.unseatEvent n) s = .next ((s.setSeat n false).unseat n) := rfl

theorem State.unseat_stays (n : HoseId) (s : State)
    (h : s.hoses[n].state = .offline ∨ s.hoses[n].state = .idle ∨ s.hoses[n].state = .settling) :
    s.unseat n = s := by
  rcases h with h | h | h <;> simp only [State.unseat, h]

theorem State.unseat_reading (n : HoseId) (s : State) (h : s.hoses[n].state = .reading) :
    s.unseat n = (s.abandonRead n).toRest n := by
  simp only [State.unseat, h]

theorem State.unseat_cancels (n : HoseId) (s : State)
    (h : s.hoses[n].state = .identified ∨ s.hoses[n].state = .unidentified ∨ s.hoses[n].state = .armed) :
    s.unseat n = s.cancel n := by
  rcases h with h | h | h <;> simp only [State.unseat, h]

theorem State.unseat_settles (n : HoseId) (s : State)
    (h : s.hoses[n].state = .priming ∨ s.hoses[n].state = .flowing ∨ s.hoses[n].state = .paused) :
    s.unseat n = s.enterSettling n .unseated := by
  rcases h with h | h | h <;> simp only [State.unseat, h]

theorem State.unseat_finished (n : HoseId) (s : State) (h : s.hoses[n].state = .finished) :
    s.unseat n = s.toRest n := by
  simp only [State.unseat, h]

/-- A hose whose seat line is released comes to rest IDLE. -/
theorem State.toRest_unseated (n : HoseId) (s : State) (h : s.pins.seat[n] = false) :
    s.toRest n = s.setHose n (Hose.bare .idle s.hoses[n].journal) := by
  unfold State.toRest State.restState
  rw [h]
  rfl

theorem State.setSeat_same (n : HoseId) (b : Bool) (s : State) : (s.setSeat n b).pins.seat[n] = b := by
  simp [State.setSeat]

/-- Settles O29: the seat event by whether every baseline is valid, the unseat event by the hose's state, with
`State.enterSettling_settles` for a delivery that is cut off. -/
theorem seatLineActsByState : Obligations.SeatLineActsByState := by
  unfold Obligations.SeatLineActsByState
  refine ⟨fun n s => ⟨exec_seatEvent_other n s, fun idle valid => ?_, fun idle invalid => ?_⟩,
    fun n s inv => ?_⟩
  · rw [exec_seatEvent_idle n s idle, State.startRead_measures n (s.setSeat n true) valid]
    rfl
  · rw [exec_seatEvent_idle n s idle, State.startRead_fails n (s.setSeat n true) invalid]
    rfl
  · have released := s.setSeat_same n false
    refine ⟨fun st => ?_, fun st => ?_, fun st => ?_, fun st => ?_, fun st => ?_⟩ <;>
      rw [exec_unseatEvent]
    · rw [State.unseat_stays n (s.setSeat n false) st]
      rfl
    · rw [State.unseat_reading n (s.setSeat n false) st,
        State.toRest_unseated n ((s.setSeat n false).abandonRead n) released]
      rfl
    · rw [State.unseat_cancels n (s.setSeat n false) st, State.cancel_eq_cancelled]
      rfl
    · rw [State.unseat_settles n (s.setSeat n false) st]
      exact ⟨_, rfl, State.enterSettling_settles n .unseated (s.setSeat n false)
        (inv.apart (s.hoseComp n) n)⟩
    · rw [State.unseat_finished n (s.setSeat n false) st, State.toRest_unseated n _ released]
      rfl

end Sys2Proof.Machine
end

section
/-! Sparse stores as sorted lists, what a search of the machine table finds, and the entries that take another's
place (02, R16, R18, R19). -/

namespace Sys2Proof.Machine

/-! ## Sorted stores -/

theorem Sparse.rising_iff {α : Type} (m : List (Nat × α)) :
    Sparse.rising m = true ↔ m.Pairwise fun p q => p.1 < q.1 := by
  induction m with
  | nil => simp [Sparse.rising]
  | cons p rest ih => rw [Sparse.rising, Bool.and_eq_true, Sparse.above_iff, ih, List.pairwise_cons]

theorem Sparse.erase_eq_filter {α : Type} (k : Nat) (m : List (Nat × α)) :
    Sparse.erase m k = m.filter fun p => decide (p.1 ≠ k) := by
  induction m with
  | nil => rfl
  | cons p rest ih =>
    obtain ⟨i, w⟩ := p
    by_cases h : i = k <;> simp [Sparse.erase, h, ih]

theorem Sparse.mem_of_find? {α : Type} (k : Nat) (v : α) (m : List (Nat × α))
    (h : Sparse.find? m k = some v) : (k, v) ∈ m := by
  induction m with
  | nil => cases h
  | cons p rest ih =>
    obtain ⟨i, w⟩ := p
    unfold Sparse.find? at h
    split_ifs at h with e
    · cases h
      subst e
      exact List.mem_cons_self
    · exact List.mem_cons_of_mem _ (ih h)

theorem Sparse.mem_insert_self {α : Type} (k : Nat) (v : α) (m : List (Nat × α)) :
    (k, v) ∈ Sparse.insert m k v :=
  Sparse.mem_of_find? k v _ (by rw [Sparse.find?_insert, if_pos rfl])

theorem Sparse.nodup_of_rising {α : Type} (m : List (Nat × α)) (h : Sparse.rising m = true) : m.Nodup :=
  ((Sparse.rising_iff m).mp h).imp fun lt e => by rw [e] at lt; exact lt_irrefl _ lt

/-- A sorted store lists each key once. -/
theorem Sparse.eq_of_key {α : Type} (m : List (Nat × α)) (h : Sparse.rising m = true) (p q : Nat × α)
    (hp : p ∈ m) (hq : q ∈ m) (key : p.1 = q.1) : p = q := by
  have keys : (m.map Prod.fst).Nodup := by
    rw [List.Nodup, List.pairwise_map]
    exact ((Sparse.rising_iff m).mp h).imp ne_of_lt
  exact List.inj_on_of_nodup_map keys hp hq key

/-- An insertion into a sorted store replaces what its key listed. -/
theorem Sparse.mem_insert_of_rising {α : Type} (k : Nat) (v : α) (m : List (Nat × α)) (p : Nat × α)
    (h : Sparse.rising m = true) (hp : p ∈ Sparse.insert m k v) : p = (k, v) ∨ p ∈ m ∧ p.1 ≠ k := by
  by_cases e : p.1 = k
  · exact Or.inl (Sparse.eq_of_key _ (Sparse.rising_insert k v m h) p (k, v) hp
      (Sparse.mem_insert_self k v m) e)
  · rcases Sparse.mem_insert k v m p hp with rfl | mem
    · exact Or.inl rfl
    · exact Or.inr ⟨mem, e⟩

/-- A figure that no two entries share is shared by none after an insertion under another figure. -/
theorem Sparse.nodup_map_insert {α β : Type} (f : α → β) (k : Nat) (v : α) (m : List (Nat × α))
    (h : Sparse.rising m = true) (nodup : (m.map fun p => f p.2).Nodup)
    (fresh : ∀ p ∈ m, p.1 ≠ k → f p.2 ≠ f v) : ((Sparse.insert m k v).map fun p => f p.2).Nodup := by
  refine List.Nodup.map_on (fun p hp q hq same => ?_)
    (Sparse.nodup_of_rising _ (Sparse.rising_insert k v m h))
  rcases Sparse.mem_insert_of_rising k v m p h hp with rfl | ⟨memp, nep⟩ <;>
    rcases Sparse.mem_insert_of_rising k v m q h hq with rfl | ⟨memq, neq⟩
  · rfl
  · exact absurd same.symm (fresh q memq neq)
  · exact absurd same (fresh p memp nep)
  · exact List.inj_on_of_nodup_map nodup memp memq same

/-! ## Searches of the table (R18, R19, R23) -/

theorem State.findEntry_none (p : Entry → Bool) (s : State) :
    s.findEntry p = none ↔ ∀ q ∈ s.table.entries, p q.2 = false := by
  simp [State.findEntry]

theorem State.entryOfRing_eq_none (ring : BitVec 24) (s : State) :
    s.entryOfRing ring = none ↔ ∀ q ∈ s.table.entries, q.2.ring ≠ ring := by
  simp [State.entryOfRing, State.findEntry_none]

theorem State.entryOfNumber_eq_none (number : BitVec 16) (s : State) :
    s.entryOfNumber number = none ↔ ∀ q ∈ s.table.entries, q.2.number ≠ number := by
  simp [State.entryOfNumber, State.findEntry_none]

theorem State.entryOfKey_mem (key : Key) (p : Nat × Entry) (s : State) (h : s.entryOfKey key = some p) :
    p ∈ s.table.entries := by
  cases key <;> exact List.mem_of_find?_eq_some h

/-- A slot is the lowest free one when it is free and every slot below is occupied. -/
theorem State.freeSlot_eq_some (slot : Nat) (s : State) :
    s.freeSlot = some slot ↔
      slot < 256 ∧ s.entryAt slot = none ∧ ∀ j < slot, (s.entryAt j).isSome = true := by
  simp [State.freeSlot, List.find?_range_eq_some, and_left_comm]

theorem State.freeSlot_eq_none (s : State) :
    s.freeSlot = none ↔ ∀ j < 256, (s.entryAt j).isSome = true := by
  simp [State.freeSlot, Option.isSome_iff_ne_none]

/-! ## An entry that takes another's place (R16, R20) -/

theorem Entry.inRange_iff (e : Entry) :
    e.inRange = true ↔ isCanonical e.ring = true ∧ e.number ≠ 0 ∧ e.costCentre.toNat ≤ 63 ∧
      (e.permitC0 = true ∨ e.permitC1 = true) ∧ e.cap ≠ 0 ∧ ∀ t ∈ e.tally.toList, t ≤ 4294967295 := by
  simp only [Entry.inRange, Bool.and_eq_true, Bool.or_eq_true, bne_iff_ne, ne_eq, decide_eq_true_eq,
    List.all_eq_true, and_assoc]

/-- An entry amended: its two keys stay, and its fields stay in range. -/
structure Entry.Amends (e e' : Entry) : Prop where
  ring : e'.ring = e.ring
  number : e'.number = e.number
  range : e.inRange = true → e'.inRange = true

theorem Entry.Amends.trans {a b c : Entry} (h : a.Amends b) (g : b.Amends c) : a.Amends c :=
  ⟨g.ring.trans h.ring, g.number.trans h.number, g.range ∘ h.range⟩

theorem Entry.Amends.withCrc {e e' : Entry} (h : e.Amends e') : e.Amends e'.withCrc :=
  ⟨h.ring, h.number, h.range⟩

theorem Entry.amends_heard (e : Entry) (heard : Vector (Option Heard) 16) : e.Amends { e with heard } :=
  ⟨rfl, rfl, id⟩

theorem Entry.amends_state (e : Entry) (state : EntryState) : e.Amends { e with state } := ⟨rfl, rfl, id⟩

theorem Entry.amends_tally (e : Entry) (i : StationId) (v : Nat) (heard : Vector (Option Heard) 16)
    (h : v ≤ 4294967295) : e.Amends { e with tally := e.tally.set i v, heard } := by
  refine ⟨rfl, rfl, fun range => ?_⟩
  rw [Entry.inRange_iff] at range ⊢
  obtain ⟨ring, number, cost, permit, cap, tally⟩ := range
  refine ⟨ring, number, cost, permit, cap, fun t ht => ?_⟩
  rw [Vector.toList_set] at ht
  rcases List.mem_or_eq_of_mem_set ht with mem | rfl
  · exact tally t mem
  · exact h

theorem Entry.amends_newDay (e : Entry) : e.Amends e.newDay := by
  refine Entry.Amends.withCrc ⟨rfl, rfl, fun range => ?_⟩
  rw [Entry.inRange_iff] at range ⊢
  obtain ⟨ring, number, cost, permit, cap, -⟩ := range
  exact ⟨ring, number, cost, permit, cap, by simp⟩

end Sys2Proof.Machine
end

section
/-! The bodies of the table commands, an equation for each outcome (02, R18 to R22, R24). -/

namespace Sys2Proof.Machine

/-! ## PUT_MACHINE (R19, R20) -/

/-- Another entry holds the machine number of a PUT_MACHINE (R19 step 2). -/
theorem State.findEntry_double (ring : BitVec 24) (number : BitVec 16) (s : State) :
    (s.findEntry fun e => e.number == number && e.ring != ring).isSome = true ↔
      ∃ q ∈ s.table.entries, q.2.number = number ∧ q.2.ring ≠ ring := by
  simp [State.findEntry]

section
variable (ring : BitVec 24) (number : BitVec 16) (costCentre : Byte) (p : Bool × Bool) (st : EntryState)
  (allowance cap : BitVec 16) (s : State)

theorem putMachineChecked_duplicate
    (double : ∃ q ∈ s.table.entries, q.2.number = number ∧ q.2.ring ≠ ring) :
    putMachineChecked ring number costCentre p st allowance cap s = (s, Reply.refuse .duplicate) :=
  if_pos ((s.findEntry_double ring number).mpr double)

theorem putMachineChecked_replaces (slot : Nat) (e : Entry)
    (single : ¬ ∃ q ∈ s.table.entries, q.2.number = number ∧ q.2.ring ≠ ring)
    (found : s.entryOfRing ring = some (slot, e)) :
    putMachineChecked ring number costCentre p st allowance cap s =
      (s.putEntry slot
        { e with number, costCentre, permitC0 := p.1, permitC1 := p.2, state := st, allowance, cap },
        Reply.ok [u32 slot, u8 1]) := by
  refine (if_neg (mt (s.findEntry_double ring number).mp single)).trans ?_
  simp only [found]

theorem putMachineChecked_full
    (single : ¬ ∃ q ∈ s.table.entries, q.2.number = number ∧ q.2.ring ≠ ring)
    (absent : s.entryOfRing ring = none) (full : s.freeSlot = none) :
    putMachineChecked ring number costCentre p st allowance cap s = (s, Reply.refuse .tableFull) := by
  refine (if_neg (mt (s.findEntry_double ring number).mp single)).trans ?_
  simp only [absent, full]

theorem putMachineChecked_inserts (slot : Nat)
    (single : ¬ ∃ q ∈ s.table.entries, q.2.number = number ∧ q.2.ring ≠ ring)
    (absent : s.entryOfRing ring = none) (free : s.freeSlot = some slot) :
    putMachineChecked ring number costCentre p st allowance cap s =
      (s.putEntry slot (Entry.new ring number costCentre p st allowance cap),
        Reply.ok [u32 slot, u8 0]) := by
  refine (if_neg (mt (s.findEntry_double ring number).mp single)).trans ?_
  simp only [absent, free]

/-- The checks of a PUT_MACHINE on its own parameters (R19 step 1), the permitted set and the state apart. -/
def putMachineInRange : Prop :=
  isCanonical ring = true ∧ number ≠ 0 ∧ costCentre.toNat ≤ 63 ∧ cap ≠ 0

theorem putMachineInRange_iff :
    (isCanonical ring && number != 0 && decide (costCentre.toNat ≤ 63) && cap != 0) = true ↔
      putMachineInRange ring number costCentre cap := by
  simp [putMachineInRange, and_assoc]

variable (permitted : BitVec 32) (state : Byte)

theorem putMachineBody_checked (on : s.isSealed = true) (permits : permitsOf permitted = some p)
    (stands : entryStateOf state = some st) (range : putMachineInRange ring number costCentre cap) :
    putMachineBody ring number costCentre permitted state allowance cap s =
      putMachineChecked ring number costCentre p st allowance cap s := by
  rw [putMachineBody, afterSeal_sealed _ s on]
  simp only [permits, stands, if_pos ((putMachineInRange_iff ring number costCentre cap).mpr range)]

theorem putMachineBody_badParam (on : s.isSealed = true)
    (bad : permitsOf permitted = none ∨ entryStateOf state = none ∨
      ¬ putMachineInRange ring number costCentre cap) :
    putMachineBody ring number costCentre permitted state allowance cap s =
      (s, Reply.refuse .badParam) := by
  rw [putMachineBody, afterSeal_sealed _ s on]
  rcases bad with bad | bad | bad
  · simp [bad]
  · cases permitsOf permitted <;> simp [bad]
  · cases permitsOf permitted with
    | none => rfl
    | some p =>
      cases entryStateOf state with
      | none => rfl
      | some st => exact if_neg (mt (putMachineInRange_iff ring number costCentre cap).mp bad)

end

/-! ## BAR_MACHINE, UNBAR_MACHINE and REMOVE_MACHINE (R21, R22) -/

section
variable (st : EntryState) (selector : Byte) (key : BitVec 24) (s : State)

theorem setEntryStateBody_badParam (on : s.isSealed = true) (bad : entryKeyOf selector key = none) :
    setEntryStateBody st selector key s = (s, Reply.refuse .badParam) := by
  rw [setEntryStateBody, afterSeal_sealed _ s on]
  simp only [bad]

theorem setEntryStateBody_notFound (k : Key) (on : s.isSealed = true)
    (named : entryKeyOf selector key = some k) (absent : s.entryOfKey k = none) :
    setEntryStateBody st selector key s = (s, Reply.refuse .notFound) := by
  rw [setEntryStateBody, afterSeal_sealed _ s on]
  simp only [named, absent]

theorem setEntryStateBody_found (k : Key) (slot : Nat) (e : Entry) (on : s.isSealed = true)
    (named : entryKeyOf selector key = some k) (found : s.entryOfKey k = some (slot, e)) :
    setEntryStateBody st selector key s =
      (if e.state = st then s else s.putEntry slot { e with state := st },
        Reply.ok [u32 slot, u8 e.state.code]) := by
  rw [setEntryStateBody, afterSeal_sealed _ s on]
  simp only [named, found]

theorem State.slotInUse_iff (slot : Nat) :
    s.slotInUse slot = true ↔
      ∃ n : HoseId, s.hoses[n].state.holdsEntry = true ∧ s.hoses[n].serves slot = true := by
  have all (n : HoseId) : n ∈ allHoses := by revert n; decide
  simp [State.slotInUse, all]

theorem removeMachineBody_badParam (on : s.isSealed = true) (bad : entryKeyOf selector key = none) :
    removeMachineBody selector key s = (s, Reply.refuse .badParam) := by
  rw [removeMachineBody, afterSeal_sealed _ s on]
  simp only [bad]

theorem removeMachineBody_notFound (k : Key) (on : s.isSealed = true)
    (named : entryKeyOf selector key = some k) (absent : s.entryOfKey k = none) :
    removeMachineBody selector key s = (s, Reply.refuse .notFound) := by
  rw [removeMachineBody, afterSeal_sealed _ s on]
  simp only [named, absent]

/-- The table with the entry of a slot deleted (R22). -/
def State.dropEntry (slot : Nat) (s : State) : State :=
  { s with table := { s.table with entries := Sparse.erase s.table.entries slot } }

theorem removeMachineBody_found (k : Key) (slot : Nat) (e : Entry) (on : s.isSealed = true)
    (named : entryKeyOf selector key = some k) (found : s.entryOfKey k = some (slot, e)) :
    removeMachineBody selector key s =
      if s.slotInUse slot then (s, Reply.refuse .inUse) else (s.dropEntry slot, Reply.ok [u32 slot]) := by
  rw [removeMachineBody, afterSeal_sealed _ s on]
  simp only [named, found]
  rfl

end

/-! ## SET_DAY (R24) -/

/-- The part on another day: no tallies and no heard reservations, the day with its CRC. -/
def State.onDay (day : BitVec 16) (s : State) : State :=
  { s with table :=
    { entries := s.table.entries.map fun (p : Nat × Entry) => (p.1, p.2.newDay), day,
      dayCrc := crc16 (beBytes 2 day.toNat) } }

/-- The entries with an open delivery, in slot order. -/
def State.openEntries (s : State) : List (Nat × Entry) := s.table.entries.filter fun p => s.hasOpen p.1

theorem setDayBody_same (day : BitVec 16) (s : State) (on : s.isSealed = true) (same : day = s.table.day) :
    setDayBody day s = (s, Reply.ok [u16 s.table.day.toNat]) := by
  rw [setDayBody, afterSeal_sealed _ s on]
  exact if_pos same

theorem setDayBody_other (day : BitVec 16) (s : State) (on : s.isSealed = true)
    (other : day ≠ s.table.day) :
    setDayBody day s =
      ((s.onDay day).forEach s.openEntries fun (p : Nat × Entry) => State.ask (.machine p.2.ring),
        Reply.ok [u16 s.table.day.toNat]) := by
  rw [setDayBody, afterSeal_sealed _ s on]
  exact if_neg other

end Sys2Proof.Machine
end

section
/-! Which commands and events leave the machine table as it is. -/

namespace Sys2Proof.Machine

/-! ## Operations (R55, R58, R80, R167) -/

theorem State.ask_table (sub : Subject) (s : State) : (s.ask sub).table = s.table := by simp

theorem State.endWindow_table (n : HoseId) (s : State) : (s.endWindow n).table = s.table := by simp

theorem State.evaluateRestock_table (s : State) : s.evaluateRestock.table = s.table := by simp

theorem State.stopAll_table (cause : EndCause) (s : State) : (s.stopAll cause).table = s.table := by
  simp [State.stopAll, State.forEach_keep State.table]

theorem State.pumpFault_table (k : CompId) (s : State) : (s.pumpFault k).table = s.table := by
  simp [State.pumpFault, State.forEach_keep State.table]

theorem State.emergencyStop_table (s : State) : s.emergencyStop.table = s.table := by
  simp [State.emergencyStop, State.stopAll_table]

theorem State.metrologyFault_table (s : State) : s.metrologyFault.table = s.table := by
  simp [State.metrologyFault, State.stopAll_table]

theorem State.spunUp_table (k : CompId) (s : State) : (s.spunUp k).table = s.table := by
  unfold State.spunUp
  dsimp only
  split_ifs <;> simp [State.forEach_keep State.table]

theorem State.startPump_table (k : CompId) (s : State) : (s.startPump k).table = s.table := by
  unfold State.startPump
  dsimp only
  split_ifs <;> simp [State.pumpFault_table]

theorem State.startReader_table (n : HoseId) (s : State) : (s.startReader n).table = s.table := by
  simp [State.startReader]

theorem State.startRestock_table (s : State) : s.startRestock.table = s.table := by
  unfold State.startRestock
  dsimp only
  split_ifs <;> simp

theorem State.closeReceiptJournal_table (s : State) : s.closeReceiptJournal.table = s.table := by
  unfold State.closeReceiptJournal
  split <;> simp

theorem State.postLosses_table (s : State) : s.postLosses.table = s.table := by
  simp [State.postLosses, State.postLoss, State.forEach_keep State.table]

/-- Of the seal's work the journals of the hoses alone reach the table (R167). -/
theorem State.complete_table (s : State) :
    s.complete.table = (s.forEach allHoses State.closeJournal).table := by
  unfold State.complete
  extract_lets closed sealed resting reading pumping stopped metered _ sampling linked _ due
  have close : closed.table = (s.forEach allHoses State.closeJournal).table :=
    State.closeReceiptJournal_table _
  clear_value closed
  have rest : resting.table = closed.table :=
    State.forEach_keep State.table State.toRest (by simp) allHoses sealed
  clear_value resting
  have read : reading.table = resting.table :=
    State.forEach_keep State.table State.startReader State.startReader_table allHoses resting
  clear_value reading
  have pump : pumping.table = reading.table :=
    State.forEach_keep State.table State.startPump State.startPump_table allComps reading
  clear_value pumping
  have stop : stopped.table = pumping.table := by
    unfold stopped
    split_ifs
    · exact State.emergencyStop_table pumping
    · rfl
  clear_value stopped
  have link : linked.table = stopped.table := State.startRestock_table sampling
  clear_value linked
  rw [State.postLosses_table, ← close, ← rest, ← read, ← pump, ← stop, ← link]

/-! ## Bodies of the commands -/

/-- A body that leaves the machine table. -/
def KeepsTable (body : Body) : Prop := ∀ s : State, (body s).1.table = s.table

theorem KeepsTable.afterSeal {body : Body} (h : KeepsTable body) : KeepsTable (afterSeal body) := by
  intro s
  unfold Machine.afterSeal
  split_ifs
  · exact h s
  · rfl

theorem KeepsTable.beforeSeal {body : Body} (h : KeepsTable body) : KeepsTable (beforeSeal body) := by
  intro s
  unfold Machine.beforeSeal
  split_ifs
  · rfl
  · exact h s

theorem State.command_table (code tag : Byte) {body : Body} (h : KeepsTable body) (s : State) :
    ∃ t, s.command code tag body = .next t ∧ t.table = s.table :=
  ⟨_, rfl, h s.beginExchange⟩

/-- A view changes nothing. -/
theorem viewPage_state (page : Byte) (rows : List ViewRow) (s : State) : (viewPage page rows s).1 = s := by
  unfold viewPage
  dsimp only
  split_ifs <;> rfl

theorem viewPage_or (c : Prop) [Decidable c] (page : Byte) (rows : List ViewRow) (r : Reply) (s : State) :
    (if c then viewPage page rows s else (s, r)).1 = s := by
  split_ifs
  · exact viewPage_state page rows s
  · rfl

theorem setConfigBody_table (item element : Byte) (value : BitVec 32) :
    KeepsTable (setConfigBody item element value) :=
  .beforeSeal fun s => by
    dsimp only
    split_ifs <;> rfl

theorem loadProfileBody_table (profile count flag : Byte) (steps : Vector RawStep 4) :
    KeepsTable (loadProfileBody profile count flag steps) :=
  .beforeSeal fun s => by (repeat' split) <;> simp

theorem continuationBody_table (staged : Option StagedLoad) (profile count : Byte)
    (steps : Vector RawStep 4) : KeepsTable (continuationBody staged profile count steps) := fun s =>
  have continued : KeepsTable (continueLoad profile count steps) :=
    .beforeSeal fun u => by (repeat' split) <;> simp
  continued { s with staged }

theorem loadMetrologyBody_table (sect : MetroSection) : KeepsTable (loadMetrologyBody sect) := by
  refine KeepsTable.beforeSeal fun s => ?_
  split <;> rfl

/-- GET_MACHINE changes nothing (R23). -/
theorem getMachineBody_state (selector : Byte) (key : BitVec 24) (station page : Byte) (s : State) :
    (getMachineBody selector key station page s).1 = s := by
  unfold getMachineBody
  cases keyOf selector key with
  | none => rfl
  | some k =>
    by_cases range : 1 ≤ station.toNat ∧ station.toNat ≤ 16
    · simp only [if_pos range]
      cases s.entryOfKey k with
      | some p => exact viewPage_state _ _ _
      | none => exact viewPage_or _ _ _ _ _
    · simp only [if_neg range]

theorem State.authorised_table (n : HoseId) (i : Ident) (e : Entry) (requested : Nat) (s : State) :
    (s.authorised n i e requested).1.table = s.table := by
  simp [State.authorised]

theorem authoriseBody_table (hose : Byte) (preset : BitVec 32) (number : BitVec 16) :
    KeepsTable (authoriseBody hose preset number) :=
  .afterSeal fun s => by
    unfold authoriseIdentified authoriseKeyed
    dsimp only
    (repeat' split) <;> simp [State.authorised_table]

theorem stopBody_table (hose : Byte) : KeepsTable (stopBody hose) :=
  .afterSeal fun s => by split <;> simp

theorem setPresetBody_table (hose : Byte) (preset : BitVec 32) : KeepsTable (setPresetBody hose preset) :=
  .afterSeal fun s => by
    dsimp only
    (repeat' split) <;> simp [State.changePreset]

theorem getHoseBody_table (hose page : Byte) : KeepsTable (getHoseBody hose page) := fun s => by
  unfold getHoseBody
  split <;> simp only [viewPage_state]

theorem estopClearBody_table : KeepsTable estopClearBody :=
  .afterSeal fun s => by split_ifs <;> rfl

theorem readRecordBody_table (k : BitVec 32) (part drain : Byte) :
    KeepsTable (readRecordBody k part drain) := fun s => by
  unfold readRecordBody
  split_ifs <;> rfl

theorem readRecordDrainBody_table (k : BitVec 32) (part : Byte) :
    KeepsTable (readRecordDrainBody k part) := fun s => by
  unfold readRecordDrainBody
  dsimp only
  split_ifs <;> rfl

theorem setStockBody_table (comp : Byte) (book : BitVec 32) : KeepsTable (setStockBody comp book) :=
  .afterSeal fun s => by (repeat' split) <;> simp

theorem receiptBeginBody_table (comp : Byte) : KeepsTable (receiptBeginBody comp) :=
  .afterSeal fun s => by (repeat' split) <;> simp

theorem receiptEndBody_table : KeepsTable receiptEndBody :=
  .afterSeal fun s => by (repeat' split) <;> simp

theorem setParkedBody_table (value : Byte) : KeepsTable (setParkedBody value) :=
  .afterSeal fun s => by split_ifs <;> rfl

theorem getStockBody_table (page : Byte) : KeepsTable (getStockBody page) := fun s =>
  congrArg State.table (viewPage_state page s.stockRows s)

theorem getLinkBody_table (station page : Byte) : KeepsTable (getLinkBody station page) := fun s => by
  unfold getLinkBody
  split_ifs <;> simp only [viewPage_state]

theorem readEventBody_table : KeepsTable readEventBody := fun s => by
  unfold readEventBody
  dsimp only
  split <;> rfl

theorem setEventMaskBody_table (mask : BitVec 24) : KeepsTable (setEventMaskBody mask) := fun s => by
  unfold setEventMaskBody
  split_ifs <;> rfl

/-! ## Commands and events -/

/-- The commands and events that can change the machine table: the seal, by the journals it closes (R167),
the restarts (R17), the table commands, the window that closes a delivery (R31), a notice (R32) and a
reservation's expiry (R33). -/
def writesTable : Instr → Bool
  | .sealPart .. | .restart .. | .powerUp | .resetnAssertion | .putMachine .. | .barMachine ..
  | .unbarMachine .. | .removeMachine .. | .setDay .. | .windowExpiry .. | .reservationExpiry ..
  | .carrierRelease => true
  | _ => false

/-- Every other command and event leaves the table. -/
theorem exec_table (i : Instr) (s : State) (h : writesTable i = false) :
    ∃ t, exec i s = .next t ∧ t.table = s.table := by
  cases i
  case sealPart | restart | powerUp | resetnAssertion | putMachine | barMachine | unbarMachine
    | removeMachine | setDay | windowExpiry | reservationExpiry | carrierRelease => cases h
  case setConfig => exact State.command_table _ _ (setConfigBody_table _ _ _) s
  case loadProfile => exact State.command_table _ _ (loadProfileBody_table _ _ _ _) s
  case loadProfileContinuation => exact State.command_table _ _ (continuationBody_table _ _ _ _) s
  case loadMetrology => exact State.command_table _ _ (loadMetrologyBody_table _) s
  case getMachine => exact State.command_table _ _ (fun u => congrArg State.table (getMachineBody_state _ _ _ _ u)) s
  case authorise => exact State.command_table _ _ (authoriseBody_table _ _ _) s
  case stop => exact State.command_table _ _ (stopBody_table _) s
  case setPreset => exact State.command_table _ _ (setPresetBody_table _ _) s
  case getHose => exact State.command_table _ _ (getHoseBody_table _ _) s
  case estopClear => exact State.command_table _ _ estopClearBody_table s
  case readRecord => exact State.command_table _ _ (readRecordBody_table _ _ _) s
  case readRecordDrain => exact State.command_table _ _ (readRecordDrainBody_table _ _) s
  case release => exact State.command_table _ _ (fun _ => rfl) s
  case setStock => exact State.command_table _ _ (setStockBody_table _ _) s
  case receiptBegin => exact State.command_table _ _ (receiptBeginBody_table _) s
  case receiptEnd => exact State.command_table _ _ receiptEndBody_table s
  case setParked => exact State.command_table _ _ (setParkedBody_table _) s
  case getStock => exact State.command_table _ _ (getStockBody_table _) s
  case getLink => exact State.command_table _ _ (getLinkBody_table _ _) s
  case readEvent => exact State.command_table _ _ readEventBody_table s
  case setEventMask => exact State.command_table _ _ (setEventMaskBody_table _) s
  case nop | unknownCommand | exchangeCutShort | estopRelease => exact ⟨_, rfl, rfl⟩
  case unseatEvent => exact ⟨_, rfl, by simp⟩
  case seatEvent | deadmanHeld | deadmanRelease | estopAssertion | pfltAssertion | pfltRelease
    | padMeasurement | armExpiry | carrierEvent | endOfTransmission | stockSweep | scanExpiry
    | phaseLineObservation =>
    refine ⟨_, rfl, ?_⟩
    dsimp only
    (repeat' split) <;> simp [State.emergencyStop_table, State.pumpFault_table, State.metrologyFault_table]
  all_goals
    refine ⟨_, rfl, ?_⟩
    (repeat' split) <;> simp [State.spunUp_table]

end Sys2Proof.Machine
end

section
/-! The machine table keeps its invariant: no double and no field out of range (02, R16). -/

namespace Sys2Proof.Machine

/-! ## Changes of the table that keep it -/

theorem TableInv.of_table {s t : State} (inv : TableInv s) (h : t.table = s.table) : TableInv t := by
  obtain ⟨rising, slots, rings, numbers, ranges⟩ := inv
  rw [← h] at rising slots rings numbers ranges
  exact ⟨rising, slots, rings, numbers, ranges⟩

/-- An entry written whose ring ID and machine number no other slot holds. -/
theorem TableInv.insert {s t : State} (inv : TableInv s) (slot : Nat) (e : Entry) (inTable : slot < 256)
    (range : e.inRange = true) (ring : ∀ q ∈ s.table.entries, q.1 ≠ slot → q.2.ring ≠ e.ring)
    (number : ∀ q ∈ s.table.entries, q.1 ≠ slot → q.2.number ≠ e.number)
    (table : t.table.entries = Sparse.insert s.table.entries slot e) : TableInv t := by
  have mem (p : Nat × Entry) (hp : p ∈ t.table.entries) : p = (slot, e) ∨ p ∈ s.table.entries :=
    Sparse.mem_insert slot e _ p (table ▸ hp)
  refine ⟨?_, fun p hp => ?_, ?_, ?_, fun p hp => ?_⟩
  · rw [table]; exact Sparse.rising_insert slot e _ inv.rising
  · rcases mem p hp with rfl | old
    · exact inTable
    · exact inv.slots p old
  · rw [table]; exact Sparse.nodup_map_insert Entry.ring slot e _ inv.rising inv.rings ring
  · rw [table]; exact Sparse.nodup_map_insert Entry.number slot e _ inv.rising inv.numbers number
  · rcases mem p hp with rfl | old
    · exact range
    · exact inv.ranges p old

theorem TableInv.ring_other {s : State} (inv : TableInv s) {p q : Nat × Entry} (hp : p ∈ s.table.entries)
    (hq : q ∈ s.table.entries) (ne : q.1 ≠ p.1) : q.2.ring ≠ p.2.ring := fun same =>
  ne (congrArg Prod.fst (List.inj_on_of_nodup_map inv.rings hq hp same))

theorem TableInv.number_other {s : State} (inv : TableInv s) {p q : Nat × Entry}
    (hp : p ∈ s.table.entries) (hq : q ∈ s.table.entries) (ne : q.1 ≠ p.1) : q.2.number ≠ p.2.number :=
  fun same => ne (congrArg Prod.fst (List.inj_on_of_nodup_map inv.numbers hq hp same))

/-- A listed entry amended in its slot. -/
theorem TableInv.amend {s t : State} (inv : TableInv s) {slot : Nat} {e e' : Entry}
    (listed : (slot, e) ∈ s.table.entries) (amends : e.Amends e')
    (table : t.table.entries = Sparse.insert s.table.entries slot e') : TableInv t :=
  inv.insert slot e' (inv.slots (slot, e) listed) (amends.range (inv.ranges (slot, e) listed))
    (fun _ hq ne => by rw [amends.ring]; exact inv.ring_other listed hq ne)
    (fun _ hq ne => by rw [amends.number]; exact inv.number_other listed hq ne) table

theorem TableInv.writeEntry {s : State} (inv : TableInv s) (slot : Nat) (e : Entry) (inTable : slot < 256)
    (range : e.inRange = true) (ring : ∀ q ∈ s.table.entries, q.1 ≠ slot → q.2.ring ≠ e.ring)
    (number : ∀ q ∈ s.table.entries, q.1 ≠ slot → q.2.number ≠ e.number) : TableInv (s.putEntry slot e) :=
  inv.insert slot e.withCrc inTable range ring number rfl

theorem TableInv.putEntry {s : State} (inv : TableInv s) {slot : Nat} {e e' : Entry}
    (listed : (slot, e) ∈ s.table.entries) (amends : e.Amends e') : TableInv (s.putEntry slot e') :=
  inv.amend listed amends.withCrc rfl

/-- Some entries dropped, and the others amended. -/
theorem TableInv.filter_map {s t : State} (inv : TableInv s) (kept : Nat × Entry → Bool)
    (f : Entry → Entry) (amends : ∀ e : Entry, e.Amends (f e))
    (table : t.table.entries = (s.table.entries.filter kept).map fun q => (q.1, f q.2)) : TableInv t := by
  have mem (q : Nat × Entry) (hq : q ∈ t.table.entries) :
      ∃ r ∈ s.table.entries, q = (r.1, f r.2) := by
    rw [table] at hq
    obtain ⟨r, hr, rfl⟩ := List.mem_map.mp hq
    exact ⟨r, (List.mem_filter.mp hr).1, rfl⟩
  have sub : (s.table.entries.filter kept).Sublist s.table.entries := List.filter_sublist
  refine ⟨?_, fun q hq => ?_, ?_, ?_, fun q hq => ?_⟩
  · rw [table, Sparse.rising_iff, List.pairwise_map]
    exact ((Sparse.rising_iff _).mp inv.rising).sublist sub
  · obtain ⟨r, hr, rfl⟩ := mem q hq
    exact inv.slots r hr
  · rw [table, List.map_map]
    simp only [Function.comp_def, (amends _).ring]
    exact inv.rings.sublist (sub.map _)
  · rw [table, List.map_map]
    simp only [Function.comp_def, (amends _).number]
    exact inv.numbers.sublist (sub.map _)
  · obtain ⟨r, hr, rfl⟩ := mem q hq
    exact (amends r.2).range (inv.ranges r hr)

/-! ## Credit and merge (R31, R32) -/

theorem holdTally_le (x : Nat) : holdTally x ≤ 4294967295 := by
  unfold holdTally hold
  split_ifs <;> omega

theorem TableInv.credit {s : State} (inv : TableInv s) (ring : BitVec 24) (net : Int) :
    TableInv (s.credit ring net) := by
  unfold State.credit
  cases h : s.entryOfRing ring with
  | none => exact inv
  | some p =>
    obtain ⟨slot, e⟩ := p
    obtain ⟨listed, -⟩ := s.entryOfRing_some ring slot e h
    exact TableInv.of_table (inv.putEntry listed (Entry.amends_tally e s.ownIndex _ e.heard (holdTally_le _)))
      (State.ask_table _ _)

theorem TableInv.mergeMachine {s : State} (inv : TableInv s) (i : StationId) (day : BitVec 16)
    (ring : BitVec 24) (tally reserved : Nat) (h : tally ≤ 4294967295) :
    TableInv (s.mergeMachine i day ring tally reserved) := by
  unfold State.mergeMachine
  by_cases other : day ≠ s.table.day
  · rw [if_pos other]; exact inv
  · rw [if_neg other]
    cases found : s.entryOfRing ring with
    | none => exact inv
    | some p =>
      obtain ⟨slot, e⟩ := p
      obtain ⟨listed, -⟩ := s.entryOfRing_some ring slot e found
      exact inv.putEntry listed (Entry.amends_tally e i tally _ h)

theorem TableInv.closeDelivery {s : State} (inv : TableInv s) (n : HoseId) : TableInv (s.closeDelivery n) := by
  let r := s.deliveryRecord (s.hoses[n].delivery n (s.hoseComp n))
  have appended : TableInv (s.append r (some (holderOf n))) := inv.of_table (by simp)
  exact (appended.credit s.hoses[n].identity.ring r.net).of_table (by simp [State.closeDelivery, r])

/-! ## Windows that close a delivery (R46, R52, R53) -/

/-- A settling window leaves the part as it is, counts, or counts and closes the delivery (R52). -/
theorem State.settleWindow_cases (n : HoseId) (c : Int) (s : State) :
    s.settleWindow n c = s ∨
    ∃ h : Hose, s.settleWindow n c = s.setHose n h ∨
      s.settleWindow n c = (s.setHose n h).closeDelivery n := by
  unfold State.settleWindow
  extract_lets h count quiet counted
  by_cases fresh : h.settleFresh = true
  · exact Or.inl (if_pos fresh)
  · rw [if_neg fresh]
    refine Or.inr ⟨{ h with settleCount := count, quietRun := quiet }, ?_⟩
    exact (ite_eq_or_eq _ (counted.closeDelivery n) counted).symm

theorem TableInv.settleWindow {s : State} (inv : TableInv s) (n : HoseId) (c : Int) :
    TableInv (s.settleWindow n c) := by
  obtain e | ⟨h, e | e⟩ := s.settleWindow_cases n c <;> rw [e]
  · exact inv
  · exact inv.of_table (by simp)
  · exact TableInv.closeDelivery (inv.of_table (by simp)) n

theorem TableInv.stateWork {s : State} (inv : TableInv s) (n : HoseId) (w : Window) (st : HoseState) :
    TableInv (s.stateWork n w st) := by
  unfold State.stateWork
  cases st
  case settling => exact TableInv.settleWindow (inv.of_table (by simp)) n w.count
  all_goals exact inv.of_table (by simp)

theorem TableInv.deliveryWindow {s : State} (inv : TableInv s) (n : HoseId) (w : Window) :
    TableInv (s.deliveryWindow n w) := by
  have counted : TableInv (s.setHose n (s.windowContext n w)) := inv.of_table (by simp)
  unfold State.deliveryWindow
  refine TableInv.of_table ?_ (State.endWindow_table n _)
  split
  · exact counted.stateWork n w _
  · exact counted.of_table (by simp)
  · exact counted.stateWork n w _

theorem TableInv.account {s : State} (inv : TableInv s) (m : MeterId) (w : Window) :
    TableInv (s.account m w) := by
  unfold State.account
  split
  · exact inv.of_table (by simp)
  · exact inv.deliveryWindow _ w
  · exact inv
  · exact inv.of_table (by simp)

theorem TableInv.closeJournal {s : State} (inv : TableInv s) (n : HoseId) : TableInv (s.closeJournal n) := by
  unfold State.closeJournal
  split
  · exact inv
  · rename_i j _
    let r := s.deliveryRecord (j.delivery n (s.hoseComp n))
    have appended : TableInv (s.append r (some (holderOf n))) := inv.of_table (by simp)
    exact (appended.credit (j.delivery n (s.hoseComp n)).ring r.net).of_table (by simp [r])

/-! ## The seal (R167) -/

theorem TableInv.complete {s : State} (inv : TableInv s) : TableInv s.complete :=
  TableInv.of_table
    (State.forEach_keeps TableInv allHoses State.closeJournal s (fun n _ _ inv => inv.closeJournal n) inv)
    s.complete_table

/-! ## Notices (R154 to R158) -/

theorem ofBytes_lt (l : List Byte) : ofBytes l < 256 ^ l.length := by
  induction l using List.reverseRecOn with
  | nil => decide
  | append_singleton l b ih =>
    rw [ofBytes_append, List.length_append, List.length_singleton, pow_succ]
    have := b.isLt
    omega

theorem fieldAt_lt (l : List Byte) (i n : Nat) : fieldAt l i n < 256 ^ n :=
  (ofBytes_lt _).trans_le (Nat.pow_le_pow_right (by decide) (List.length_take_le n _))

/-- A notice's tally in the range of R16, where it has one. -/
def NoticeBody.fits (body : NoticeBody) : Prop :=
  ∀ day ring tally reserved, body = .machine day ring tally reserved → tally ≤ 4294967295

/-- A frame's tally has 4 bytes. -/
theorem noticeBody_fits (l : List Byte) (body : NoticeBody) (h : noticeBody l = some body) : body.fits := by
  rintro day ring tally reserved rfl
  have := fieldAt_lt l 12 4
  unfold noticeBody at h
  dsimp only at h
  split_ifs at h
  · cases h
    omega
  · cases h

theorem TableInv.dispatchNotice {s : State} (inv : TableInv s) (i : StationId) (body : NoticeBody)
    (fits : body.fits) : TableInv (s.dispatchNotice i body) := by
  cases body with
  | machine day ring tally reserved => exact inv.mergeMachine i day ring tally reserved (fits _ _ _ _ rfl)
  | stock x => exact inv.of_table (State.evaluateRestock_table s)

theorem TableInv.peerNotice {s : State} (inv : TableInv s) (x : Notice) (fits : x.body.fits) :
    TableInv (s.peerNotice x) := by
  unfold State.peerNotice
  dsimp only
  split_ifs
  · refine TableInv.dispatchNotice ?_ _ x.body fits
    exact inv.of_table rfl
  · exact inv.of_table rfl

theorem TableInv.notice {s : State} (inv : TableInv s) (x : Notice) (fits : x.body.fits) :
    TableInv (s.notice x) := by
  unfold State.notice
  split_ifs
  · exact inv.of_table (by simp)
  · exact inv.peerNotice x fits

theorem State.acceptNotice_body (l : List Byte) (x : Notice) (s : State)
    (h : s.acceptNotice l = some x) : noticeBody l = some x.body := by
  unfold State.acceptNotice at h
  cases body : noticeBody l with
  | none => simp [body] at h
  | some b =>
    simp only [body] at h
    split_ifs at h
    cases h
    rfl

theorem TableInv.checkFrame {s : State} (inv : TableInv s) (f : RxFrame) : TableInv (s.checkFrame f) := by
  unfold State.checkFrame
  split_ifs
  · exact inv
  · split
    · exact inv.of_table rfl
    · rename_i x accepted
      exact inv.notice x (noticeBody_fits _ _ (s.acceptNotice_body _ x accepted))
  · exact inv.of_table rfl

theorem TableInv.completeFrame {s : State} (inv : TableInv s) : TableInv s.completeFrame := by
  unfold State.completeFrame
  split
  · exact inv
  · exact TableInv.checkFrame (s := { s with link := { s.link with rx := none } }) (inv.of_table rfl) _

/-! ## The restart (R17) -/

/-- The table at a restart: the entries that fail are dropped, the others amended. -/
theorem MachineTable.startUp_entries (t : MachineTable) :
    ∃ f : Entry → Entry, (∀ e : Entry, e.Amends (f e)) ∧
      t.startUp.1.entries = (t.entries.filter fun p => p.2.passes).map fun p => (p.1, f p.2) := by
  have kept (e : Entry) := e.amends_heard (Vector.replicate 16 none)
  unfold MachineTable.startUp
  dsimp only
  split_ifs
  · exact ⟨_, kept, rfl⟩
  · exact ⟨_, fun e => (kept e).trans (Entry.amends_newDay _), List.map_map⟩

theorem TableInv.restart {s : State} (inv : TableInv s) (cause : Byte) : TableInv (s.restart cause) := by
  obtain ⟨f, amends, table⟩ := s.table.startUp_entries
  exact inv.filter_map _ f amends table

/-! ## The table commands (R18 to R24) -/

theorem permitsOf_some (x : BitVec 32) (p : Bool × Bool) (h : permitsOf x = some p) :
    p.1 = true ∨ p.2 = true := by
  unfold permitsOf at h
  split at h <;> cases h <;> simp

theorem TableInv.putMachineChecked {s : State} (inv : TableInv s) (ring : BitVec 24) (number : BitVec 16)
    (costCentre : Byte) (p : Bool × Bool) (st : EntryState) (allowance cap : BitVec 16)
    (permits : p.1 = true ∨ p.2 = true) (range : putMachineInRange ring number costCentre cap) :
    TableInv (putMachineChecked ring number costCentre p st allowance cap s).1 := by
  obtain ⟨canon, number0, cost, cap0⟩ := range
  by_cases double : ∃ q ∈ s.table.entries, q.2.number = number ∧ q.2.ring ≠ ring
  · rw [putMachineChecked_duplicate _ _ _ _ _ _ _ s double]
    exact inv
  have own (q : Nat × Entry) (hq : q ∈ s.table.entries) (ne : q.2.ring ≠ ring) : q.2.number ≠ number :=
    fun same => double ⟨q, hq, same, ne⟩
  cases found : s.entryOfRing ring with
  | some q =>
    obtain ⟨slot, e⟩ := q
    obtain ⟨listed, rfl⟩ := s.entryOfRing_some ring slot e found
    have other (q : Nat × Entry) (hq : q ∈ s.table.entries) (ne : q.1 ≠ slot) : q.2.ring ≠ e.ring :=
      inv.ring_other listed hq ne
    obtain ⟨-, -, -, -, -, tally⟩ := (Entry.inRange_iff e).mp (inv.ranges (slot, e) listed)
    rw [putMachineChecked_replaces _ _ _ _ _ _ _ s slot e double found]
    refine inv.writeEntry slot _ (inv.slots (slot, e) listed) ?_ other
      (fun q hq ne => own q hq (other q hq ne))
    exact (Entry.inRange_iff _).mpr ⟨canon, number0, cost, permits, cap0, tally⟩
  | none =>
    have absent := (s.entryOfRing_eq_none ring).mp found
    cases free : s.freeSlot with
    | none =>
      rw [putMachineChecked_full _ _ _ _ _ _ _ s double found free]
      exact inv
    | some slot =>
      obtain ⟨inTable, -⟩ := (s.freeSlot_eq_some slot).mp free
      rw [putMachineChecked_inserts _ _ _ _ _ _ _ s slot double found free]
      refine inv.writeEntry slot _ inTable ?_ (fun q hq _ => absent q hq)
        (fun q hq _ => own q hq (absent q hq))
      exact (Entry.inRange_iff _).mpr ⟨canon, number0, cost, permits, cap0, by simp [Entry.new]⟩

/-- A command of the phase "after" keeps TableInv if it does on a sealed part. -/
theorem TableInv.afterSeal {s : State} (inv : TableInv s) (body : Body)
    (h : s.isSealed = true → TableInv (afterSeal body s).1) : TableInv (afterSeal body s).1 := by
  cases on : s.isSealed with
  | true => exact h on
  | false =>
    rw [afterSeal_unsealed body s on]
    exact inv

theorem TableInv.putMachineBody {s : State} (inv : TableInv s) (ring : BitVec 24) (number : BitVec 16)
    (costCentre : Byte) (permitted : BitVec 32) (state : Byte) (allowance cap : BitVec 16) :
    TableInv (putMachineBody ring number costCentre permitted state allowance cap s).1 := by
  refine inv.afterSeal _ fun on => ?_
  show TableInv (Machine.putMachineBody ring number costCentre permitted state allowance cap s).1
  have bad (h : permitsOf permitted = none ∨ entryStateOf state = none ∨
      ¬ putMachineInRange ring number costCentre cap) :
      TableInv (Machine.putMachineBody ring number costCentre permitted state allowance cap s).1 := by
    rw [putMachineBody_badParam _ _ _ _ _ s _ _ on h]
    exact inv
  cases permits : permitsOf permitted with
  | none => exact bad (Or.inl permits)
  | some p =>
    cases stands : entryStateOf state with
    | none => exact bad (Or.inr (Or.inl stands))
    | some st =>
      by_cases range : putMachineInRange ring number costCentre cap
      · rw [putMachineBody_checked ring number costCentre p st allowance cap s permitted state on permits
          stands range]
        exact inv.putMachineChecked ring number costCentre p st allowance cap
          (permitsOf_some permitted p permits) range
      · exact bad (Or.inr (Or.inr range))

theorem TableInv.setEntryStateBody {s : State} (inv : TableInv s) (st : EntryState) (selector : Byte)
    (key : BitVec 24) : TableInv (setEntryStateBody st selector key s).1 := by
  refine inv.afterSeal _ fun on => ?_
  show TableInv (Machine.setEntryStateBody st selector key s).1
  cases named : entryKeyOf selector key with
  | none => rw [setEntryStateBody_badParam st selector key s on named]; exact inv
  | some k =>
    cases found : s.entryOfKey k with
    | none => rw [setEntryStateBody_notFound st selector key s k on named found]; exact inv
    | some p =>
      obtain ⟨slot, e⟩ := p
      rw [setEntryStateBody_found st selector key s k slot e on named found]
      dsimp only
      split_ifs
      · exact inv
      · exact inv.putEntry (s.entryOfKey_mem k _ found) (e.amends_state st)

theorem TableInv.dropEntry {s : State} (inv : TableInv s) (slot : Nat) : TableInv (s.dropEntry slot) :=
  inv.filter_map (fun p => decide (p.1 ≠ slot)) id (fun _ => ⟨rfl, rfl, id⟩)
    ((Sparse.erase_eq_filter slot _).trans (List.map_id _).symm)

theorem TableInv.removeMachineBody {s : State} (inv : TableInv s) (selector : Byte) (key : BitVec 24) :
    TableInv (removeMachineBody selector key s).1 := by
  refine inv.afterSeal _ fun on => ?_
  show TableInv (Machine.removeMachineBody selector key s).1
  cases named : entryKeyOf selector key with
  | none => rw [removeMachineBody_badParam selector key s on named]; exact inv
  | some k =>
    cases found : s.entryOfKey k with
    | none => rw [removeMachineBody_notFound selector key s k on named found]; exact inv
    | some p =>
      obtain ⟨slot, e⟩ := p
      rw [removeMachineBody_found selector key s k slot e on named found]
      split_ifs
      · exact inv
      · exact inv.dropEntry slot

theorem TableInv.onDay {s : State} (inv : TableInv s) (day : BitVec 16) : TableInv (s.onDay day) :=
  inv.filter_map (fun _ => true) Entry.newDay Entry.amends_newDay (by rw [List.filter_true]; rfl)

theorem TableInv.setDayBody {s : State} (inv : TableInv s) (day : BitVec 16) :
    TableInv (setDayBody day s).1 := by
  refine inv.afterSeal _ fun on => ?_
  show TableInv (Machine.setDayBody day s).1
  by_cases same : day = s.table.day
  · rw [setDayBody_same day s on same]
    exact inv
  · rw [setDayBody_other day s on same]
    exact State.forEach_keeps TableInv _ _ _ (fun p _ u inv => inv.of_table (State.ask_table _ u))
      (inv.onDay day)

/-- SEAL completes the seal or changes nothing (R166, R167). -/
theorem sealBody_state (s : State) : (sealBody s).1 = s ∨ (sealBody s).1 = s.complete := by
  unfold sealBody
  cases on : s.isSealed with
  | true =>
    rw [beforeSeal_sealed _ s on]
    exact Or.inl rfl
  | false =>
    rw [beforeSeal_unsealed _ s on]
    generalize s.firstFailing = failing
    generalize s.complete = done
    cases failing with
    | some i => exact Or.inl rfl
    | none =>
      by_cases same : s.metro.issued = some s.metro.crc
      · simp only [if_pos same, or_true]
      · simp only [if_neg same, true_or]

theorem TableInv.sealBody {s : State} (inv : TableInv s) : TableInv (sealBody s).1 := by
  rcases sealBody_state s with e | e <;> rw [e]
  · exact inv
  · exact inv.complete

/-! ## Every step -/

/-- A command keeps TableInv if its body does. -/
theorem TableInv.command {s t : State} (inv : TableInv s) {code tag : Byte} {body : Body}
    (keeps : ∀ u : State, TableInv u → TableInv (body u).1) (h : s.command code tag body = .next t) :
    TableInv t := by
  cases h
  exact (keeps s.beginExchange (inv.of_table rfl)).of_table rfl

theorem TableInv.windowExpiry {s t : State} (inv : TableInv s) (m : MeterId)
    (h : execWindowExpiry m s = .next t) : TableInv t := by
  cases h
  split
  · exact inv
  · rename_i due _
    have armed : TableInv ((s.reach due).applyArmed m) := inv.of_table (by simp)
    let w := ((s.reach due).applyArmed m).windowOf m
    have noted : TableInv (((s.reach due).applyArmed m).noteRate m w.rate) := armed.of_table (by simp)
    exact (noted.account m w).of_table (by simp [w])

theorem TableInv.reservationExpiry {s t : State} (inv : TableInv s) (slot : SlotId) (station : StationId)
    (h : execReservationExpiry slot station s = .next t) : TableInv t := by
  cases h
  split
  · exact inv
  · rename_i e listed
    split
    · exact inv
    · exact inv.amend (Sparse.mem_of_find? _ _ _ listed) (e.amends_heard _) rfl

theorem TableInv.carrierRelease {s t : State} (inv : TableInv s) (h : execCarrierRelease s = .next t) :
    TableInv t := by
  cases h
  dsimp only
  split_ifs
  · have complete : TableInv (State.completeFrame { s with pins := { s.pins with lcd := false } }) :=
      TableInv.completeFrame (inv.of_table rfl)
    exact complete.of_table (by simp)
  · exact inv.of_table rfl

theorem TableInv.exec {i : Instr} {s t : State} (inv : TableInv s) (h : exec i s = .next t) : TableInv t := by
  cases writes : writesTable i with
  | false =>
    obtain ⟨u, step, table⟩ := exec_table i s writes
    cases step.symm.trans h
    exact inv.of_table table
  | true =>
    cases i
    case sealPart => exact inv.command (fun _ inv => inv.sealBody) h
    case putMachine => exact inv.command (fun _ inv => inv.putMachineBody _ _ _ _ _ _ _) h
    case barMachine => exact inv.command (fun _ inv => inv.setEntryStateBody _ _ _) h
    case unbarMachine => exact inv.command (fun _ inv => inv.setEntryStateBody _ _ _) h
    case removeMachine => exact inv.command (fun _ inv => inv.removeMachineBody _ _) h
    case setDay => exact inv.command (fun _ inv => inv.setDayBody _) h
    case restart => cases h; exact TableInv.restart (s := s.beginExchange) (inv.of_table rfl) 2
    case powerUp => cases h; exact inv.restart 0
    case resetnAssertion => cases h; exact inv.restart 1
    case windowExpiry m => exact inv.windowExpiry m h
    case reservationExpiry slot station => exact inv.reservationExpiry slot station h
    case carrierRelease => exact inv.carrierRelease h
    all_goals cases writes

/-- Settles O12: a step is idle or executes the front of the queue, which keeps TableInv. -/
theorem tableInvKept : Obligations.TableInvKept := by
  unfold Obligations.TableInvKept
  intro s t inv h
  unfold step at h
  split at h
  · cases h
    exact inv.of_table (by unfold State.idle; split_ifs <;> rfl)
  · rename_i c rest _
    exact TableInv.exec (s := { s with pending := rest }) (inv.of_table rfl) h

end Sys2Proof.Machine
end

section
/-! The table commands at the port (02, R18 to R22, R24), from the equations of their bodies. -/

namespace Sys2Proof.Machine

/-! ## Answers -/

/-- A body that answers OK leaves its state with the packed results held. -/
theorem State.command_ok (code tag : Byte) (body : Body) (fields : List Field) (u s : State)
    (h : body s.beginExchange = (u, Reply.ok fields)) :
    s.command code tag body = .next (u.holding (replyBytes code tag 0 (packFields u.free 0 fields))) := by
  rw [State.command_eq, h]
  rfl

/-- The answer of a slot number alone (R172). -/
theorem packFields_slot (free slot : Nat) (h : slot < 256) :
    packFields free 0 [u32 slot] = beBytes 4 slot := by
  simp [packFields, u32_bytes free 0 slot (by omega)]

/-- The answer of a slot number and a byte (R172). -/
theorem packFields_slot_byte (free slot v : Nat) (h : slot < 256) (hv : v < 256) :
    packFields free 0 [u32 slot, u8 v] = beBytes 4 slot ++ [BitVec.ofNat 8 v] := by
  simp [packFields, u32_bytes free 0 slot (by omega), u8_bytes free 1 v hv]

theorem EntryState.code_lt (st : EntryState) : st.code < 256 := by cases st <;> decide

/-! ## PUT_MACHINE (R19, R20) -/

theorem permitsOf_eq_none (x : BitVec 32) :
    permitsOf x = none ↔ ¬ (1 ≤ x.toNat ∧ x.toNat ≤ 3) := by
  unfold permitsOf
  split <;> simp_all
  omega

theorem entryStateOf_eq_none (b : Byte) : entryStateOf b = none ↔ ¬ b.toNat ≤ 1 := by
  unfold entryStateOf
  split <;> simp_all
  omega

/-- A command that writes a slot's entry and answers the slot and a byte. -/
theorem State.command_putEntry (code tag : Byte) (body : Body) (slot v : Nat) (e : Entry) (s : State)
    (inTable : slot < 256) (hv : v < 256)
    (h : body s.beginExchange = (s.beginExchange.putEntry slot e, Reply.ok [u32 slot, u8 v])) :
    ∃ entries, s.command code tag body = .next
        (({ s.beginExchange with table := { s.table with entries } }).holding
          (replyBytes code tag 0 (beBytes 4 slot ++ [BitVec.ofNat 8 v]))) ∧
      ∀ j, Sparse.find? entries j = if j = slot then some e.withCrc else s.entryAt j := by
  refine ⟨Sparse.insert s.table.entries slot e.withCrc, ?_, fun j => Sparse.find?_insert _ slot j _⟩
  rw [State.command_ok code tag body _ _ s h, packFields_slot_byte _ slot v inTable hv]
  rfl

section
variable (tag : Byte) (ring : BitVec 24) (number : BitVec 16) (costCentre : Byte) (permitted : BitVec 32)
  (state : Byte) (allowance cap : BitVec 16) (s : State)

/-- A PUT_MACHINE in range answers as its checks on the table do. -/
theorem exec_putMachine_refuses (p : Bool × Bool) (st : EntryState) (status : Status)
    (on : s.isSealed = true) (permits : permitsOf permitted = some p)
    (stands : entryStateOf state = some st) (range : putMachineInRange ring number costCentre cap)
    (refuses : putMachineChecked ring number costCentre p st allowance cap s.beginExchange =
      (s.beginExchange, Reply.refuse status)) :
    exec (.putMachine tag ring number costCentre permitted state allowance cap) s =
      .next (s.refusing 0x10 tag status) :=
  State.command_refuse 0x10 tag _ status s ((putMachineBody_checked ring number costCentre p st allowance
    cap s.beginExchange permitted state on permits stands range).trans refuses)

theorem exec_putMachine_badParam (on : s.isSealed = true)
    (bad : permitsOf permitted = none ∨ entryStateOf state = none ∨
      ¬ putMachineInRange ring number costCentre cap) :
    exec (.putMachine tag ring number costCentre permitted state allowance cap) s =
      .next (s.refusing 0x10 tag .badParam) :=
  State.command_refuse 0x10 tag _ .badParam s (putMachineBody_badParam ring number costCentre allowance cap
    s.beginExchange permitted state on bad)

end

/-! ## The selector and the key (R18) -/

theorem entryKeyOf_ring (selector : Byte) (key : BitVec 24) (h : selector = 0) :
    entryKeyOf selector key = some (.byRing key) := by
  subst h
  rfl

theorem entryKeyOf_one (key : BitVec 24) :
    entryKeyOf 1 key =
      if 1 ≤ key.toNat ∧ key.toNat ≤ 65535 then some (.byNumber (key.setWidth 16)) else none := rfl

theorem entryKeyOf_number (selector : Byte) (key : BitVec 24) (h : selector = 1) (low : 1 ≤ key.toNat)
    (high : key.toNat ≤ 65535) : entryKeyOf selector key = some (.byNumber (key.setWidth 16)) := by
  rw [h, entryKeyOf_one, if_pos ⟨low, high⟩]

theorem entryKeyOf_none (selector : Byte) (key : BitVec 24)
    (h : 2 ≤ selector.toNat ∨ selector = 1 ∧ (key = 0 ∨ 65535 < key.toNat)) :
    entryKeyOf selector key = none := by
  rcases h with other | ⟨rfl, bad⟩
  · unfold entryKeyOf
    split_ifs with search
    · rfl
    · have : selector.toNat ≠ 2 := fun e => search (BitVec.eq_of_toNat_eq e)
      unfold keyOf
      split
      · omega
      · omega
      · omega
      · rfl
  · rw [entryKeyOf_one, if_neg]
    rintro ⟨low, high⟩
    rcases bad with rfl | bad
    · exact absurd low (by decide)
    · omega

/-! ## BAR_MACHINE, UNBAR_MACHINE and REMOVE_MACHINE (R21, R22) -/

/-- What BAR_MACHINE and UNBAR_MACHINE do to the entry a key names (R21). -/
theorem command_setEntryState (code tag : Byte) (st : EntryState) (selector : Byte) (key : BitVec 24)
    (k : Key) (s : State) (on : s.isSealed = true) (named : entryKeyOf selector key = some k) :
    (s.entryOfKey k = none → s.command code tag (setEntryStateBody st selector key) =
      .next (s.refusing code tag .notFound)) ∧
    ∀ (slot : Nat) (e : Entry), slot < 256 → s.entryOfKey k = some (slot, e) →
      let reply := replyBytes code tag 0 (beBytes 4 slot ++ [BitVec.ofNat 8 e.state.code])
      (e.state = st → s.command code tag (setEntryStateBody st selector key) =
        .next (s.beginExchange.holding reply)) ∧
      (e.state ≠ st → ∃ entries,
        s.command code tag (setEntryStateBody st selector key) = .next
          (({ s.beginExchange with table := { s.table with entries } }).holding reply) ∧
        ∀ j, Sparse.find? entries j =
          if j = slot then some ({ e with state := st }).withCrc else s.entryAt j) := by
  refine ⟨fun absent => State.command_refuse code tag _ .notFound s
      (setEntryStateBody_notFound st selector key s.beginExchange k on named absent),
    fun slot e inTable found => ?_⟩
  have body := setEntryStateBody_found st selector key s.beginExchange k slot e on named found
  refine ⟨fun same => ?_, fun other => ?_⟩
  · rw [if_pos same] at body
    rw [State.command_ok code tag _ _ _ s body, packFields_slot_byte _ slot _ inTable e.state.code_lt]
  · rw [if_neg other] at body
    exact State.command_putEntry code tag _ slot _ _ s inTable e.state.code_lt body

/-- What REMOVE_MACHINE does to the entry a key names (R22). -/
theorem exec_removeMachine (tag selector : Byte) (key : BitVec 24) (k : Key) (s : State)
    (on : s.isSealed = true) (named : entryKeyOf selector key = some k) :
    (s.entryOfKey k = none →
      exec (.removeMachine tag selector key) s = .next (s.refusing 0x13 tag .notFound)) ∧
    ∀ (slot : Nat) (e : Entry), slot < 256 → s.entryOfKey k = some (slot, e) →
      (s.slotInUse slot = true →
        exec (.removeMachine tag selector key) s = .next (s.refusing 0x13 tag .inUse)) ∧
      (¬ s.slotInUse slot = true →
        exec (.removeMachine tag selector key) s = .next
          ((s.beginExchange.dropEntry slot).holding (replyBytes 0x13 tag 0 (beBytes 4 slot)))) := by
  refine ⟨fun absent => State.command_refuse 0x13 tag _ .notFound s
      (removeMachineBody_notFound selector key s.beginExchange k on named absent),
    fun slot e inTable found => ?_⟩
  have body := removeMachineBody_found selector key s.beginExchange k slot e on named found
  refine ⟨fun used => ?_, fun free => ?_⟩
  · exact State.command_refuse 0x13 tag _ .inUse s (body.trans (if_pos used))
  · refine (State.command_ok 0x13 tag _ _ _ s (body.trans (if_neg free))).trans ?_
    rw [packFields_slot _ slot inTable]

/-- Settles O22, command by command: where the entry is found and what the command answers. -/
theorem tableCommandsActOnEntry : Obligations.TableCommandsActOnEntry := by
  unfold Obligations.TableCommandsActOnEntry
  refine ⟨?_, ?_, ?_, ?_, ?_⟩
  · intro tag ring number costCentre permitted state allowance cap p st s on permits stands canon number0
      cost cap0 own puts
    have single : ¬ ∃ q ∈ s.table.entries, q.2.number = number ∧ q.2.ring ≠ ring :=
      fun ⟨q, hq, same, ne⟩ => ne (own q hq same)
    have checked := putMachineBody_checked ring number costCentre p st allowance cap s.beginExchange
      permitted state on permits stands ⟨canon, number0, cost, cap0⟩
    refine ⟨fun slot e inTable found => ?_, fun slot absent inTable free below => ?_⟩
    · exact State.command_putEntry 0x10 tag _ slot 1 _ s inTable (by decide) (checked.trans
        (putMachineChecked_replaces ring number costCentre p st allowance cap s.beginExchange slot e single
          found))
    · exact State.command_putEntry 0x10 tag _ slot 0 _ s inTable (by decide) (checked.trans
        (putMachineChecked_inserts ring number costCentre p st allowance cap s.beginExchange slot single
          absent ((s.freeSlot_eq_some slot).mpr ⟨inTable, free, below⟩)))
  · exact fun tag selector key k s on named =>
      ⟨command_setEntryState 0x11 tag .barred selector key k s on named,
        command_setEntryState 0x12 tag .active selector key k s on named⟩
  · intro tag selector key s on
    refine ⟨entryKeyOf_ring selector key, entryKeyOf_number selector key, fun bad => ?_,
      fun _ => rfl, fun _ => rfl⟩
    have none := entryKeyOf_none selector key bad
    exact ⟨none,
      State.command_refuse 0x11 tag _ .badParam s
        (setEntryStateBody_badParam .barred selector key s.beginExchange on none),
      State.command_refuse 0x12 tag _ .badParam s
        (setEntryStateBody_badParam .active selector key s.beginExchange on none),
      State.command_refuse 0x13 tag _ .badParam s
        (removeMachineBody_badParam selector key s.beginExchange on none)⟩
  · intro tag selector key k s on named
    obtain ⟨absent, present⟩ := exec_removeMachine tag selector key k s on named
    refine ⟨absent, fun slot e inTable found => ?_⟩
    obtain ⟨used, free⟩ := present slot e inTable found
    refine ⟨fun holds => used ((s.slotInUse_iff slot).mpr holds), fun none => ?_⟩
    have unused : ¬ s.slotInUse slot = true := fun used => by
      obtain ⟨n, holds, serves⟩ := (s.slotInUse_iff slot).mp used
      rw [none n holds] at serves
      cases serves
    exact ⟨_, free unused, fun j => Sparse.find?_erase _ slot j⟩
  · intro tag ring number costCentre permitted state allowance cap s on refuses inRange double
    refine ⟨fun out => ?_, ?_, ?_⟩
    · refine exec_putMachine_badParam tag ring number costCentre permitted state allowance cap s on ?_
      rw [permitsOf_eq_none, entryStateOf_eq_none]
      by_contra h
      push Not at h
      obtain ⟨permits, stands, canon, number0, cost, cap0⟩ := h
      exact out ⟨canon, number0, cost, permits.1, permits.2, stands, cap0⟩
    all_goals
      rintro ⟨canon, number0, cost, low, high, stands, cap0⟩
      obtain ⟨p, permits⟩ := Option.ne_none_iff_exists'.mp
        (mt (permitsOf_eq_none permitted).mp (not_not.mpr ⟨low, high⟩))
      obtain ⟨st, stands⟩ := Option.ne_none_iff_exists'.mp
        (mt (entryStateOf_eq_none state).mp (not_not.mpr stands))
      have range : putMachineInRange ring number costCentre cap := ⟨canon, number0, cost, cap0⟩
    · exact fun double => exec_putMachine_refuses tag ring number costCentre permitted state allowance cap s
        p st .duplicate on permits stands range (putMachineChecked_duplicate ring number costCentre p st
          allowance cap s.beginExchange double)
    · exact fun single absent full => exec_putMachine_refuses tag ring number costCentre permitted state
        allowance cap s p st .tableFull on permits stands range (putMachineChecked_full ring number
          costCentre p st allowance cap s.beginExchange single ((s.entryOfRing_eq_none ring).mpr absent)
          (s.freeSlot_eq_none.mpr full))

/-- Settles O23, from the two outcomes of SET_DAY's body. -/
theorem setDayStartsDay : Obligations.SetDayStartsDay := by
  unfold Obligations.SetDayStartsDay
  intro tag day s on reply
  have answer (free : Nat) :
      packFields free 0 [u16 s.beginExchange.table.day.toNat] = beBytes 2 s.table.day.toNat := by
    simp [packFields, u16_bytes free 0 _ s.table.day.isLt]
  refine ⟨fun same => ?_, fun other => ?_⟩
  · refine (State.command_ok 0x15 tag _ _ _ s (setDayBody_same day s.beginExchange on same)).trans ?_
    rw [answer]
  · refine (State.command_ok 0x15 tag _ _ _ s (setDayBody_other day s.beginExchange on other)).trans ?_
    rw [answer]
    rfl

end Sys2Proof.Machine
end

section
/-! The figures of an entry and of a compartment, and the limit (02, R28, R29; 09, R129). -/

namespace Sys2Proof.Machine

/-- A sum over the elements with a property is the sum that counts the others as 0. -/
theorem sum_map_filter {α : Type} (l : List α) (p : α → Bool) (f : α → Nat) :
    ((l.filter p).map fun a => ((f a : Nat) : Int)).sum = ((l.map fun a => if p a then f a else 0).sum : Nat) := by
  induction l with
  | nil => rfl
  | cons a rest ih =>
    cases h : p a <;> simp [h, ih]

theorem State.ownOpenSum_eq (slot : Nat) (without : Option HoseId) (s : State) :
    (s.ownOpenSum slot without : Int) =
      (((otherHoses without).filter fun n => s.hoses[n].state.isOpen && s.hoses[n].serves slot).map
        fun n => ((s.hoses[n].openPreset : Nat) : Int)).sum :=
  (sum_map_filter _ _ _).symm

theorem State.compOpenSum_eq (k : CompId) (without : Option HoseId) (s : State) :
    (s.compOpenSum k without : Int) =
      (((otherHoses without).filter fun n => s.hoses[n].state.isOpen && decide (s.hoseComp n = k)).map
        fun n => ((s.hoses[n].openPreset : Nat) : Int)).sum :=
  (sum_map_filter _ _ _).symm

theorem Entry.heardSum_eq (e : Entry) :
    (e.heardSum : Int) = (e.heard.toList.map fun h => (((h.map Heard.ml).getD 0 : Nat) : Int)).sum := by
  unfold Entry.heardSum
  rw [Nat.cast_list_sum, List.map_map]
  congr 2
  funext h
  cases h <;> rfl

theorem State.remainingAllowance_eq (slot : Nat) (e : Entry) (without : Option HoseId) (s : State) :
    (s.remainingAllowance slot e without : Int) =
      max 0 (e.allowance.toNat * 1000 - (e.tally.toList.sum : Nat) - (e.heardSum : Int) -
        (s.ownOpenSum slot without : Int)) := by
  unfold State.remainingAllowance Entry.tallySum
  omega

theorem State.availableStock_eq (k : CompId) (without : Option HoseId) (s : State) :
    (s.availableStock k without : Int) =
      max 0 (s.stock.books[k].value - s.heel k * 1000 - (s.compOpenSum k without : Int)) := by
  unfold State.availableStock
  omega

/-- The limit as the least of its terms (R29). -/
theorem State.limit_eq (slot : Nat) (e : Entry) (k : CompId) (m : Method) (without : Option HoseId)
    (s : State) :
    s.limit slot e k m without =
      min (min (min (s.remainingAllowance slot e without) (e.cap.toNat * 1000))
        (min (s.availableStock k without) (if m = .keyed then s.keyedCap * 1000 else 30000000))) 30000000 := by
  unfold State.limit State.allowanceTerm
  cases m <;> simp <;> omega

/-- Settles O24, figure by figure. -/
theorem limitIsLeastOfTerms : Obligations.LimitIsLeastOfTerms := by
  unfold Obligations.LimitIsLeastOfTerms
  intro s slot e k m without others openOf heard remaining available
  have hr : (s.remainingAllowance slot e without : Int) = remaining := by
    rw [State.remainingAllowance_eq, Entry.heardSum_eq, State.ownOpenSum_eq]
    rfl
  have ha : (s.availableStock k without : Int) = available := by
    rw [State.availableStock_eq, State.compOpenSum_eq]
    rfl
  refine ⟨hr, ha, ?_⟩
  rw [State.limit_eq, ← hr, ← ha]
  cases m <;> simp

end Sys2Proof.Machine
end

section
/-! AUTHORISE (04, R30, R40, R41) and the checks of an entry (02, R25 to R27). -/

namespace Sys2Proof.Machine

/-! ## The limit, the grant and the checks of an entry (R25 to R29) -/

theorem State.allowanceTerm_eq (slot : Nat) (e : Entry) (m : Method) (without : Option HoseId) (s : State) :
    s.allowanceTerm slot e m without =
      min (min (s.remainingAllowance slot e without) (e.cap.toNat * 1000))
        (min (if m = .keyed then s.keyedCap * 1000 else 30000000) 30000000) := by
  unfold State.allowanceTerm
  cases m
  · simp
  · simp
    omega

theorem State.limit_le (slot : Nat) (e : Entry) (k : CompId) (m : Method) (without : Option HoseId)
    (s : State) : s.limit slot e k m without ≤ 30000000 := by
  rw [State.limit_eq]
  exact Nat.min_le_right _ _

theorem grantPreset_le (requested limit : Nat) : grantPreset requested limit ≤ limit := by
  unfold grantPreset
  split_ifs <;> omega

theorem grantPreset_word (preset : BitVec 32) (limit : Nat) :
    grantPreset preset.toNat limit = if preset = 0 then limit else min preset.toNat limit := by
  have zero : preset.toNat = 0 ↔ preset = 0 := BitVec.toNat_inj (y := 0#32)
  simp only [grantPreset, zero]

theorem Log.freeCount_eq_zero (l : Log) :
    l.freeCount = 0 ↔ l.count + l.reserved.toList.countP id ≥ 1024 := by
  show 1024 - l.count - l.reserved.toList.countP id = 0 ↔ _
  omega

/-- The checks of an entry in their order, over the terms of the limit (R25 to R27). -/
theorem State.objection_eq (slot : Nat) (e : Entry) (k : CompId) (m : Method) (s : State) :
    s.objection slot e k m =
      if e.state = .barred then some .barred
      else if e.permits k = false then some .grade
      else if s.stock.books[k].isSet = false then some .stockUnset
      else if s.log.count + s.log.reserved.toList.countP id ≥ 1024 then some .logFull
      else if s.minPreset ≤ min (s.allowanceTerm slot e m none) (s.availableStock k none) then none
      else if s.allowanceTerm slot e m none ≤ s.availableStock k none then some .noAllowance
      else some .stockShort := by
  have short : s.limit slot e k m none < s.minPreset ↔
      ¬ s.minPreset ≤ min (s.allowanceTerm slot e m none) (s.availableStock k none) := Nat.not_le.symm
  have stock : s.availableStock k none < s.allowanceTerm slot e m none ↔
      ¬ s.allowanceTerm slot e m none ≤ s.availableStock k none := Nat.not_le.symm
  simp only [State.objection, Log.freeCount_eq_zero, short, stock, ite_not]

/-- The reasons a check of an entry can give: those of a read are not among them. -/
theorem State.objection_reason (slot : Nat) (e : Entry) (k : CompId) (m : Method) (r : UnidReason)
    (s : State) (h : s.objection slot e k m = some r) :
    r ∈ [.barred, .grade, .stockUnset, .logFull, .noAllowance, .stockShort] := by
  unfold State.objection at h
  split_ifs at h <;> cases h <;> simp

/-! ## The hose of a command -/

theorem hoseOf_eq_none (b : Byte) (h : 4 ≤ b.toNat) : hoseOf b = none := dif_neg (by omega)

theorem hoseOf_eq_some (b : Byte) (n : HoseId) (h : b.toNat = n.val) : hoseOf b = some n := by
  rw [hoseOf, dif_pos (by omega)]
  exact congrArg some (Fin.ext h)

theorem hoseByte_toNat (n : HoseId) : (BitVec.ofNat 8 n.val).toNat = n.val := by
  rw [BitVec.toNat_ofNat]
  omega

/-! ## The checks before the lookup (R40) -/

/-- A hose an AUTHORISE can arm: an IDENTIFIED one, or an UNIDENTIFIED one with a machine number. -/
def Hose.takesAuthorise (number : BitVec 16) (h : Hose) : Prop :=
  h.state = .identified ∧ number = 0 ∨ h.state = .unidentified ∧ number ≠ 0

/-- Nothing of the machine stands against fuelling from a hose. -/
def State.readyFor (n : HoseId) (s : State) : Prop :=
  s.metroFault = false ∧ s.estopLatch = false ∧ (s.pumpOf n).state ≠ .fault

section
variable (n : HoseId) (number : BitVec 16) (s : State)

theorem authoriseRefusal_badParam (st : s.hoses[n].state = .identified) (keyed : number ≠ 0) :
    s.authoriseRefusal n number = some .badParam := if_pos ⟨st, keyed⟩

theorem authoriseRefusal_wrongState (st : s.hoses[n].state ≠ .identified)
    (keyed : ¬ (s.hoses[n].state = .unidentified ∧ number ≠ 0)) :
    s.authoriseRefusal n number = some .wrongState :=
  (if_neg fun h => st h.1).trans (if_pos ⟨st, keyed⟩)

/-- A hose that takes the command is past the checks of its state. -/
theorem authoriseRefusal_machine (takes : s.hoses[n].takesAuthorise number) :
    s.authoriseRefusal n number =
      if s.metroFault then some .metroFault
      else if s.estopLatch then some .estop
      else if (s.pumpOf n).state = .fault then some .pumpFault
      else none := by
  rcases takes with ⟨st, plain⟩ | ⟨st, keyed⟩
  · exact (if_neg fun h => h.2 plain).trans (if_neg fun h => h.1 st)
  · exact (if_neg fun h => keyed (by rw [st] at h; cases h.1)).trans (if_neg fun h => h.2 ⟨st, keyed⟩)

theorem authoriseRefusal_none (takes : s.hoses[n].takesAuthorise number) (ready : s.readyFor n) :
    s.authoriseRefusal n number = none := by
  obtain ⟨metro, estop, pump⟩ := ready
  simp [authoriseRefusal_machine n number s takes, metro, estop, pump]

end

/-! ## The body of AUTHORISE (R30, R40) -/

section
variable (hose : Byte) (preset : BitVec 32) (number : BitVec 16) (n : HoseId) (s : State)

theorem authoriseBody_noHose (on : s.isSealed = true) (h : 4 ≤ hose.toNat) :
    authoriseBody hose preset number s = (s, Reply.refuse .badParam) := by
  rw [authoriseBody, afterSeal_sealed _ s on, hoseOf_eq_none hose h]

theorem authoriseBody_refuses (status : Status) (on : s.isSealed = true) (h : hose.toNat = n.val)
    (refuses : s.authoriseRefusal n number = some status) :
    authoriseBody hose preset number s = (s, Reply.refuse status) := by
  rw [authoriseBody, afterSeal_sealed _ s on, hoseOf_eq_some hose n h]
  simp only [refuses]

theorem authoriseBody_identified (on : s.isSealed = true) (h : hose.toNat = n.val)
    (ready : s.readyFor n) (st : s.hoses[n].state = .identified) (plain : number = 0) :
    authoriseBody hose preset number s = authoriseIdentified n preset.toNat s := by
  rw [authoriseBody, afterSeal_sealed _ s on, hoseOf_eq_some hose n h]
  simp only [authoriseRefusal_none n number s (Or.inl ⟨st, plain⟩) ready]
  exact if_pos st

theorem authoriseBody_keyed (on : s.isSealed = true) (h : hose.toNat = n.val)
    (ready : s.readyFor n) (st : s.hoses[n].state = .unidentified) (keyed : number ≠ 0) :
    authoriseBody hose preset number s = authoriseKeyed n preset.toNat number s := by
  rw [authoriseBody, afterSeal_sealed _ s on, hoseOf_eq_some hose n h]
  simp only [authoriseRefusal_none n number s (Or.inr ⟨st, keyed⟩) ready]
  exact if_neg (by rw [st]; decide)

end

section
variable (n : HoseId) (requested : Nat) (s : State)

/-- The checks of a found entry decide an AUTHORISE (R30). -/
def State.authoriseEntry (n : HoseId) (requested : Nat) (i : Ident) (e : Entry) : Body := fun s =>
  match s.objection i.slot e (s.hoseComp n) i.method with
  | some reason => (s, Reply.refuse reason.status)
  | none => s.authorised n i e requested

theorem State.authoriseEntry_refuses (i : Ident) (e : Entry) (r : UnidReason)
    (against : s.objection i.slot e (s.hoseComp n) i.method = some r) :
    s.authoriseEntry n requested i e = (s, Reply.refuse r.status) := by
  simp only [State.authoriseEntry, against]

theorem State.authoriseEntry_arms (i : Ident) (e : Entry)
    (passes : s.objection i.slot e (s.hoseComp n) i.method = none) :
    s.authoriseEntry n requested i e = s.authorised n i e requested := by
  simp only [State.authoriseEntry, passes]

/-- The lookup of an IDENTIFIED hose finds the entry of its identity (R30). -/
theorem authoriseIdentified_eq (i : Ident) (e : Entry) (ident : s.hoses[n].ident = some i)
    (entry : s.entryAt i.slot = some e) :
    authoriseIdentified n requested s = s.authoriseEntry n requested i e := by
  have identity : s.hoses[n].identity = i := by rw [Hose.identity, ident]; rfl
  unfold authoriseIdentified State.authoriseEntry
  simp only [identity, entry] <;> rfl

theorem authoriseKeyed_off (number : BitVec 16) (off : s.keyedAllowed = false) :
    authoriseKeyed n requested number s = (s, Reply.refuse .keyedOff) := if_pos off

theorem authoriseKeyed_notFound (number : BitVec 16) (allowed : s.keyedAllowed = true)
    (absent : s.entryOfNumber number = none) :
    authoriseKeyed n requested number s = (s, Reply.refuse .notFound) := by
  unfold authoriseKeyed
  simp [allowed, absent]

/-- The identity of a keyed delivery (R41). -/
def keyedIdent (slot : Nat) (e : Entry) : Ident :=
  { method := .keyed, slot, ring := e.ring, number := e.number, costCentre := e.costCentre }

/-- The keyed lookup finds the entry with the number (R27). -/
theorem authoriseKeyed_eq (number : BitVec 16) (slot : Nat) (e : Entry) (allowed : s.keyedAllowed = true)
    (entry : s.entryOfNumber number = some (slot, e)) :
    authoriseKeyed n requested number s = s.authoriseEntry n requested (keyedIdent slot e) e := by
  unfold authoriseKeyed
  simp only [allowed, entry, Bool.true_eq_false, if_false] <;> rfl

end

/-! ## AUTHORISE at the port -/

/-- The answer of an AUTHORISE that arms (R172). -/
theorem packFields_authorised (free granted limit : Nat) (m : Method) (number : BitVec 16)
    (costCentre : Byte) (small : limit ≤ 30000000) (within : granted ≤ limit) :
    packFields free 0 [u32 granted, u32 limit, u8 m.code, u16 number.toNat, u8 costCentre.toNat] =
      beBytes 4 granted ++ beBytes 4 limit ++ [BitVec.ofNat 8 m.code] ++ beBytes 2 number.toNat ++
        [costCentre] := by
  have method : m.code < 256 := by cases m <;> decide
  simp [packFields, u32_bytes free 0 granted (by omega), u32_bytes free 1 limit (by omega),
    u8_bytes free 2 _ method, u16_bytes free 3 _ number.isLt, u8_bytes free 4 _ costCentre.isLt]

section
variable (tag hose : Byte) (preset : BitVec 32) (number : BitVec 16) (n : HoseId) (s : State)

/-- An AUTHORISE whose body is that of a found entry without an objection arms the hose (R41). -/
theorem exec_authorise_arms (i : Ident) (e : Entry)
    (found : authoriseBody hose preset number s.beginExchange =
      s.beginExchange.authoriseEntry n preset.toNat i e)
    (passes : s.objection i.slot e (s.hoseComp n) i.method = none) (limit granted : Nat)
    (isLimit : s.limit i.slot e (s.hoseComp n) i.method none = limit)
    (grants : grantPreset preset.toNat limit = granted) :
    exec (.authorise tag hose preset number) s = .next
      ((s.beginExchange.arm n i granted).holding (replyBytes 0x20 tag 0
        (beBytes 4 granted ++ beBytes 4 limit ++ [BitVec.ofNat 8 i.method.code] ++
          beBytes 2 e.number.toNat ++ [e.costCentre]))) := by
  subst isLimit grants
  have body := found.trans (State.authoriseEntry_arms n preset.toNat s.beginExchange i e passes)
  refine (State.command_ok 0x20 tag _ _ _ s body).trans ?_
  rw [packFields_authorised _ _ _ _ _ _ (State.limit_le ..) (grantPreset_le ..)]
  rfl

/-- An objection to the entry found is the answer, with the status named alike. -/
theorem exec_authorise_objection (i : Ident) (e : Entry) (r : UnidReason)
    (found : authoriseBody hose preset number s.beginExchange =
      s.beginExchange.authoriseEntry n preset.toNat i e)
    (against : s.objection i.slot e (s.hoseComp n) i.method = some r) :
    exec (.authorise tag hose preset number) s = .next (s.refusing 0x20 tag r.status) :=
  State.command_refuse 0x20 tag _ r.status s
    (found.trans (State.authoriseEntry_refuses n preset.toNat s.beginExchange i e r against))

/-- A check before the lookup is the answer. -/
theorem exec_authorise_refuses (status : Status) (on : s.isSealed = true) (h : hose.toNat = n.val)
    (refuses : s.authoriseRefusal n number = some status) :
    exec (.authorise tag hose preset number) s = .next (s.refusing 0x20 tag status) :=
  State.command_refuse 0x20 tag _ status s
    (authoriseBody_refuses hose preset number n s.beginExchange status on h refuses)

/-- A status of the keyed lookup itself is the answer. -/
theorem exec_authorise_keyed_refuses (status : Status) (on : s.isSealed = true) (h : hose.toNat = n.val)
    (ready : s.readyFor n) (st : s.hoses[n].state = .unidentified) (keyed : number ≠ 0)
    (refuses : authoriseKeyed n preset.toNat number s.beginExchange =
      (s.beginExchange, Reply.refuse status)) :
    exec (.authorise tag hose preset number) s = .next (s.refusing 0x20 tag status) :=
  State.command_refuse 0x20 tag _ status s
    ((authoriseBody_keyed hose preset number n s.beginExchange on h ready st keyed).trans refuses)

/-- The entry an AUTHORISE of an IDENTIFIED hose looks up. -/
theorem authoriseBody_findsIdentified (on : s.isSealed = true) (h : hose.toNat = n.val)
    (ready : s.readyFor n) (st : s.hoses[n].state = .identified) (plain : number = 0) (i : Ident) (e : Entry)
    (ident : s.hoses[n].ident = some i) (entry : s.entryAt i.slot = some e) :
    authoriseBody hose preset number s = s.authoriseEntry n preset.toNat i e :=
  (authoriseBody_identified hose preset number n s on h ready st plain).trans
    (authoriseIdentified_eq n preset.toNat s i e ident entry)

/-- The entry a keyed AUTHORISE looks up. -/
theorem authoriseBody_findsKeyed (on : s.isSealed = true) (h : hose.toNat = n.val)
    (ready : s.readyFor n) (st : s.hoses[n].state = .unidentified) (keyed : number ≠ 0)
    (allowed : s.keyedAllowed = true) (slot : Nat) (e : Entry)
    (entry : s.entryOfNumber number = some (slot, e)) :
    authoriseBody hose preset number s = s.authoriseEntry n preset.toNat (keyedIdent slot e) e :=
  (authoriseBody_keyed hose preset number n s on h ready st keyed).trans
    (authoriseKeyed_eq n preset.toNat s number slot e allowed entry)

end

/-- Settles O25: the arming, the checks of an entry, and the refusals in their order. -/
theorem authoriseArms : Obligations.AuthoriseArms := by
  unfold Obligations.AuthoriseArms
  refine ⟨?_, ?_, ?_⟩
  · intro tag n preset number i e s on metro estop pump lookup passes limit granted h
    have ready : s.readyFor n := ⟨metro, estop, pump⟩
    have found : authoriseBody (BitVec.ofNat 8 n.val) preset number s.beginExchange =
        s.beginExchange.authoriseEntry n preset.toNat i e := by
      rcases lookup with ⟨st, plain, ident, entry⟩ | ⟨st, keyed, allowed, entry, isKeyed⟩
      · exact authoriseBody_findsIdentified _ preset number n s.beginExchange on (hoseByte_toNat n) ready st
          plain i e ident entry
      · rw [isKeyed]
        exact authoriseBody_findsKeyed _ preset number n s.beginExchange on (hoseByte_toNat n) ready st keyed
          allowed i.slot e entry
    exact exec_authorise_arms tag _ preset number n s i e found passes limit granted rfl
      (grantPreset_word preset limit)
  · intro slot e k m s stock others
    rw [State.objection_eq, State.allowanceTerm_eq]
    rfl
  · intro tag hose preset number s on refuses code
    have coded (r : UnidReason) (i : Ident) (e : Entry) (k : CompId)
        (against : s.objection i.slot e k i.method = some r)
        (answer : exec (.authorise tag hose preset number) s = .next (s.refusing 0x20 tag r.status)) :
        refuses (code r) := by
      have reason := State.objection_reason _ _ _ _ r s against
      simp only [List.mem_cons, List.not_mem_nil, or_false] at reason
      rcases reason with rfl | rfl | rfl | rfl | rfl | rfl <;> exact answer
    refine ⟨fun large => State.command_refuse 0x20 tag _ .badParam s
      (authoriseBody_noHose hose preset number s.beginExchange on large), fun n isHose => ?_⟩
    have refused (status : Status) (h : s.authoriseRefusal n number = some status) :
        refuses status.code := exec_authorise_refuses tag hose preset number n s status on isHose h
    refine ⟨?_, ?_, ?_, ?_, ?_, ?_, ?_, ?_, ?_⟩
    · exact fun st keyed => refused .badParam (authoriseRefusal_badParam n number s st keyed)
    · exact fun _ keyed st => refused .wrongState (authoriseRefusal_wrongState n number s st keyed)
    · exact fun takes metro => refused .metroFault
        ((authoriseRefusal_machine n number s takes).trans (by simp [metro]))
    · exact fun takes metro estop => refused .estop
        ((authoriseRefusal_machine n number s takes).trans (by simp [metro, estop]))
    · exact fun takes metro estop pump => refused .pumpFault
        ((authoriseRefusal_machine n number s takes).trans (by simp [metro, estop, pump]))
    · intro i e r ready ⟨st, plain⟩ ident entry against
      exact coded r i e _ against (exec_authorise_objection tag hose preset number n s i e r
        (authoriseBody_findsIdentified hose preset number n s.beginExchange on isHose ready st plain i e
          ident entry) against)
    · exact fun ready ⟨st, keyed⟩ off => exec_authorise_keyed_refuses tag hose preset number n s .keyedOff
        on isHose ready st keyed (authoriseKeyed_off n preset.toNat s.beginExchange number off)
    · exact fun ready ⟨st, keyed⟩ allowed absent => exec_authorise_keyed_refuses tag hose preset number n s
        .notFound on isHose ready st keyed (authoriseKeyed_notFound n preset.toNat s.beginExchange number
          allowed ((s.entryOfNumber_eq_none number).mpr absent))
    · intro slot e r ready ⟨st, keyed⟩ allowed entry against
      exact coded r (keyedIdent slot e) e _ against (exec_authorise_objection tag hose preset number n s
        (keyedIdent slot e) e r (authoriseBody_findsKeyed hose preset number n s.beginExchange on isHose
          ready st keyed allowed slot e entry) against)

end Sys2Proof.Machine
end

section
/-! The expiries of a heard reservation and of a GO hold (02, R33; 09, R143). -/

namespace Sys2Proof.Machine

theorem exec_reservationExpiry_noEntry (slot : SlotId) (station : StationId) (s : State)
    (empty : s.entryAt slot.val = none) : exec (.reservationExpiry slot station) s = .next s := by
  show execReservationExpiry slot station s = _
  unfold execReservationExpiry
  simp only [empty]

theorem exec_reservationExpiry_unheard (slot : SlotId) (station : StationId) (s : State) (e : Entry)
    (entry : s.entryAt slot.val = some e) (unheard : e.heard[station] = none) :
    exec (.reservationExpiry slot station) s = .next s := by
  show execReservationExpiry slot station s = _
  unfold execReservationExpiry
  simp only [entry, unheard]

theorem exec_reservationExpiry_heard (slot : SlotId) (station : StationId) (s : State) (e : Entry) (h : Heard)
    (entry : s.entryAt slot.val = some e) (heard : e.heard[station] = some h) :
    exec (.reservationExpiry slot station) s = .next
      { s with
        now := max s.now (h.expiry * 1000000)
        table := { s.table with
          entries := Sparse.insert s.table.entries slot.val
            { e with heard := e.heard.set station none } } } := by
  show execReservationExpiry slot station s = _
  unfold execReservationExpiry
  simp only [entry, heard]
  rfl

theorem exec_goHoldExpiry_idle (s : State) (h : s.stock.goHold = none) :
    exec .goHoldExpiry s = .next s := by
  show execGoHoldExpiry s = _
  simp only [execGoHoldExpiry, h]

theorem exec_goHoldExpiry_due (due : Nat) (s : State) (h : s.stock.goHold = some due) :
    exec .goHoldExpiry s = .next
      (State.setRestock .want { s.reachSec due with
        stock := { s.stock with
          goHold := none, yieldUntil := some ((s.reachSec due).nowSec + s.goHoldTime) } }) := by
  show execGoHoldExpiry s = _
  simp only [execGoHoldExpiry, h]
  rfl

theorem exec_yieldExpiry_idle (s : State) (h : s.stock.yieldUntil = none) :
    exec .yieldExpiry s = .next s := by
  show execYieldExpiry s = _
  simp only [execYieldExpiry, h]

theorem exec_yieldExpiry_due (due : Nat) (s : State) (h : s.stock.yieldUntil = some due) :
    exec .yieldExpiry s = .next
      (State.ask .stock { s.reachSec due with
        stock := { s.stock with yieldUntil := none } }).evaluateRestock := by
  show execYieldExpiry s = _
  simp only [execYieldExpiry, h]
  rfl

/-- Settles O53, timer by timer. -/
theorem reservationsAndHoldsExpire : Obligations.ReservationsAndHoldsExpire := by
  unfold Obligations.ReservationsAndHoldsExpire
  refine ⟨fun slot station s => ⟨fun e h entry heard => ?_, fun unheard => ?_⟩, fun due s => ⟨?_, ?_, ?_, ?_⟩⟩
  · exact ⟨_, exec_reservationExpiry_heard slot station s e h entry heard,
      fun j => Sparse.find?_insert _ slot.val j _⟩
  · cases entry : s.entryAt slot.val with
    | none => exact exec_reservationExpiry_noEntry slot station s entry
    | some e => exact exec_reservationExpiry_unheard slot station s e entry (unheard e entry)
  · intro hold go
    refine (exec_goHoldExpiry_due due s hold).trans ?_
    rw [State.setRestock, if_neg (by simp [go])]
    rfl
  · exact fun yields => exec_yieldExpiry_due due s yields
  · exact exec_goHoldExpiry_idle s
  · exact exec_yieldExpiry_idle s

end Sys2Proof.Machine
end

section
/-! The emergency stop and the pump fault: halted pumps, the entries to SETTLING on them, and the cancellations
(03, R42, R55, R58; 05, R80, R81). -/

namespace Sys2Proof.Machine

/-! ## Halted pumps (R75, R80, R81) -/

/-- A pump OFF or in FAULT with no claim, grant, queue place, expiry, demand or duty. -/
def Pump.IsHalted (p : Pump) : Prop := ∃ (st : PumpState) (q : Pump), (st = .off ∨ st = .fault) ∧ p = q.halted st

theorem Pump.halted_isHalted (st : PumpState) (p : Pump) (h : st = .off ∨ st = .fault) :
    (p.halted st).IsHalted := ⟨st, p, h, rfl⟩

theorem Pump.halted_claims (st : PumpState) (p : Pump) (n : HoseId) : (p.halted st).claims[n] = false := by
  simp [Pump.halted]

theorem Pump.halted_grants (st : PumpState) (p : Pump) (n : HoseId) : (p.halted st).grants[n] = false := by
  simp [Pump.halted]

theorem replicate_set_false (n : HoseId) :
    (Vector.replicate 4 false).set n.val false = Vector.replicate 4 false := by
  ext i hi
  simp

/-- Releasing a claim leaves a halted pump as it is. -/
theorem State.released_halted (n : HoseId) (p : Pump) (s : State) (h : p.IsHalted) : s.released n p = p := by
  obtain ⟨st, q, off, rfl⟩ := h
  have still : (q.halted st).state ≠ .running := by
    rcases off with rfl | rfl <;> simp [Pump.halted]
  obtain ⟨-, -, placed⟩ := Pump.giveUp_eq n (q.halted st)
  have gives : (q.halted st).giveUp n = q.halted st := placed (q.halted_grants st n)
  rw [s.released_stays n _ (Or.inl still), Pump.without, gives]
  simp only [Pump.halted, replicate_set_false]

theorem State.setPump_self (k : CompId) (s : State) : s.setPump k s.pumps[k] = s := by
  simp [State.setPump]

/-- Selecting the demand anew leaves a halted pump as it is. -/
theorem State.reselect_halted (k : CompId) (s : State) (h : s.pumps[k].IsHalted) : s.reselect k = s := by
  have demand : { s.pumps[k] with demand := s.selectedDemand k } = s.pumps[k] := by
    obtain ⟨none', -, -⟩ := s.selectedDemand_still k
    obtain ⟨st, q, off, e⟩ := h
    rw [none' (by rw [e]; exact off), e]
    rfl
  unfold State.reselect
  rw [demand, State.setPump_self]

/-- An entry to SETTLING on a halted pump leaves the pumps (R51, R81). -/
theorem State.enterSettling_halted (n : HoseId) (cause : EndCause) (s : State) (h : (s.pumpOf n).IsHalted) :
    s.enterSettling n cause = { s with hoses := (s.enterSettling n cause).hoses } := by
  have same : s.released n s.pumps[s.hoseComp n] = s.pumps[s.hoseComp n] := s.released_halted n _ h
  have released : s.release n = s :=
    (congrArg (fun p => s.setPump (s.hoseComp n) p) same).trans (s.setPump_self _)
  unfold State.enterSettling
  dsimp only
  rw [released]
  exact State.reselect_halted _ ((s.setHose n _).writeJournal n) h

/-! ## One after another on halted pumps -/

/-- What entries to SETTLING of the hoses of a list leave, where their pumps are halted. -/
structure SettlesAll (l : List HoseId) (cause : EndCause) (s t : State) : Prop where
  frame : t = { s with hoses := t.hoses }
  settled : ∀ n ∈ l, t.hoses[n] = s.stoppedContext n cause t.hoses[n].journal ∧
    t.hoses[n].journal = some (t.hoses[n].toJournal n (s.hoseComp n))
  others : ∀ n : HoseId, n ∉ l → t.hoses[n] = s.hoses[n]

theorem State.forEach_settles (l : List HoseId) (cause : EndCause) (s : State) (once : l.Nodup)
    (halted : ∀ n ∈ l, (s.pumpOf n).IsHalted) :
    SettlesAll l cause s (s.forEach l fun n => State.enterSettling n cause) := by
  induction l generalizing s with
  | nil => exact ⟨rfl, fun n h => by simp at h, fun _ _ => rfl⟩
  | cons a rest ih =>
    obtain ⟨notin, once⟩ := List.nodup_cons.mp once
    obtain ⟨context, unmoved⟩ := s.enterSettling_hose a cause
    have journal := s.enterSettling_journal a cause
    have moved := s.enterSettling_halted a cause (halted a List.mem_cons_self)
    show SettlesAll _ cause s ((s.enterSettling a cause).forEach rest _)
    generalize (s.enterSettling a cause).hoses = hoses at context unmoved journal moved
    rw [moved]
    obtain ⟨frame, settled, others⟩ := ih { s with hoses } once fun n hn =>
      halted n (List.mem_cons_of_mem a hn)
    refine ⟨frame, fun n hn => ?_, fun n hn => ?_⟩
    · rcases List.mem_cons.mp hn with rfl | hn
      · rw [others n notin]
        exact ⟨context, journal⟩
      · have ne : n ≠ a := fun e => notin (e ▸ hn)
        have same : State.stoppedContext { s with hoses } n cause = s.stoppedContext n cause := by
          funext j
          simp only [State.stoppedContext, unmoved n ne]
        rw [← same]
        exact settled n hn
    · rw [List.mem_cons, not_or] at hn
      exact (others n hn.2).trans (unmoved n hn.1)

/-! ## Postings and subjects by what they read (R150, R175) -/

/-- Two states a posting and a subject asked for do not tell apart. -/
structure SameLink (u v : State) : Prop where
  link : u.link = v.link
  port : u.port = v.port
  now : u.now = v.now
  config : u.config = v.config

theorem SameLink.post {u v : State} (same : SameLink u v) (kind : EventKind) (subject : EventSubject)
    (value : Int) : SameLink (u.post kind subject value) (v.post kind subject value) := by
  obtain ⟨link, port, now, config⟩ := same
  refine ⟨by simp [link], ?_, by simp [now], by simp [config]⟩
  unfold State.post State.nowSec
  rw [port, now]
  split_ifs
  · exact port
  · rfl
  · rfl

theorem SameLink.draw {u v : State} (same : SameLink u v) : SameLink u.draw v.draw := by
  obtain ⟨link, port, now, config⟩ := same
  refine ⟨?_, by simp [port], by simp [now], by simp [config]⟩
  have slot : u.linkSlot = v.linkSlot := by simp only [State.linkSlot, State.itemNat, State.item, config]
  unfold State.draw State.nowMs
  rw [link, now, slot]
  split_ifs
  · cases v.link.gen
    · exact link
    · rfl
  · exact link

theorem SameLink.ask {u v : State} (same : SameLink u v) (sub : Subject) :
    SameLink (u.ask sub) (v.ask sub) := by
  have station : u.station = v.station := by
    simp only [State.station, State.itemNat, State.item, same.config]
  unfold State.ask State.postDrop
  rw [same.link, station]
  split_ifs
  · exact same
  · exact SameLink.draw ⟨rfl, same.port, same.now, same.config⟩
  · exact same.post _ _ _

/-- A subject asked for changes the link and the port alone. -/
theorem State.ask_eq (sub : Subject) (s : State) :
    s.ask sub = { s with link := (s.ask sub).link, port := (s.ask sub).port } := by
  rcases State.ask_cases sub s with ⟨-, e⟩ | ⟨-, -, e⟩ | ⟨-, -, e⟩ <;> rw [e]
  · rw [State.postDrop, State.post_eq]
  · rcases State.draw_cases { s with link := { s.link with queue := s.link.queue ++ [sub] } } with d | d
    · rw [d]
    · obtain ⟨g, -, -, -, -, -, d⟩ := d
      rw [d]

theorem State.forEach_filter {α : Type} (p : α → Bool) (l : List α) (f : α → State → State) (s : State)
    (idle : ∀ a ∈ l, p a = false → ∀ u, f a u = u) : s.forEach (l.filter p) f = s.forEach l f := by
  induction l generalizing s with
  | nil => rfl
  | cons a rest ih =>
    have rests := fun u => ih u fun b hb => idle b (List.mem_cons_of_mem a hb)
    cases h : p a with
    | true => rw [List.filter_cons_of_pos h]; exact rests _
    | false =>
      rw [List.filter_cons_of_neg (by simp [h]), rests]
      exact congrArg (fun u => State.forEach rest f u) (idle a List.mem_cons_self h s).symm

/-! ## Cancellations one after another (R42) -/

/-- The subject of an ARMED hose is asked for. -/
def State.askArmed (hoses : Vector Hose 4) (n : HoseId) (s : State) : State :=
  if hoses[n].state = .armed then s.ask (.machine hoses[n].identity.ring) else s

theorem State.askedByArmed_eq (s : State) :
    s.askedByArmed = s.forEach allHoses (State.askArmed s.hoses) := rfl

theorem SameLink.askArmed {u v : State} (same : SameLink u v) (hoses : Vector Hose 4) (n : HoseId) :
    SameLink (u.askArmed hoses n) (v.askArmed hoses n) := by
  unfold State.askArmed
  split_ifs
  · exact same.ask _
  · exact same

theorem SameLink.forEach_askArmed {u v : State} (same : SameLink u v) (hoses hoses' : Vector Hose 4)
    (l : List HoseId) (agree : ∀ n ∈ l, hoses[n] = hoses'[n]) :
    SameLink (u.forEach l (State.askArmed hoses)) (v.forEach l (State.askArmed hoses')) := by
  induction l generalizing u v with
  | nil => exact same
  | cons a rest ih =>
    have step := same.askArmed hoses a
    have e : v.askArmed hoses a = v.askArmed hoses' a := by
      simp only [State.askArmed, agree a List.mem_cons_self]
    rw [e] at step
    exact ih step fun n hn => agree n (List.mem_cons_of_mem a hn)

/-- What the cancellations of the hoses of a list leave. -/
structure CancelsAll (l : List HoseId) (s t : State) : Prop where
  frame : t = { s with
    hoses := t.hoses, log := { s.log with reserved := t.log.reserved }, link := t.link, port := t.port }
  rested : ∀ n ∈ l, t.hoses[n] = s.atRest n
  others : ∀ n : HoseId, n ∉ l → t.hoses[n] = s.hoses[n]
  reserved : ∀ n : HoseId, t.log.reserved[holderOf n] =
    (s.log.reserved[holderOf n] && !decide (n ∈ l ∧ s.hoses[n].state = .armed))
  receipt : t.log.reserved[holderReceipt] = s.log.reserved[holderReceipt]
  asked : SameLink t (s.forEach l (State.askArmed s.hoses))

theorem getElem_set_fin {α : Type} {k : Nat} (v : Vector α k) (n m : Fin k) (x : α) :
    (v.set n x)[m] = if m = n then x else v[m] := by
  by_cases e : m = n
  · subst e; simp
  · have e' : n.val ≠ m.val := fun q => e (Fin.ext q.symm)
    simp [e, Vector.getElem_set_ne, e']

theorem holderOf_inj (m n : HoseId) : holderOf m = holderOf n ↔ m = n := by
  simp [holderOf, Fin.ext_iff]

theorem holderOf_ne_receipt (n : HoseId) : holderOf n ≠ holderReceipt := by
  revert n; decide

/-- One cancellation. -/
theorem State.cancel_cancels (n : HoseId) (s : State) : CancelsAll [n] s (s.cancel n) := by
  have own (v : Vector Hose 4) (m : HoseId) (h : m ∈ [n]) : (v.set n (s.atRest n))[m] = s.atRest m := by
    rw [List.mem_singleton.mp h, getElem_set_fin, if_pos rfl]
  have other (v : Vector Hose 4) (m : HoseId) (h : m ∉ [n]) : (v.set n (s.atRest n))[m] = v[m] := by
    rw [getElem_set_fin, if_neg (fun e => h (by simp [e]))]
  rw [State.cancel_eq_cancelled]
  unfold State.cancelled
  by_cases armed : s.hoses[n].state = .armed
  · rw [if_pos armed]
    let v : State := { s with
      hoses := s.hoses.set n (s.atRest n)
      log := { s.log with reserved := s.log.reserved.set (holderOf n) false } }
    have asked := State.ask_eq (.machine s.hoses[n].identity.ring) v
    refine ⟨by rw [asked], fun m h => ?_, fun m h => ?_, fun m => ?_, ?_, ?_⟩
    · rw [asked]; exact own s.hoses m h
    · rw [asked]; exact other s.hoses m h
    · rw [asked]
      show (s.log.reserved.set (holderOf n) false)[holderOf m] = _
      rw [getElem_set_fin]
      by_cases e : m = n
      · subst e
        rw [if_pos rfl, decide_eq_true ⟨by simp, armed⟩]
        simp
      · simp [holderOf_inj, e]
    · rw [asked]
      show (s.log.reserved.set (holderOf n) false)[holderReceipt] = _
      rw [getElem_set_fin, if_neg (holderOf_ne_receipt n).symm]
    · show SameLink _ (s.askArmed s.hoses n)
      rw [State.askArmed, if_pos armed]
      exact SameLink.ask (u := v) (v := s) ⟨rfl, rfl, rfl, rfl⟩ _
  · rw [if_neg armed]
    refine ⟨rfl, own s.hoses, other s.hoses, fun m => ?_, rfl, ?_⟩
    · by_cases e : m = n
      · subst e
        rw [decide_eq_false fun h => armed h.2]
        simp
      · simp [e]
    · show SameLink _ (s.askArmed s.hoses n)
      rw [State.askArmed, if_neg armed]
      exact ⟨rfl, rfl, rfl, rfl⟩

theorem State.forEach_cancels (l : List HoseId) (s : State) (once : l.Nodup) :
    CancelsAll l s (s.forEach l State.cancel) := by
  induction l generalizing s with
  | nil =>
    exact ⟨rfl, fun n h => by simp at h, fun _ _ => rfl, fun n => by simp [State.forEach], rfl,
      ⟨rfl, rfl, rfl, rfl⟩⟩
  | cons a rest ih =>
    obtain ⟨notin, once⟩ := List.nodup_cons.mp once
    show CancelsAll _ s ((s.cancel a).forEach rest _)
    have first := s.cancel_cancels a
    have next := ih (s.cancel a) once
    generalize s.cancel a = u at first next
    generalize u.forEach rest State.cancel = t at next
    have same (n : HoseId) (h : n ≠ a) : u.hoses[n] = s.hoses[n] := first.others n (by simpa using h)
    refine ⟨?_, fun n hn => ?_, fun n hn => ?_, fun n => ?_, next.receipt.trans first.receipt, ?_⟩
    · rw [next.frame, first.frame]
    · rcases List.mem_cons.mp hn with rfl | hn
      · exact (next.others n notin).trans (first.rested n (by simp))
      · have ne : n ≠ a := fun e => notin (e ▸ hn)
        rw [next.rested n hn, State.atRest, same n ne, first.frame]
        rfl
    · rw [List.mem_cons, not_or] at hn
      exact (next.others n hn.2).trans (same n hn.1)
    · rw [next.reserved, first.reserved]
      by_cases e : n = a
      · subst e; simp [notin]
      · rw [same n e]; simp [e]
    · have agree : ∀ n ∈ rest, u.hoses[n] = s.hoses[n] := fun n hn => same n fun e => notin (e ▸ hn)
      have asked := first.asked.forEach_askArmed u.hoses s.hoses rest agree
      exact ⟨next.asked.link.trans asked.link, next.asked.port.trans asked.port,
        next.asked.now.trans asked.now, next.asked.config.trans asked.config⟩

/-! ## The response to an emergency stop or a metrology fault (R55, R57, R81) -/

/-- The pumps once both have been stopped (R81). -/
theorem State.stopPumps_eq (s : State) :
    ∃ pumps : Vector Pump 2, s.forEach allComps State.stopPump = { s with pumps } ∧
      ∀ k : CompId, pumps[k] = s.pumps[k].halted
        (if s.pumps[k].state = .fault ∧ s.pins.pflt[k] = true then .fault else .off) := by
  refine ⟨((s.stopPump 0).stopPump 1).pumps, rfl, fun k => ?_⟩
  match k with
  | 0 => simp [State.stopPump_pumps]
  | 1 => simp [State.stopPump_pumps, State.stopPump_frame]

theorem mem_allHoses (n : HoseId) : n ∈ allHoses := by
  revert n; decide

theorem State.mem_activeHoses (n : HoseId) (s : State) :
    n ∈ s.activeHoses ↔ s.hoses[n].state.isActive = true := by
  simp [State.activeHoses, mem_allHoses]

theorem State.mem_cancellable (n : HoseId) (s : State) :
    n ∈ s.cancellable ↔ s.hoses[n].state = .identified ∨ s.hoses[n].state = .armed := by
  simp [State.cancellable, mem_allHoses]

theorem allHoses_nodup : allHoses.Nodup := by decide

/-- Every stage but that of a FLOWING hose is CLOSED (R54). -/
theorem State.drivenStage_closed (n : HoseId) (s : State) (h : s.hoses[n].state ≠ .flowing) :
    s.drivenStage n = .closed := by
  unfold State.drivenStage
  split
  · rename_i flowing _
    exact absurd flowing h
  · rfl

theorem State.stopAll_stops (cause : EndCause) (s : State) : StopsEverything cause s (s.stopAll cause) := by
  obtain ⟨pumps, stopped, pump⟩ := s.stopPumps_eq
  have halted (n : HoseId) : (State.pumpOf { s with pumps } n).IsHalted := by
    show pumps[s.hoseComp n].IsHalted
    rw [pump]
    exact Pump.halted_isHalted _ _ (by split_ifs <;> simp)
  have settles := State.forEach_settles s.activeHoses cause { s with pumps } (allHoses_nodup.filter _)
    fun n _ => halted n
  have cancels := State.forEach_cancels s.cancellable
    (State.forEach s.activeHoses (fun n => State.enterSettling n cause) { s with pumps })
    (allHoses_nodup.filter _)
  unfold State.stopAll
  dsimp only
  rw [stopped]
  generalize State.forEach s.activeHoses (fun n => State.enterSettling n cause) { s with pumps } = u
    at settles cancels
  generalize u.forEach s.cancellable State.cancel = t at cancels
  have frame : t = { s with
      hoses := t.hoses, pumps, log := { s.log with reserved := t.log.reserved }, link := t.link
      port := t.port } := by
    rw [cancels.frame, settles.frame]
  have active (n : HoseId) (h : s.hoses[n].state.isActive = true) : t.hoses[n] = u.hoses[n] :=
    cancels.others n fun mem => by
      rcases (s.mem_cancellable n).mp mem with e | e <;> rw [e] at h <;> cases h
  have inactive (n : HoseId) (h : s.hoses[n].state.isActive = false) : u.hoses[n] = s.hoses[n] :=
    settles.others n fun mem => by rw [(s.mem_activeHoses n).mp mem] at h; cases h
  have settled (n : HoseId) (h : s.hoses[n].state.isActive = true) :=
    settles.settled n ((s.mem_activeHoses n).mpr h)
  have cancelled (n : HoseId) (h : s.hoses[n].state = .identified ∨ s.hoses[n].state = .armed) :
      t.hoses[n] = s.atRest n := by
    rw [cancels.rested n ((s.mem_cancellable n).mpr h), State.atRest,
      inactive n (by rcases h with e | e <;> rw [e] <;> rfl), settles.frame]
    rfl
  have others (n : HoseId) (h : s.hoses[n].state.isActive = false) (hi : s.hoses[n].state ≠ .identified)
      (ha : s.hoses[n].state ≠ .armed) : t.hoses[n] = s.hoses[n] :=
    (cancels.others n fun mem => ((s.mem_cancellable n).mp mem).elim hi ha).trans (inactive n h)
  refine
    { pumps := fun k => by rw [frame]; exact pump k
      closed := fun n => State.drivenStage_closed n t ?_
      settling := fun n h => by rw [active n h]; exact settled n h
      cancelled
      others
      reserved := fun n => ?_
      receipt := ?_
      asked := ?_
      frame := by rw [frame] }
  · by_cases h : s.hoses[n].state.isActive = true
    · rw [active n h, (settled n h).1]
      simp [State.stoppedContext]
    · have h : s.hoses[n].state.isActive = false := by simpa using h
      by_cases c : s.hoses[n].state = .identified ∨ s.hoses[n].state = .armed
      · rw [cancelled n c]
        unfold State.atRest Hose.bare
        dsimp only
        split_ifs <;> decide
      · rw [not_or] at c
        rw [others n h c.1 c.2]
        exact fun e => by rw [e] at h; cases h
  · have log : u.log = s.log := by rw [settles.frame]
    have armed : (n ∈ s.cancellable ∧ u.hoses[n].state = .armed) ↔ s.hoses[n].state = .armed := by
      rw [s.mem_cancellable]
      constructor
      · rintro ⟨c, e⟩
        rwa [inactive n (by rcases c with c | c <;> rw [c] <;> rfl)] at e
      · intro e
        exact ⟨Or.inr e, by rw [inactive n (by rw [e]; rfl)]; exact e⟩
    rw [cancels.reserved, log, decide_eq_decide.mpr armed, decide_not]
  · rw [cancels.receipt, settles.frame]
  · have same : SameLink u s := by
      rw [settles.frame]
      exact ⟨rfl, rfl, rfl, rfl⟩
    have idle : ∀ n ∈ allHoses, (s.hoses[n].state == .identified || s.hoses[n].state == .armed) = false →
        ∀ v, State.askArmed s.hoses n v = v := fun n _ h v =>
      if_neg fun e => by rw [e] at h; cases h
    have agree : ∀ n ∈ s.cancellable, u.hoses[n] = s.hoses[n] := fun n h =>
      inactive n (by rcases (s.mem_cancellable n).mp h with e | e <;> rw [e] <;> rfl)
    have asked := same.forEach_askArmed u.hoses s.hoses s.cancellable agree
    rw [State.askedByArmed_eq, ← State.forEach_filter _ allHoses _ s idle]
    exact ⟨cancels.asked.link.trans asked.link, cancels.asked.port.trans asked.port⟩

/-! ## What subjects asked for add (R150, R175) -/

/-- From `u` to `v` the queues of subjects and events have grown by no more than `b`, and lost nothing. -/
structure GrowsBy (b : Nat) (u v : State) : Prop where
  mask : v.port.mask = u.port.mask
  events : v.port.events.length ≤ u.port.events.length + b
  queue : v.link.queue.length ≤ u.link.queue.length + b
  kept : ∀ x ∈ u.link.queue, x ∈ v.link.queue

theorem GrowsBy.refl (s : State) : GrowsBy 0 s s := ⟨rfl, Nat.le_refl _, Nat.le_refl _, fun _ h => h⟩

theorem GrowsBy.trans {a b : Nat} {u v w : State} (h : GrowsBy a u v) (g : GrowsBy b v w) :
    GrowsBy (a + b) u w where
  mask := g.mask.trans h.mask
  events := by have := h.events; have := g.events; omega
  queue := by have := h.queue; have := g.queue; omega
  kept := fun x hx => g.kept x (h.kept x hx)

theorem State.post_grows (kind : EventKind) (subject : EventSubject) (value : Int) (s : State) :
    GrowsBy 1 s (s.post kind subject value) := by
  refine ⟨State.post_mask .., ?_, by simp, by simp⟩
  rcases State.post_cases kind subject value s with e | ⟨-, e⟩ | e <;> rw [e] <;> simp

theorem State.ask_grows (sub : Subject) (s : State) : GrowsBy 1 s (s.ask sub) := by
  rcases State.ask_cases sub s with ⟨-, e⟩ | ⟨-, -, e⟩ | ⟨-, -, e⟩ <;> rw [e]
  · exact ⟨rfl, Nat.le_succ _, Nat.le_succ _, fun _ h => h⟩
  · exact s.post_grows _ _ _
  · have drawn : (State.draw { s with link := { s.link with queue := s.link.queue ++ [sub] } }).link.queue =
        s.link.queue ++ [sub] := by
      rcases State.draw_cases { s with link := { s.link with queue := s.link.queue ++ [sub] } } with d | d
      · rw [d]
      · obtain ⟨g, -, -, -, -, -, d⟩ := d
        rw [d]
    refine ⟨by simp, by simp, ?_, fun x hx => ?_⟩
    · rw [drawn]; simp
    · rw [drawn]; exact List.mem_append_left _ hx

theorem State.askArmed_grows (hoses : Vector Hose 4) (n : HoseId) (s : State) :
    GrowsBy 1 s (s.askArmed hoses n) := by
  unfold State.askArmed
  split_ifs
  · exact s.ask_grows _
  · exact ⟨rfl, Nat.le_succ _, Nat.le_succ _, fun _ h => h⟩

theorem State.forEach_askArmed_grows (hoses : Vector Hose 4) (l : List HoseId) (s : State) :
    GrowsBy l.length s (s.forEach l (State.askArmed hoses)) := by
  induction l generalizing s with
  | nil => exact GrowsBy.refl s
  | cons a rest ih =>
    rw [List.length_cons, Nat.add_comm]
    exact (s.askArmed_grows hoses a).trans (ih _)

/-- Each ARMED hose's subject waits once all have asked, where the queue had room for all. -/
theorem State.forEach_askArmed_mem (hoses : Vector Hose 4) (l : List HoseId) (n : HoseId) (s : State)
    (mem : n ∈ l) (armed : hoses[n].state = .armed)
    (room : s.link.queue.length + l.length ≤ Config.subjectRoom) :
    Subject.machine hoses[n].identity.ring ∈ (s.forEach l (State.askArmed hoses)).link.queue := by
  induction l generalizing s with
  | nil => cases mem
  | cons a rest ih =>
    rw [List.length_cons] at room
    rcases List.mem_cons.mp mem with rfl | mem
    · refine ((s.askArmed hoses n).forEach_askArmed_grows hoses rest).kept _ ?_
      rw [State.askArmed, if_pos armed]
      exact State.ask_mem _ s (by omega)
    · have := (s.askArmed_grows hoses a).queue
      exact ih (s.askArmed hoses a) mem (by omega)

/-- A posting with its kind not masked and with room in the queue stands at the tail (R175). -/
theorem State.post_queued (kind : EventKind) (subject : EventSubject) (value : Int) (s : State)
    (shown : s.port.mask.getLsbD (kind.code - 1) = false)
    (room : s.port.events.length < Config.eventRoom) :
    (s.post kind subject value).port.events =
      s.port.events ++ [{ kind, subject, value, postedAt := s.nowSec }] := by
  simp only [State.post, shown, room, if_true, Bool.false_eq_true, if_false]

/-! ## The number of hoses reached (R55) -/

theorem hoses_toList (v : Vector Hose 4) : v.toList = allHoses.map fun n => v[n] := by
  have place : ∀ (i : Nat) (h : i < 4), (allHoses[i]'h).val = i := by decide
  refine List.ext_getElem (by simp [allHoses]) fun i hi _ => ?_
  have same := place i (by simpa using hi)
  rw [Vector.getElem_toList, List.getElem_map]
  exact getElem_congr_idx same.symm

theorem countP_or_of_disjoint {α : Type} (p q : α → Bool) (l : List α)
    (apart : ∀ a, p a = true → q a = false) :
    l.countP (fun a => p a || q a) = l.countP p + l.countP q := by
  induction l with
  | nil => rfl
  | cons a rest ih =>
    have := apart a
    cases hp : p a <;> cases hq : q a <;> simp_all <;> omega

theorem State.stopCount_eq (s : State) :
    s.stopCount = s.hoses.toList.countP fun h =>
      h.state.isActive || h.state == .identified || h.state == .armed := by
  simp only [Bool.or_assoc]
  rw [countP_or_of_disjoint (fun h : Hose => h.state.isActive)
    (fun h => h.state == .identified || h.state == .armed) _ ?_]
  · rw [hoses_toList, List.countP_map, List.countP_map, List.countP_eq_length_filter,
      List.countP_eq_length_filter]
    rfl
  · intro h active
    cases e : h.state <;> rw [e] at active <;> first | rfl | cases active

/-! ## The emergency-stop line (R55) -/

theorem exec_estopAssertion_unsealed (s : State) (h : s.isSealed = false) :
    exec .estopAssertion s = .next { s with pins := { s.pins with estop := true } } :=
  congrArg Host.Outcome.next (if_neg (by simp [h]))

theorem exec_estopAssertion_sealed (s : State) (h : s.isSealed = true) :
    exec .estopAssertion s = .next
      (State.emergencyStop { s with pins := { s.pins with estop := true } }) :=
  congrArg Host.Outcome.next (if_pos h)

/-- Settles O32: the response by `State.stopAll_stops`, then the posting and the subjects of the ARMED hoses. -/
theorem estopStopsEverything : Obligations.EstopStopsEverything := by
  unfold Obligations.EstopStopsEverything
  intro s moved reached
  refine ⟨rfl, exec_estopAssertion_unsealed s, fun on => ?_⟩
  let v : State := { moved true with estopLatch := true }
  have stops : StopsEverything .estop v (v.stopAll .estop) := v.stopAll_stops .estop
  have count : (moved true).stopCount = reached := (moved true).stopCount_eq
  have grows := v.forEach_askArmed_grows v.hoses allHoses
  rw [← State.askedByArmed_eq] at grows
  obtain ⟨link, port⟩ := stops.asked
  refine ⟨_, v.stopAll .estop, exec_estopAssertion_sealed s on, stops, ?_, ?_, fun shown room => ?_,
    fun n armed room => ?_⟩
  · unfold State.emergencyStop
    rw [count]
  · have latch : (v.stopAll .estop).estopLatch = true := by rw [stops.frame]
    simpa [State.emergencyStop] using latch
  · have mask : (v.stopAll .estop).port.mask = s.port.mask := by rw [port]; exact grows.mask
    have events : (v.stopAll .estop).port.events.length ≤ s.port.events.length + 4 := by
      rw [port]; exact grows.events
    have second : (v.stopAll .estop).nowSec = s.now / 1000000 := by rw [stops.frame]; rfl
    unfold State.emergencyStop
    rw [count, State.post_queued _ _ _ _ (by rw [mask]; exact shown) (Nat.lt_succ_of_le (events.trans (Nat.add_le_add_right room 4))),
      List.getLast?_concat, second]
  · have waits : Subject.machine s.hoses[n].identity.ring ∈ (v.stopAll .estop).link.queue := by
      rw [link, State.askedByArmed_eq]
      exact v.forEach_askArmed_mem v.hoses allHoses n (mem_allHoses n) armed
        (Nat.add_le_add_right room 4)
    simpa [State.emergencyStop] using waits

/-! ## The pump fault lines (R58, R80) -/

/-- What a pump fault leaves (R58, R80). -/
structure FaultsPump (k : CompId) (s t : State) : Prop where
  frame : t = { s with
    hoses := t.hoses, pumps := s.pumps.set k (s.pumps[k].halted .fault), port := t.port }
  posted : t.port = (s.post .pumpFault (.comp k)
    (allHoses.countP fun n => s.hoses[n].state.isActive && decide (s.hoseComp n = k) : Nat)).port
  settled : ∀ n : HoseId, s.hoses[n].state.isActive = true → s.hoseComp n = k →
    t.hoses[n] = s.stoppedContext n .pumpFault t.hoses[n].journal ∧
    t.hoses[n].journal = some (t.hoses[n].toJournal n k)
  others : ∀ n : HoseId, s.hoses[n].state.isActive = false ∨ s.hoseComp n ≠ k → t.hoses[n] = s.hoses[n]

theorem State.pumpFault_faults (k : CompId) (s : State) : FaultsPump k s (s.pumpFault k) := by
  let reached := s.activeHoses.filter fun n => decide (s.hoseComp n = k)
  have mem (n : HoseId) : n ∈ reached ↔ s.hoses[n].state.isActive = true ∧ s.hoseComp n = k := by
    simp only [reached, List.mem_filter, State.mem_activeHoses, decide_eq_true_eq]
  have count : reached.length =
      allHoses.countP fun n => s.hoses[n].state.isActive && decide (s.hoseComp n = k) := by
    simp only [reached, State.activeHoses, List.filter_filter, List.countP_eq_length_filter, Bool.and_comm]
  let v := s.setPump k (s.pumps[k].halted .fault)
  have halted (n : HoseId) (h : n ∈ reached) : (v.pumpOf n).IsHalted := by
    have own : v.pumpOf n = s.pumps[k].halted .fault := by
      exact (s.setPump_get k (s.hoseComp n) _).trans (if_pos ((mem n).mp h).2)
    rw [own]
    exact Pump.halted_isHalted _ _ (Or.inr rfl)
  have settles := v.forEach_settles reached .pumpFault ((allHoses_nodup.filter _).filter _) halted
  unfold State.pumpFault
  dsimp only
  rw [show (s.activeHoses.filter fun n => decide (s.hoseComp n = k)) = reached from rfl, count]
  generalize v.forEach reached (fun n => State.enterSettling n .pumpFault) = u at settles
  have hoses : (u.post .pumpFault (.comp k)
      (allHoses.countP fun n => s.hoses[n].state.isActive && decide (s.hoseComp n = k) : Nat)).hoses =
      u.hoses := by simp
  have same : SameLink u s := by
    rw [settles.frame]
    exact ⟨rfl, rfl, rfl, rfl⟩
  refine ⟨?_, (same.post _ _ _).port, fun n active comp => ?_, fun n out => ?_⟩
  · rw [State.post_eq, settles.frame]
    rfl
  · rw [hoses]
    obtain ⟨context, journal⟩ := settles.settled n ((mem n).mpr ⟨active, comp⟩)
    rw [← comp]
    exact ⟨context, journal⟩
  · rw [hoses]
    refine settles.others n fun h => ?_
    obtain ⟨active, comp⟩ := (mem n).mp h
    rcases out with e | e
    · rw [active] at e; cases e
    · exact e comp

theorem exec_pfltAssertion_unsealed (k : CompId) (s : State) (h : s.isSealed = false) :
    exec (.pfltAssertion k) s = .next { s with pins := { s.pins with pflt := s.pins.pflt.set k true } } :=
  congrArg Host.Outcome.next (if_neg (by simp [h]))

theorem exec_pfltAssertion_sealed (k : CompId) (s : State) (h : s.isSealed = true) :
    exec (.pfltAssertion k) s = .next
      (State.pumpFault k { s with pins := { s.pins with pflt := s.pins.pflt.set k true } }) :=
  congrArg Host.Outcome.next (if_pos h)

theorem exec_pfltRelease_stays (k : CompId) (s : State)
    (h : ¬ (s.isSealed = true ∧ s.pumps[k].state = .fault)) :
    exec (.pfltRelease k) s = .next { s with pins := { s.pins with pflt := s.pins.pflt.set k false } } :=
  congrArg Host.Outcome.next (if_neg h)

theorem exec_pfltRelease_faulted (k : CompId) (s : State) (on : s.isSealed = true)
    (h : s.pumps[k].state = .fault) :
    exec (.pfltRelease k) s = .next { s with
      pins := { s.pins with pflt := s.pins.pflt.set k false }
      pumps := s.pumps.set k (s.pumps[k].halted .off) } :=
  congrArg Host.Outcome.next (if_pos ⟨on, h⟩)

/-- Settles O33: the assertion by `State.pumpFault_faults`, the release by the state of the pump. -/
theorem pumpFaultStopsClaimants : Obligations.PumpFaultStopsClaimants := by
  unfold Obligations.PumpFaultStopsClaimants
  intro k s moved
  refine ⟨fun off => ⟨exec_pfltAssertion_unsealed k s off,
    exec_pfltRelease_stays k s fun h => by rw [off] at h; cases h.1⟩, fun on => ?_,
    fun _ sound => exec_pfltRelease_stays k s fun h => sound h.2, fun on fault =>
    ⟨_, exec_pfltRelease_faulted k s on fault, rfl, rfl, rfl, rfl, rfl, rfl, rfl, fun n =>
      ⟨Pump.halted_claims _ _ n, Pump.halted_grants _ _ n⟩⟩⟩
  have faults := (moved true).pumpFault_faults k
  have own : ((moved true).pumpFault k).pumps[k] = s.pumps[k].halted .fault := by
    rw [faults.frame]
    exact s.setPump_same k _
  have off : ((moved true).pumpFault k).prun k = false := by
    unfold State.prun
    rw [own]
    rfl
  refine ⟨_, exec_pfltAssertion_sealed k s on, ?_, ?_⟩
  · exact faults.posted.trans (SameLink.post (u := moved true) (v := s) ⟨rfl, rfl, rfl, rfl⟩ _ _ _).port
  · rw [own]
    refine ⟨rfl, rfl, rfl, rfl, rfl, off, fun n => ⟨Pump.halted_claims _ _ n, Pump.halted_grants _ _ n,
      by simp [Pump.halted]⟩, fun j ne => ?_, fun n => ⟨faults.settled n, faults.others n⟩, ?_⟩
    · rw [faults.frame]
      exact s.setPump_other k j _ ne
    · rw [faults.frame]

end Sys2Proof.Machine
end

section
/-! The valves, and the commands ESTOP_CLEAR, SET_PRESET and STOP (03, R49, R50, R54, R56; 05, R82). -/

namespace Sys2Proof.Machine

/-! ## The stage of a hose (R54, R82) -/

/-- A FLOWING hose drives the stage of its step, FULL as SLOW without a grant. -/
theorem State.drivenStage_flowing (n : HoseId) (x : StepState) (s : State) (h : s.hoses[n].state = .flowing)
    (step : s.hoses[n].step = some x) :
    (x.stage = .closed → s.drivenStage n = .closed) ∧
    (x.stage = .slow → s.drivenStage n = .slow) ∧
    (x.stage = .full → s.granted n = true → s.drivenStage n = .full) ∧
    (x.stage = .full → s.granted n = false → s.drivenStage n = .slow) := by
  unfold State.drivenStage
  rw [h, step]
  refine ⟨fun e => ?_, fun e => ?_, fun e held => ?_, fun e free => ?_⟩ <;> simp only [e]
  · exact if_pos held
  · exact if_neg (ne_true_of_eq_false free)

theorem State.flowing_of_open (n : HoseId) (s : State) (h : s.drivenStage n ≠ .closed) :
    s.hoses[n].state = .flowing := by
  by_contra other
  exact h (s.drivenStage_closed n other)

/-- A hose whose stage is FULL holds a grant (R82). -/
theorem State.granted_of_full (n : HoseId) (s : State) (h : s.drivenStage n = .full) :
    s.granted n = true := by
  have flowing := s.flowing_of_open n (by rw [h]; decide)
  cases step : s.hoses[n].step with
  | none => simp only [State.drivenStage, flowing, step] at h; cases h
  | some x =>
    obtain ⟨closed, slow, -, free⟩ := s.drivenStage_flowing n x flowing step
    by_contra without
    cases e : x.stage with
    | closed => rw [closed e] at h; cases h
    | slow => rw [slow e] at h; cases h
    | full => rw [free e (by simpa using without)] at h; cases h

theorem FlowInv.unlatched {s : State} (inv : FlowInv s) (n : HoseId)
    (h : s.hoses[n].state.isActive = true ∨ s.hoses[n].state = .armed) :
    s.estopLatch = false ∧ s.metroFault = false := by
  by_contra latch
  have latched := inv.latched (by
    cases e : s.estopLatch <;> cases m : s.metroFault <;> simp [e, m] at latch ⊢) n
  rcases h with h | h
  · rw [latched.1] at h; cases h
  · exact latched.2 h

/-- Settles O5: the first clause from FlowInv, the second from the stage of a FLOWING hose. -/
theorem valvesOpenOnlyWhenSafe : Obligations.ValvesOpenOnlyWhenSafe := by
  unfold Obligations.ValvesOpenOnlyWhenSafe
  refine ⟨fun s inv n opened => ?_, fun n s => ?_⟩
  · have flowing := s.flowing_of_open n opened
    exact ⟨flowing, inv.flowing n flowing, inv.unlatched n (Or.inl (by rw [flowing]; rfl))⟩
  · refine ⟨s.drivenStage_closed n, fun x => s.drivenStage_flowing n x, s.granted_of_full n, ?_, ?_, ?_⟩
    all_goals
      intro e
      simp only [State.vslow, State.vfull, e]
      decide

/-! ## ESTOP_CLEAR (R56) -/

/-- Settles O28, by the latch and the line. -/
theorem estopClearClearsLatch : Obligations.EstopClearClearsLatch := by
  unfold Obligations.EstopClearClearsLatch
  intro tag s
  have body (on : s.isSealed = true) : estopClearBody s.beginExchange =
      if s.estopLatch = false then (s.beginExchange, Reply.ok [flag8 false])
      else if s.pins.estop then (s.beginExchange, Reply.refuse .wrongState)
      else ({ s.beginExchange with estopLatch := false }, Reply.ok [flag8 true]) :=
    afterSeal_sealed _ s.beginExchange on
  refine ⟨fun off => ?_, fun on clear => ?_, fun on latched asserted => ?_, fun on latched released => ?_⟩
  · exact State.command_refuse 0x24 tag _ _ s (afterSeal_unsealed _ s.beginExchange off)
  · exact State.command_ok 0x24 tag _ _ _ s ((body on).trans (if_pos clear))
  · exact State.command_refuse 0x24 tag _ _ s
      ((body on).trans ((if_neg (by simp [latched])).trans (if_pos asserted)))
  · exact State.command_ok 0x24 tag _ _ _ s
      ((body on).trans ((if_neg (by simp [latched])).trans (if_neg (by simp [released]))))

/-! ## SET_PRESET (R49) -/

theorem HoseState.takesPreset_iff (st : HoseState) :
    st.takesPreset = true ↔ st ∈ [HoseState.armed, .priming, .flowing, .paused] := by
  cases st <;> decide

section
variable (hose : Byte) (preset : BitVec 32) (n : HoseId) (s : State)

theorem setPresetBody_noHose (on : s.isSealed = true) (h : 4 ≤ hose.toNat) :
    setPresetBody hose preset s = (s, Reply.refuse .badParam) := by
  rw [setPresetBody, afterSeal_sealed _ s on, hoseOf_eq_none hose h]

theorem setPresetBody_wrongState (on : s.isSealed = true) (h : hose.toNat = n.val)
    (st : s.hoses[n].state.takesPreset = false) :
    setPresetBody hose preset s = (s, Reply.refuse .wrongState) := by
  rw [setPresetBody, afterSeal_sealed _ s on, hoseOf_eq_some hose n h]
  exact if_neg (ne_true_of_eq_false st)

theorem setPresetBody_changes (on : s.isSealed = true) (h : hose.toNat = n.val)
    (st : s.hoses[n].state.takesPreset = true) (i : Ident) (e : Entry) (ident : s.hoses[n].ident = some i)
    (entry : s.entryAt i.slot = some e) :
    setPresetBody hose preset s = s.changePreset n i e preset.toNat := by
  have identity : s.hoses[n].identity = i := by rw [Hose.identity, ident]; rfl
  rw [setPresetBody, afterSeal_sealed _ s on, hoseOf_eq_some hose n h]
  refine (if_pos st).trans ?_
  simp only [identity, entry]

end

theorem packFields_preset (free granted limit : Nat) (small : limit ≤ 30000000) (within : granted ≤ limit) :
    packFields free 0 [u32 granted, u32 limit] = beBytes 4 granted ++ beBytes 4 limit := by
  simp [packFields, u32_bytes free 0 granted (by omega), u32_bytes free 1 limit (by omega)]

/-- Settles O27, by the outcomes of SET_PRESET's body. -/
theorem setPresetHoldsGrant : Obligations.SetPresetHoldsGrant := by
  unfold Obligations.SetPresetHoldsGrant
  intro tag n preset s on
  refine ⟨fun i e st ident entry => ?_, fun st => ?_, fun hose large => ?_⟩
  · intro limit granted
    have body := setPresetBody_changes (BitVec.ofNat 8 n.val) preset n s.beginExchange on (hoseByte_toNat n)
      ((HoseState.takesPreset_iff _).mpr st) i e ident entry
    have isGranted : grantPreset preset.toNat limit = granted := grantPreset_word preset limit
    refine (State.command_ok 0x22 tag _ _ _ s body).trans ?_
    rw [packFields_preset _ _ _ (State.limit_le ..) (grantPreset_le ..), ← isGranted]
    rfl
  · have st : s.hoses[n].state.takesPreset = false :=
      Bool.eq_false_iff.mpr (mt (HoseState.takesPreset_iff _).mp st)
    exact State.command_refuse 0x22 tag _ _ s
      (setPresetBody_wrongState _ preset n s.beginExchange on (hoseByte_toNat n) st)
  · exact State.command_refuse 0x22 tag _ _ s (setPresetBody_noHose hose preset s.beginExchange on large)

/-! ## STOP (R50) -/

theorem stopBody_noHose (hose : Byte) (s : State) (on : s.isSealed = true) (h : 4 ≤ hose.toNat) :
    stopBody hose s = (s, Reply.refuse .badParam) := by
  rw [stopBody, afterSeal_sealed _ s on, hoseOf_eq_none hose h]

theorem HoseState.code_lt (st : HoseState) : st.code < 256 := by cases st <;> decide

/-- STOP answers the state before it. -/
theorem exec_stop (tag : Byte) (n : HoseId) (s : State) (on : s.isSealed = true) :
    exec (.stop tag (BitVec.ofNat 8 n.val)) s = .next ((s.beginExchange.stopHose n).holding
      (replyBytes 0x21 tag 0 [BitVec.ofNat 8 s.hoses[n].state.code])) := by
  have body : stopBody (BitVec.ofNat 8 n.val) s.beginExchange =
      (s.beginExchange.stopHose n, Reply.ok [u8 s.hoses[n].state.code]) := by
    rw [stopBody, afterSeal_sealed _ s.beginExchange on, hoseOf_eq_some _ n (hoseByte_toNat n)]
    rfl
  refine (State.command_ok 0x21 tag _ _ _ s body).trans ?_
  simp only [packFields, u8_bytes _ 0 _ (HoseState.code_lt _), List.append_nil]

theorem State.stopHose_stays (n : HoseId) (s : State)
    (h : s.hoses[n].state = .idle ∨ s.hoses[n].state = .finished ∨ s.hoses[n].state = .settling ∨
      s.hoses[n].state = .offline) : s.stopHose n = s := by
  rcases h with h | h | h | h <;> simp only [State.stopHose, h]

theorem State.stopHose_reading (n : HoseId) (s : State) (h : s.hoses[n].state = .reading) :
    s.stopHose n = (s.abandonRead n).setHose n (Hose.bare .finished s.hoses[n].journal) := by
  simp only [State.stopHose, h]

theorem State.stopHose_cancels (n : HoseId) (s : State)
    (h : s.hoses[n].state = .identified ∨ s.hoses[n].state = .unidentified ∨ s.hoses[n].state = .armed) :
    s.stopHose n = s.cancel n := by
  rcases h with h | h | h <;> simp only [State.stopHose, h]

theorem State.stopHose_settles (n : HoseId) (s : State)
    (h : s.hoses[n].state = .priming ∨ s.hoses[n].state = .flowing ∨ s.hoses[n].state = .paused) :
    s.stopHose n = s.enterSettling n .hostStop := by
  rcases h with h | h | h <;> simp only [State.stopHose, h]

/-- Settles O26, by the state of the hose. -/
theorem stopActsByState : Obligations.StopActsByState := by
  unfold Obligations.StopActsByState
  intro tag n s on inv st reply stops
  have stop := exec_stop tag n s on
  have same : s.beginExchange.hoses[n].state = s.hoses[n].state := rfl
  refine ⟨fun h => ?_, fun h => ?_, fun h => ?_, fun h => ?_, fun hose large => ?_⟩
  · rw [s.beginExchange.stopHose_stays n h] at stop
    exact stop
  · rw [s.beginExchange.stopHose_reading n h] at stop
    exact stop
  · rw [s.beginExchange.stopHose_cancels n h, State.cancel_eq_cancelled] at stop
    exact stop
  · rw [s.beginExchange.stopHose_settles n h] at stop
    exact ⟨_, stop, s.beginExchange.enterSettling_settles n .hostStop (inv.apart (s.hoseComp n) n)⟩
  · exact State.command_refuse 0x21 tag _ _ s (stopBody_noHose hose s.beginExchange on large)

end Sys2Proof.Machine
end

section
/-! The expiries of a hose, the pause and the resume of a delivery (03, R42, R43, R45, R47, R48; 04, R72; 05, R82 to
R84). -/

namespace Sys2Proof.Machine

/-! ## Expiries (R42, R43, R48) -/

theorem exec_armExpiry_cancels (n : HoseId) (due : Nat) (s : State) (h : s.hoses[n].armExpiry = some due)
    (st : s.hoses[n].state = .identified ∨ s.hoses[n].state = .armed) :
    exec (.armExpiry n) s = .next
      (((s.reachSec due).cancel n).post .armExpired (.hose n) s.hoses[n].state.code) := by
  show execArmExpiry n s = _
  unfold execArmExpiry
  rw [h]
  exact congrArg Host.Outcome.next (if_pos st)

theorem exec_pauseExpiry_settles (n : HoseId) (due : Nat) (s : State)
    (h : s.hoses[n].pauseExpiry = some due) (st : s.hoses[n].state = .paused) :
    exec (.pauseExpiry n) s = .next ((s.reachSec due).enterSettling n .pauseTimeout) := by
  show execPauseExpiry n s = _
  unfold execPauseExpiry
  rw [h]
  exact congrArg Host.Outcome.next (if_pos st)

theorem exec_armExpiry_absent (n : HoseId) (s : State) (h : s.hoses[n].armExpiry = none) :
    exec (.armExpiry n) s = .next s := by
  show execArmExpiry n s = _
  unfold execArmExpiry
  rw [h]

theorem exec_pauseExpiry_absent (n : HoseId) (s : State) (h : s.hoses[n].pauseExpiry = none) :
    exec (.pauseExpiry n) s = .next s := by
  show execPauseExpiry n s = _
  unfold execPauseExpiry
  rw [h]

/-- Settles O37, timer by timer. -/
theorem hoseExpiriesEndWaiting : Obligations.HoseExpiriesEndWaiting := by
  unfold Obligations.HoseExpiriesEndWaiting
  intro n s inv
  refine ⟨fun due timer st => ?_, fun due timer st => ?_, exec_armExpiry_absent n s, exec_pauseExpiry_absent n s⟩
  · rw [exec_armExpiry_cancels n due s timer st, State.cancel_eq_cancelled]
    rfl
  · exact ⟨_, exec_pauseExpiry_settles n due s timer st,
      (s.reachSec due).enterSettling_settles n .pauseTimeout (inv.apart (s.hoseComp n) n)⟩

/-! ## The demand selected anew, again (R84) -/

/-- A pump in place, with its demand selected anew. -/
theorem State.reselect_pumps (k : CompId) (p : Pump) (pumps : Vector Pump 2) (s : State)
    (h : s.pumps = pumps.set k p) :
    (s.reselect k).pumps = pumps.set k { p with demand := (s.reselect k).selectedDemand k } := by
  rw [State.selectedDemand_reselect]
  show s.pumps.set k _ = _
  have own : s.pumps[k] = p := by rw [h]; simp
  rw [own, h]
  simp

theorem State.reselect_reselect (k : CompId) (s : State) : (s.reselect k).reselect k = s.reselect k := by
  have own : (s.reselect k).pumps[k] = { s.pumps[k] with demand := s.selectedDemand k } :=
    s.setPump_same k _
  have same : { (s.reselect k).pumps[k] with demand := (s.reselect k).selectedDemand k } =
      (s.reselect k).pumps[k] := by
    rw [State.selectedDemand_reselect, own]
  unfold State.reselect at same ⊢
  exact (congrArg (fun p => State.setPump k p _) same).trans (State.setPump_self k _)

/-! ## Entry to FLOWING (R45, R72, R82) -/

theorem Pump.request_keeps (maxFull : Nat) (n : HoseId) (p : Pump) :
    (p.request maxFull n).state = p.state ∧ (p.request maxFull n).claims = p.claims ∧
      (p.request maxFull n).runOn = p.runOn ∧ (p.request maxFull n).spinUp = p.spinUp := by
  unfold Pump.request
  split_ifs <;> exact ⟨rfl, rfl, rfl, rfl⟩

/-- A hose's context at its entry to FLOWING with a step. -/
def Hose.flowing (st : StepState) (h : Hose) : Hose :=
  { h with state := .flowing, beenFlowing := true, pauseExpiry := none, step := some st }

/-- A pump asked for a grant by a hose that enters a step, where the step's stage is FULL. -/
def Pump.entered (st : StepState) (maxFull : Nat) (n : HoseId) (p : Pump) : Pump :=
  if st.stage = .full then p.request maxFull n else p

theorem Pump.entered_keeps (st : StepState) (maxFull : Nat) (n : HoseId) (p : Pump) :
    (p.entered st maxFull n).state = p.state ∧ (p.entered st maxFull n).claims = p.claims ∧
      (p.entered st maxFull n).runOn = p.runOn ∧ (p.entered st maxFull n).spinUp = p.spinUp := by
  unfold Pump.entered
  split_ifs
  · exact Pump.request_keeps maxFull n p
  · exact ⟨rfl, rfl, rfl, rfl⟩

/-- What an entry to FLOWING leaves, from `s` to `t`. -/
structure EntersFlowing (n : HoseId) (s t : State) : Prop where
  hoses : t.hoses = s.hoses.set n (s.hoses[n].flowing (s.hoses[n].flowingStep (s.profileOf n)))
  pumps : t.pumps = s.pumps.set (s.hoseComp n)
    { Pump.entered (s.hoses[n].flowingStep (s.profileOf n)) (s.maxFull (s.hoseComp n)) n (s.pumpOf n) with
      demand := t.selectedDemand (s.hoseComp n) }
  frame : t = { s with hoses := t.hoses, pumps := t.pumps }

theorem State.enterFlowing_enters (n : HoseId) (s : State) : EntersFlowing n s (s.enterFlowing n) := by
  let st := s.hoses[n].flowingStep (s.profileOf n)
  let v := s.setHose n (s.hoses[n].flowing st)
  have asked : (if st.stage = .full then v.requestGrant n else v) =
      { v with
        pumps := s.pumps.set (s.hoseComp n) ((s.pumpOf n).entered st (s.maxFull (s.hoseComp n)) n) } := by
    unfold Pump.entered
    split_ifs
    · rfl
    · exact (v.setPump_self (s.hoseComp n)).symm
  have entered : s.enterFlowing n =
      (if st.stage = .full then v.requestGrant n else v).reselect (s.hoseComp n) := by
    unfold State.enterFlowing
    dsimp only
    split_ifs <;> rfl
  rw [entered, asked]
  exact ⟨rfl, State.reselect_pumps _ _ _ _ rfl, rfl⟩

theorem State.enterFlowing_reselect (n : HoseId) (s : State) :
    (s.enterFlowing n).reselect (s.hoseComp n) = s.enterFlowing n := by
  unfold State.enterFlowing
  dsimp only
  split_ifs <;> exact State.reselect_reselect (s.hoseComp n) _

/-- The step at an entry to FLOWING (R45, R72): the frozen one, or the first of the profile. -/
theorem Hose.flowingStep_eq (p : List ProfileStep) (h : Hose) :
    (∀ st, h.beenFlowing = true → h.step = some st → h.flowingStep p = { st with handed := st.stage }) ∧
    (h.beenFlowing = false → h.flowingStep p = firstStep p) := by
  refine ⟨fun st been step => ?_, fun been => ?_⟩
  · simp only [Hose.flowingStep, been, step]
  · simp only [Hose.flowingStep, been]

/-! ## The pause (R47) -/

/-- What a pause leaves, from `s` to `t`. -/
structure Pauses (n : HoseId) (s t : State) : Prop where
  hoses : t.hoses = s.hoses.set n { s.hoses[n] with
    state := .paused, pauseExpiry := some (s.now / 1000000 + s.pauseMax) }
  pumps : t.pumps = s.pumps.set (s.hoseComp n)
    { Pump.giveUp n (s.pumpOf n) with demand := t.selectedDemand (s.hoseComp n) }
  frame : t = { s with hoses := t.hoses, pumps := t.pumps }

theorem State.pause_pauses (n : HoseId) (s : State) : Pauses n s (s.pause n) :=
  ⟨rfl, State.reselect_pumps (s.hoseComp n) (Pump.giveUp n (s.pumpOf n)) s.pumps _ rfl, rfl⟩

/-! ## The resume (R48) -/

theorem State.hoseComp_of_config (n : HoseId) (s t : State) (h : t.config = s.config) :
    t.hoseComp n = s.hoseComp n := by
  unfold State.hoseComp State.item
  rw [h]

/-- A PRIMING hose enters FLOWING where its pump is RUNNING, and the demand is selected anew (R45, R48). -/
def State.flowOrWait (n : HoseId) (s : State) : State :=
  let s := if (s.pumpOf n).state = .running then s.enterFlowing n else s
  s.reselect (s.hoseComp n)

theorem State.flowOrWait_flows (n : HoseId) (s : State) (h : (s.pumpOf n).state = .running) :
    s.flowOrWait n = s.enterFlowing n := by
  unfold State.flowOrWait
  rw [if_pos h]
  dsimp only
  rw [State.hoseComp_of_config n s (s.enterFlowing n) (by simp)]
  exact s.enterFlowing_reselect n

theorem State.flowOrWait_waits (n : HoseId) (s : State) (h : (s.pumpOf n).state ≠ .running) :
    s.flowOrWait n = s.reselect (s.hoseComp n) := by
  unfold State.flowOrWait
  rw [if_neg h]

/-- The hose of a resume before its entry to FLOWING. -/
def State.reprimed (n : HoseId) (s : State) : State :=
  s.setHose n { s.hoses[n] with state := .priming, pauseExpiry := none }

theorem State.resume_eq (n : HoseId) (s : State) : s.resume n = (s.reprimed n).flowOrWait n := rfl

/-! ## The deadman line (R38) -/

theorem exec_deadmanHeld_stays (n : HoseId) (s : State) (armed : s.hoses[n].state ≠ .armed)
    (paused : s.hoses[n].state ≠ .paused) : exec (.deadmanHeld n) s = .next (s.setDeadman n true) := by
  show execDeadmanHeld n s = _
  have same : (s.setDeadman n true).hoses[n].state = s.hoses[n].state := rfl
  unfold execDeadmanHeld
  dsimp only
  cases st : s.hoses[n].state <;> rw [same, st] <;> first | exact absurd st armed | exact absurd st paused

theorem exec_deadmanHeld_faulted (n : HoseId) (s : State) (armed : s.hoses[n].state = .armed)
    (fault : (s.pumpOf n).state = .fault) : exec (.deadmanHeld n) s = .next (s.setDeadman n true) := by
  have same : (s.setDeadman n true).hoses[n].state = .armed := armed
  show execDeadmanHeld n s = _
  unfold execDeadmanHeld
  dsimp only
  rw [same]
  exact congrArg Host.Outcome.next (if_pos fault)

theorem exec_deadmanHeld_starts (n : HoseId) (s : State) (armed : s.hoses[n].state = .armed)
    (sound : (s.pumpOf n).state ≠ .fault) :
    exec (.deadmanHeld n) s = .next ((s.setDeadman n true).startDelivery n) := by
  have same : (s.setDeadman n true).hoses[n].state = .armed := armed
  show execDeadmanHeld n s = _
  unfold execDeadmanHeld
  dsimp only
  rw [same]
  exact congrArg Host.Outcome.next (if_neg sound)

theorem exec_deadmanHeld_resumes (n : HoseId) (s : State) (paused : s.hoses[n].state = .paused) :
    exec (.deadmanHeld n) s = .next ((s.setDeadman n true).resume n) := by
  have same : (s.setDeadman n true).hoses[n].state = .paused := paused
  show execDeadmanHeld n s = _
  unfold execDeadmanHeld
  dsimp only
  rw [same]

theorem exec_deadmanRelease_pauses (n : HoseId) (s : State)
    (h : s.hoses[n].state = .priming ∨ s.hoses[n].state = .flowing) :
    exec (.deadmanRelease n) s = .next ((s.setDeadman n false).pause n) := by
  have same : (s.setDeadman n false).hoses[n].state = s.hoses[n].state := rfl
  show execDeadmanRelease n s = _
  unfold execDeadmanRelease
  dsimp only
  rcases h with h | h <;> rw [same, h]

theorem exec_deadmanRelease_stays (n : HoseId) (s : State) (priming : s.hoses[n].state ≠ .priming)
    (flowing : s.hoses[n].state ≠ .flowing) :
    exec (.deadmanRelease n) s = .next (s.setDeadman n false) := by
  have same : (s.setDeadman n false).hoses[n].state = s.hoses[n].state := rfl
  show execDeadmanRelease n s = _
  unfold execDeadmanRelease
  dsimp only
  cases st : s.hoses[n].state <;> rw [same, st] <;>
    first | exact absurd st priming | exact absurd st flowing

theorem pumpOf_of_set (n : HoseId) (t : State) (p : Pump) (pumps : Vector Pump 2) {k : CompId}
    (h : t.pumps = pumps.set k p) (comp : t.hoseComp n = k) : t.pumpOf n = p := by
  subst comp
  unfold State.pumpOf
  rw [h, getElem_set_fin, if_pos rfl]

/-- Settles O31: the pause by `State.pause_pauses`, the resume by whether the pump is RUNNING. -/
theorem deadmanPausesAndResumes : Obligations.DeadmanPausesAndResumes := by
  unfold Obligations.DeadmanPausesAndResumes
  refine ⟨fun n s inv => ?_, fun n s paused => ?_⟩
  · intro moved st
    refine ⟨exec_deadmanHeld_stays n s, exec_deadmanHeld_faulted n s, exec_deadmanRelease_stays n s,
      fun h => ⟨_, exec_deadmanRelease_pauses n s h, ?_⟩⟩
    have pauses := (s.setDeadman n false).pause_pauses n
    generalize (s.setDeadman n false).pause n = t at pauses
    obtain ⟨hoses, pumps, frame⟩ := pauses
    have own : t.pumpOf n = { Pump.giveUp n (s.pumpOf n) with demand := t.selectedDemand (s.hoseComp n) } :=
      pumpOf_of_set n t _ s.pumps pumps (by rw [frame]; rfl)
    obtain ⟨state, claims, -, -⟩ := Pump.giveUp_keeps n (s.pumpOf n)
    obtain ⟨free, gone⟩ := Pump.giveUp_gone n (s.pumpOf n) (inv.apart (s.hoseComp n) n)
    refine ⟨hoses, t.drivenStage_closed n ?_, ?_, ?_, ?_, ?_, pumps, fun k ne => ?_, frame⟩
    · rw [hoses, getElem_set_fin, if_pos rfl]
      nofun
    · rw [own]; exact free
    · rw [own]; exact gone
    · rw [own]; exact claims
    · rw [own]; exact state
    · rw [pumps, getElem_set_fin]
      exact if_neg ne
  · intro k p first
    refine ⟨_, exec_deadmanHeld_resumes n s paused, ?_⟩
    rw [State.resume_eq]
    let v := (s.setDeadman n true).reprimed n
    have primed : v.hoses[n] = { s.hoses[n] with state := .priming, pauseExpiry := none } :=
      (s.setDeadman n true).setHose_same n _
    have others (m : HoseId) (ne : m ≠ n) : v.hoses[m] = s.hoses[m] := s.setHose_other n m _ ne
    by_cases running : (s.pumpOf n).state = .running
    · rw [v.flowOrWait_flows n running]
      obtain ⟨hoses, pumps, frame⟩ := v.enterFlowing_enters n
      generalize v.enterFlowing n = t at hoses pumps frame
      have own : t.hoses[n] = v.hoses[n].flowing (v.hoses[n].flowingStep p) := by
        rw [hoses, getElem_set_fin, if_pos rfl]
        rfl
      have entered : t.hoses[n].step = some (v.hoses[n].flowingStep p) := by rw [own]; rfl
      obtain ⟨frozen, fresh⟩ := v.hoses[n].flowingStep_eq p
      rw [primed] at own frozen fresh
      have pump := pumpOf_of_set n t _ _ pumps (by rw [frame]; rfl)
      obtain ⟨state, claims, -, -⟩ := Pump.entered_keeps (v.hoses[n].flowingStep p) (s.maxFull k) n (s.pumpOf n)
      refine ⟨by rw [own]; rfl, fun h => absurd running h, fun _ => ⟨by rw [own]; rfl, fun st been step => ?_,
        fun been => ?_⟩, fun st _ step => ?_, fun h => absurd running h, ?_, ?_, fun m ne => ?_, fun j ne => ?_, ?_⟩
      · rw [own]
        exact congrArg some (frozen st been step)
      · rw [own]
        exact congrArg some (fresh been)
      · cases entered.symm.trans step
        exact pumps
      · rw [pump]; exact claims
      · rw [pump]; exact state
      · rw [hoses, getElem_set_fin, if_neg ne]
        exact others m ne
      · rw [pumps, getElem_set_fin]
        exact if_neg ne
      · rw [frame]
        rfl
    · rw [v.flowOrWait_waits n running]
      have pumps := v.reselect_pumps k (s.pumpOf n) s.pumps (Vector.set_getElem_self (xs := s.pumps) _).symm
      have pump := pumpOf_of_set n (v.reselect k) _ s.pumps pumps rfl
      refine ⟨?_, fun _ => primed, fun h => absurd h running, fun _ h => absurd h running, fun _ => pumps, ?_, ?_,
        others, fun j ne => ?_, rfl⟩
      · exact congrArg Hose.pauseExpiry primed
      · exact (congrArg Pump.claims pump).trans rfl
      · exact (congrArg Pump.state pump).trans rfl
      · exact (v.reselect_pump k j).trans (if_neg ne)

end Sys2Proof.Machine
end

section
/-! The start of a delivery, with the window in flight accounted as stray (03, R44, R45; 05, R76; 06, R92, R96 to
R98; 09, R128). -/

namespace Sys2Proof.Machine

/-! ## Changes of a book by what they read (R128, R138, R142) -/

/-- Two states the stock keeper and the link do not tell apart. -/
structure SameStock (u v : State) : Prop extends SameLink u v where
  stock : u.stock = v.stock
  free : u.free = v.free

theorem SameStock.trans {u v w : State} (h : SameStock u v) (g : SameStock v w) : SameStock u w :=
  ⟨⟨h.link.trans g.link, h.port.trans g.port, h.now.trans g.now, h.config.trans g.config⟩,
    h.stock.trans g.stock, h.free.trans g.free⟩

theorem SameStock.post {u v : State} (same : SameStock u v) (kind : EventKind) (subject : EventSubject)
    (value : Int) : SameStock (u.post kind subject value) (v.post kind subject value) where
  toSameLink := same.toSameLink.post kind subject value
  stock := by simp [same.stock]
  free := by simp [same.free]

theorem SameStock.ask {u v : State} (same : SameStock u v) (sub : Subject) :
    SameStock (u.ask sub) (v.ask sub) where
  toSameLink := same.toSameLink.ask sub
  stock := by simp [same.stock]
  free := by simp [same.free]

theorem SameStock.withStock {u v : State} (same : SameStock u v) (stock : Stock) :
    SameStock { u with stock } { v with stock } := ⟨⟨same.link, same.port, same.now, same.config⟩, rfl, same.free⟩

theorem SameStock.item {u v : State} (same : SameStock u v) (i : Nat) : u.item i = v.item i := by
  unfold State.item
  rw [same.config]

theorem SameStock.setRestock {u v : State} (same : SameStock u v) (r : RestockState) :
    SameStock (u.setRestock r) (v.setRestock r) := by
  have station : u.station = v.station := congrArg Int.toNat (same.item 1)
  unfold State.setRestock
  rw [same.stock, station]
  split_ifs
  · exact same
  · exact ((same.withStock _).ask _).post _ _ _

theorem SameStock.evaluated {u v : State} (same : SameStock u v) : u.evaluated = v.evaluated := by
  have wants : u.wantsFuel = v.wantsFuel := by
    unfold State.wantsFuel
    rw [same.stock, show u.reorder = v.reorder from funext fun k => same.item _]
  have peers : u.peerStocks = v.peerStocks := by
    unfold State.peerStocks
    rw [same.link]
  have fill (k : CompId) : u.fill k = v.fill k := by
    unfold State.fill State.capacity
    rw [same.item, same.stock, same.free]
  have own : u.ownPair = v.ownPair := by
    unfold State.ownPair State.urgency State.station State.itemNat
    rw [fill, fill, same.item]
  unfold State.evaluated State.bayTaken State.bayBusy State.beatsPeers
  rw [same.stock, wants, peers, own]

theorem SameStock.evaluateRestock {u v : State} (same : SameStock u v) :
    SameStock u.evaluateRestock v.evaluateRestock := by
  have hold : u.holdAfter v.evaluated = v.holdAfter v.evaluated := by
    unfold State.holdAfter State.nowSec State.goHoldTime State.itemNat
    rw [same.stock, same.now, same.item]
  unfold State.evaluateRestock
  dsimp only
  rw [same.evaluated, hold, same.stock]
  exact (same.withStock _).setRestock _

theorem SameStock.highLevelTest {u v : State} (same : SameStock u v) (k : CompId) :
    SameStock (u.highLevelTest k) (v.highLevelTest k) := by
  have fill (j : CompId) : u.highFillOf j = v.highFillOf j := by
    unfold State.highFillOf State.capacity State.highFill
    rw [same.item, same.item]
  have book (x : Session) : u.highByBook x = v.highByBook x := by
    unfold State.highByBook
    rw [fill, same.stock]
  have gauge (x : Session) : u.highByGauge x = v.highByGauge x := by
    unfold State.highByGauge
    rw [fill, same.stock]
  unfold State.highLevelTest
  simp only [book, gauge, same.stock]
  split
  · exact same
  · split_ifs
    · unfold State.dropPermit State.putSession
      rw [same.stock]
      exact (same.withStock _).post _ _ _
    · exact same

theorem SameStock.rebooked {u v : State} (same : SameStock u v) (k : CompId) (value : Int) :
    SameStock (u.rebooked k value) (v.rebooked k value) := by
  unfold State.rebooked
  dsimp only
  rw [same.stock]
  exact ((same.withStock _).evaluateRestock).highLevelTest k

theorem State.setRestock_books (r : RestockState) (s : State) :
    (s.setRestock r).stock.books = s.stock.books := by
  unfold State.setRestock
  split_ifs <;> simp

theorem State.highLevelTest_books (k : CompId) (s : State) :
    (s.highLevelTest k).stock.books = s.stock.books := by
  rcases s.highLevelTest_cases k with e | ⟨x, -, -, -, -, e⟩ <;> rw [e]
  simp [State.dropPermit, State.putSession]

/-- The books after a change of one (R128): what follows it leaves them. -/
theorem State.rebooked_books (k : CompId) (value : Int) (s : State) :
    (s.rebooked k value).stock.books = s.stock.books.set k
      (bookOf k (max (-2147483647) (min 2147483647 value)) s.stock.books[k].isSet) := by
  unfold State.rebooked State.evaluateRestock
  rw [State.highLevelTest_books, State.setRestock_books]

/-! ## A window accounted as stray (R92, R96 to R98) -/

/-- An episode after a window of a count (R98). -/
theorem StrayAcc.episodeAfter_eq (quietMax : Nat) (c : Int) (a : StrayAcc) :
    let quiet := if c ≠ 0 then 0 else if a.episode then a.quiet + 1 else a.quiet
    a.episodeAfter quietMax c =
      { a with episode := if c ≠ 0 then true else a.episode && decide (quiet < quietMax), quiet } := by
  obtain ⟨gRem, nRem, residue, episode, quiet⟩ := a
  by_cases flows : c = 0 <;> cases episode <;> simp [StrayAcc.episodeAfter, flows]

theorem StrayAcc.opens_iff (c : Int) (a : StrayAcc) : a.opens c = true ↔ c ≠ 0 ∧ a.episode = false := by
  simp [StrayAcc.opens, and_comm]

/-- The gross step of a stray window (R96). -/
def State.strayGross (s : State) (n : HoseId) (w : Window) : Step :=
  grossStep w.count w.mf s.meters[meterOf n].stray.gRem

/-- The net step of a stray window (R96). -/
def State.strayNet (s : State) (n : HoseId) (w : Window) : Step :=
  netStep (s.strayGross n w).whole (vcfOf (s.alphaOf (s.hoseComp n)) (s.compTemp (s.hoseComp n)))
    s.meters[meterOf n].stray.nRem

/-- The residue with a stray window's net microlitres (R97). -/
def State.strayResidue (s : State) (n : HoseId) (w : Window) : Int :=
  s.meters[meterOf n].stray.residue + (s.strayNet n w).whole

/-- The remainders and the residue after a stray window. -/
def State.strayCounted (s : State) (n : HoseId) (w : Window) : StrayAcc :=
  { s.meters[meterOf n].stray with
    gRem := (s.strayGross n w).rem, nRem := (s.strayNet n w).rem
    residue := s.strayResidue n w - 1000 * strayMl (s.strayResidue n w) }

/-- The part once the whole millilitres of a stray window have gone to the book (R97, R128). -/
def State.strayBooked (s : State) (n : HoseId) (w : Window) : State :=
  if strayMl (s.strayResidue n w) = 0 then s
  else s.rebooked (s.hoseComp n) (s.stock.books[s.hoseComp n].value - strayMl (s.strayResidue n w))

/-- What a stray window does to the meters, and to the stock, the link and the port. -/
structure Strays (n : HoseId) (w : Window) (s t : State) : Prop where
  meters : t.meters = s.meters.set (meterOf n) { s.meters[meterOf n] with
    stray := (s.strayCounted n w).episodeAfter s.settleQuiet w.count }
  books : SameStock t
    (if w.count ≠ 0 ∧ s.meters[meterOf n].stray.episode = false then
      (s.strayBooked n w).post .strayFlow (.hose n) w.count else s.strayBooked n w)

theorem State.strayWindow_strays (n : HoseId) (w : Window) (s : State) : Strays n w s (s.strayWindow n w) := by
  let counted := s.setMeter (meterOf n) { s.meters[meterOf n] with stray := s.strayCounted n w }
  let ml := strayMl (s.strayResidue n w)
  let booked := if ml = 0 then counted else counted.changeBook (s.hoseComp n) (-ml)
  have shape : s.strayWindow n w = booked.strayEpisode (meterOf n) .strayFlow (.hose n) w.count := rfl
  have meters : booked.meters = counted.meters := by
    unfold booked
    split_ifs
    · rfl
    · simp
  have own : booked.meters[meterOf n] = { s.meters[meterOf n] with stray := s.strayCounted n w } := by
    rw [meters]
    exact s.setMeter_same (meterOf n) _
  have books : SameStock booked (s.strayBooked n w) := by
    have same : SameStock counted s := ⟨⟨rfl, rfl, rfl, rfl⟩, rfl, rfl⟩
    unfold booked State.strayBooked
    split_ifs
    · exact same
    · rw [State.changeBook_eq, Int.sub_eq_add_neg]
      exact same.rebooked _ _
  have quiet : booked.settleQuiet = s.settleQuiet := by
    have config : booked.config = s.config := by
      unfold booked
      split_ifs
      · rfl
      · simp [counted]
    unfold State.settleQuiet State.itemNat State.item
    rw [config]
  let ended := booked.setMeter (meterOf n) { s.meters[meterOf n] with
    stray := (s.strayCounted n w).episodeAfter s.settleQuiet w.count }
  have episode : booked.strayEpisode (meterOf n) .strayFlow (.hose n) w.count =
      if (s.strayCounted n w).opens w.count then ended.post .strayFlow (.hose n) w.count else ended := by
    unfold State.strayEpisode
    rw [own, quiet]
  have meters : ended.meters = s.meters.set (meterOf n) { s.meters[meterOf n] with
      stray := (s.strayCounted n w).episodeAfter s.settleQuiet w.count } := by
    show booked.meters.set _ _ = _
    rw [meters]
    simp [counted, State.setMeter]
  have same : SameStock ended (s.strayBooked n w) :=
    ⟨⟨books.link, books.port, books.now, books.config⟩, books.stock, books.free⟩
  have opens := (s.strayCounted n w).opens_iff w.count
  rw [shape, episode]
  refine ⟨?_, ?_⟩
  · split_ifs
    · simpa using meters
    · exact meters
  · by_cases h : w.count ≠ 0 ∧ s.meters[meterOf n].stray.episode = false
    · rw [if_pos h, if_pos (opens.mpr h)]
      exact same.post _ _ _
    · rw [if_neg h, if_neg (mt opens.mp h)]
      exact same

/-- The rate noted before the window is accounted is the channel's last rate, and has no other effect. -/
theorem State.strayWindow_noted (n : HoseId) (w : Window) (s : State) :
    let t := (s.noteRate (meterOf n) w.rate).strayWindow n w
    t.meters = s.meters.set (meterOf n) { s.meters[meterOf n] with
      lastRate := w.rate, stray := (s.strayCounted n w).episodeAfter s.settleQuiet w.count } ∧
    SameStock t
      (if w.count ≠ 0 ∧ s.meters[meterOf n].stray.episode = false then
        (s.strayBooked n w).post .strayFlow (.hose n) w.count else s.strayBooked n w) := by
  intro t
  let noted := s.noteRate (meterOf n) w.rate
  have own : noted.meters[meterOf n] = { s.meters[meterOf n] with lastRate := w.rate } :=
    s.setMeter_same (meterOf n) _
  have stray : noted.meters[meterOf n].stray = s.meters[meterOf n].stray := by rw [own]
  have gross : noted.strayGross n w = s.strayGross n w := by
    unfold State.strayGross
    rw [stray]
  have net : noted.strayNet n w = s.strayNet n w := by
    unfold State.strayNet
    rw [gross, stray]
    rfl
  have residue : noted.strayResidue n w = s.strayResidue n w := by
    unfold State.strayResidue
    rw [net, stray]
  have counted : noted.strayCounted n w = s.strayCounted n w := by
    unfold State.strayCounted
    rw [gross, net, residue, stray]
  have booked : SameStock (noted.strayBooked n w) (s.strayBooked n w) := by
    have same : SameStock noted s := ⟨⟨rfl, rfl, rfl, rfl⟩, rfl, rfl⟩
    unfold State.strayBooked
    rw [residue]
    split_ifs
    · exact same
    · exact same.rebooked _ _
  obtain ⟨meters, books⟩ := noted.strayWindow_strays n w
  rw [counted, own] at meters
  rw [stray] at books
  refine ⟨meters.trans ?_, ?_⟩
  · simp [noted, State.noteRate, State.setMeter, State.settleQuiet, State.itemNat, State.item]
  · refine SameStock.trans books ?_
    split_ifs
    · exact booked.post _ _ _
    · exact booked

/-- The window in flight of a hose's channel, accounted as stray and followed by one of an owner (R92). -/
structure Restarts (n : HoseId) (owner : Attachment) (s t : State) : Prop where
  accounts : AccountsStray n s t
  meters : t.meters = s.meters.set (meterOf n) { s.meters[meterOf n] with
    attach := owner, count := 0, sat := false, phaseErr := 0, due := some (s.now + 250000)
    lastRate := t.meters[meterOf n].lastRate, stray := t.meters[meterOf n].stray }
  frame : t = { s with meters := t.meters, stock := t.stock, link := t.link, port := t.port }

theorem hoseOfMeter_meterOf (n : HoseId) : hoseOfMeter (meterOf n) = some n := by
  revert n; decide

theorem State.windowRestart_eq (m : MeterId) (owner : Attachment) (s : State) :
    s.windowRestart m owner =
      { s with
        meters := (s.windowRestart m owner).meters, stock := (s.windowRestart m owner).stock
        link := (s.windowRestart m owner).link, port := (s.windowRestart m owner).port } := by
  have frame := State.windowRestart_frame m owner s
  generalize s.windowRestart m owner = t at frame ⊢
  cases t
  simpa using frame

/-- The books once the whole millilitres of a stray window have gone to one (R97, R128). -/
theorem State.strayBooked_books (n : HoseId) (w : Window) (s : State) :
    (s.strayBooked n w).stock.books =
      if strayMl (s.strayResidue n w) = 0 then s.stock.books
      else s.stock.books.set (s.hoseComp n) (bookOf (s.hoseComp n)
        (max (-2147483647) (min 2147483647
          (s.stock.books[s.hoseComp n].value - strayMl (s.strayResidue n w))))
        s.stock.books[s.hoseComp n].isSet) := by
  unfold State.strayBooked
  split_ifs
  · rfl
  · exact State.rebooked_books _ _ s

theorem State.windowRestart_restarts (n : HoseId) (owner : Attachment) (s : State) :
    Restarts n owner s (s.windowRestart (meterOf n) owner) := by
  let w := s.windowOf (meterOf n)
  let after : Meter := { s.meters[meterOf n] with
    attach := owner, count := 0, sat := false, phaseErr := 0, due := some (s.now + 250000)
    lastRate := w.rate, stray := (s.strayCounted n w).episodeAfter s.settleQuiet w.count }
  obtain ⟨strayed, books⟩ := s.strayWindow_noted n w
  have shape : s.windowRestart (meterOf n) owner =
      let u := (s.noteRate (meterOf n) w.rate).strayWindow n w
      (u.setMeter (meterOf n) { u.meters[meterOf n] with attach := owner }).nextWindow (meterOf n)
        (u.now + 250000) := by
    unfold State.windowRestart State.accountStray
    rw [hoseOfMeter_meterOf]
    rfl
  have now : ((s.noteRate (meterOf n) w.rate).strayWindow n w).now = s.now := by simp
  generalize (s.noteRate (meterOf n) w.rate).strayWindow n w = u at strayed books shape now
  dsimp only at shape
  have own : u.meters[meterOf n] = { s.meters[meterOf n] with
      lastRate := w.rate, stray := (s.strayCounted n w).episodeAfter s.settleQuiet w.count } := by
    rw [strayed]
    exact Vector.getElem_set_self _
  have meters : (s.windowRestart (meterOf n) owner).meters = s.meters.set (meterOf n) after := by
    rw [shape, now, own]
    simp [State.nextWindow, State.setMeter, strayed, after]
  have stocks : SameStock (s.windowRestart (meterOf n) owner) u := by
    rw [shape]
    exact ⟨⟨rfl, rfl, rfl, rfl⟩, rfl, rfl⟩
  have books := stocks.trans books
  have frame := s.windowRestart_eq (meterOf n) owner
  generalize s.windowRestart (meterOf n) owner = t at meters books frame
  have stock : t.stock = (s.strayBooked n w).stock := by
    rw [books.stock]
    split_ifs <;> simp
  have link : t.link = (s.strayBooked n w).link := by
    rw [books.link]
    split_ifs <;> simp
  have moved : t.meters[meterOf n] = after := by
    rw [meters]
    exact Vector.getElem_set_self _
  refine ⟨⟨?_, ?_, ?_, ?_, ?_, ?_⟩, ?_, frame⟩
  · rw [moved]
    exact StrayAcc.episodeAfter_eq _ _ _
  · rw [moved]
    rfl
  · exact (congrArg Stock.books stock).trans (s.strayBooked_books n w)
  · exact stock
  · exact link
  · exact books.port
  · rw [moved]
    exact meters

end Sys2Proof.Machine
end

section
/-! The deadman held for an ARMED hose (03, R44, R45; 05, R76). -/

namespace Sys2Proof.Machine

/-- A window accounted as stray is accounted alike where the lines, the hoses and the pumps have moved before it, and
whatever else has moved after it. -/
theorem AccountsStray.of_moved {n : HoseId} {s c t : State} {pins : Pins} {hoses : Vector Hose 4}
    {pumps : Vector Pump 2} (h : AccountsStray n { s with pins, hoses, pumps } c)
    (meter : t.meters[meterOf n] = c.meters[meterOf n]) (stock : t.stock = c.stock) (link : t.link = c.link)
    (port : t.port = c.port) : AccountsStray n s t := by
  let b : State := { s with pins, hoses, pumps }
  have same : SameStock b s := ⟨⟨rfl, rfl, rfl, rfl⟩, rfl, rfl⟩
  have booked (w : Int) (k : CompId) (v : Int) :
      SameStock (if w = 0 then b else b.rebooked k v) (if w = 0 then s else s.rebooked k v) := by
    split_ifs
    · exact same
    · exact same.rebooked k v
  have shown (q : Prop) [Decidable q] (c : Int) (u u' : State) (e : SameStock u u') :
      (if q then u.post .strayFlow (.hose n) c else u).port =
        (if q then u'.post .strayFlow (.hose n) c else u').port := by
    split_ifs
    · exact (e.toSameLink.post _ _ _).port
    · exact e.port
  obtain ⟨stray, rate, books, stocked, linked, posted⟩ := h
  refine ⟨?_, ?_, ?_, ?_, ?_, ?_⟩
  · rw [meter]; exact stray
  · rw [meter]; exact rate
  · rw [stock]; exact books
  · rw [stock]; exact stocked.trans (booked _ _ _).stock
  · rw [link]; exact linked.trans (booked _ _ _).link
  · rw [port]
    exact posted.trans (shown _ _ _ _ (booked _ _ _))

theorem set_of_set {α : Type} {m : Nat} {v u : Vector α m} {i j : Fin m} {x : α} (h : v = u.set i x)
    (e : j = i) (y : α) : v.set j y = u.set i y := by
  subst e
  rw [h, Vector.set_set]

/-! ## The claim (R76) -/

/-- A pump with the claim of a hose. -/
def Pump.joined (n : HoseId) (p : Pump) : Pump := { p with claims := p.claims.set n true }

theorem State.claimed_claims (n : HoseId) (p : Pump) (s : State) :
    (s.claimed n p).claims = p.claims.set n true := by
  obtain ⟨state, claims, grants, queue, spinUp, runOn, demand, duty, pwmStart, pwmDue⟩ := p
  cases state <;> rfl

/-- A claim on a RUNNING pump or one in RUN_ON finds it RUNNING. -/
theorem State.claimed_runs (n : HoseId) (p : Pump) (s : State) (h : p.state = .running ∨ p.state = .runOn) :
    s.claimed n p = { p.joined n with
      state := .running, runOn := if p.state = .runOn then none else p.runOn } := by
  obtain ⟨state, claims, grants, queue, spinUp, runOn, demand, duty, pwmStart, pwmDue⟩ := p
  rcases h with rfl | rfl <;> rfl

/-- A claim on a pump OFF starts it, and joins one that is STARTING. -/
theorem State.claimed_starts (n : HoseId) (p : Pump) (s : State) (h : p.state = .off ∨ p.state = .starting) :
    s.claimed n p = { p.joined n with
      state := .starting, spinUp := if p.state = .off then some (s.now / 1000 + s.pumpSpinup) else p.spinUp } := by
  obtain ⟨state, claims, grants, queue, spinUp, runOn, demand, duty, pwmStart, pwmDue⟩ := p
  rcases h with rfl | rfl <;> rfl

/-! ## The start (R44, R45) -/

/-- What a PRIMING hose keeps as it enters FLOWING or waits. -/
structure Keeps (n : HoseId) (s t : State) : Prop where
  hose : t.hoses[n] = { s.hoses[n] with
    state := t.hoses[n].state, beenFlowing := t.hoses[n].beenFlowing
    pauseExpiry := t.hoses[n].pauseExpiry, step := t.hoses[n].step }
  others : ∀ m : HoseId, m ≠ n → t.hoses[m] = s.hoses[m]
  claims : (t.pumpOf n).claims = (s.pumpOf n).claims
  pump : ∀ k : CompId, k ≠ s.hoseComp n → t.pumps[k] = s.pumps[k]
  frame : t = { s with hoses := t.hoses, pumps := t.pumps }

theorem EntersFlowing.keeps {n : HoseId} {s t : State} (h : EntersFlowing n s t) : Keeps n s t := by
  obtain ⟨hoses, pumps, frame⟩ := h
  have own : t.hoses[n] = s.hoses[n].flowing (s.hoses[n].flowingStep (s.profileOf n)) := by
    rw [hoses]
    exact Vector.getElem_set_self _
  obtain ⟨-, claims, -, -⟩ := Pump.entered_keeps (s.hoses[n].flowingStep (s.profileOf n))
    (s.maxFull (s.hoseComp n)) n (s.pumpOf n)
  refine ⟨by rw [own]; rfl, fun m ne => ?_, ?_, fun k ne => ?_, frame⟩
  · rw [hoses, getElem_set_fin, if_neg ne]
  · rw [pumpOf_of_set n t _ _ pumps (by rw [frame]; rfl)]
    exact claims
  · rw [pumps, getElem_set_fin, if_neg ne]

theorem State.reselect_keeps (n : HoseId) (s : State) : Keeps n s (s.reselect (s.hoseComp n)) :=
  ⟨rfl, fun _ _ => rfl, (congrArg Pump.claims (s.setPump_same (s.hoseComp n) _)).trans rfl,
    fun k ne => s.setPump_other (s.hoseComp n) k _ ne, rfl⟩

theorem State.flowOrWait_keeps (n : HoseId) (s : State) : Keeps n s (s.flowOrWait n) := by
  by_cases h : (s.pumpOf n).state = .running
  · rw [s.flowOrWait_flows n h]
    exact (s.enterFlowing_enters n).keeps
  · rw [s.flowOrWait_waits n h]
    exact s.reselect_keeps n

/-- The context of a hose whose delivery has started. -/
def Hose.started (n : HoseId) (k : CompId) (h : Hose) : Hose :=
  { h with state := .priming, armExpiry := none, journal := some (h.toJournal n k) }

/-- The part as a delivery starts, before its entry to FLOWING. -/
structure Starts (n : HoseId) (s t : State) : Prop where
  accounts : AccountsStray n s t
  meters : t.meters = s.meters.set (meterOf n) { s.meters[meterOf n] with
    attach := .delivery, count := 0, sat := false, phaseErr := 0, due := some (s.now + 250000)
    lastRate := t.meters[meterOf n].lastRate, stray := t.meters[meterOf n].stray }
  frame : t = { s with
    hoses := s.hoses.set n (s.hoses[n].started n (s.hoseComp n))
    pumps := s.pumps.set (s.hoseComp n) (s.claimed n (s.pumpOf n))
    meters := t.meters, stock := t.stock, link := t.link, port := t.port }

theorem State.startDelivery_starts (n : HoseId) (s : State) :
    ∃ d : State, Starts n s d ∧ s.startDelivery n = d.flowOrWait n := by
  let b := (s.setHose n { s.hoses[n] with armExpiry := none }).claim n
  let d (c : State) : State := (c.setHose n { c.hoses[n] with state := .priming }).writeJournal n
  refine ⟨d (b.windowRestart (meterOf n) .delivery), ?_, rfl⟩
  obtain ⟨accounts, meters, frame⟩ := b.windowRestart_restarts n .delivery
  generalize b.windowRestart (meterOf n) .delivery = c at accounts meters frame
  refine ⟨AccountsStray.of_moved (s := s) (pins := s.pins) (hoses := b.hoses) (pumps := b.pumps) accounts
    rfl rfl rfl rfl, meters, ?_⟩
  have hoses : (d c).hoses = s.hoses.set n (s.hoses[n].started n (s.hoseComp n)) := by
    let v : State := c.setHose n { c.hoses[n] with state := .priming }
    have own : c.hoses[n] = { s.hoses[n] with armExpiry := none } := by
      rw [frame]
      exact s.setHose_same n _
    have comp : v.hoseComp n = s.hoseComp n := State.hoseComp_of_config n s v (by show c.config = _; rw [frame]; rfl)
    have primed : v.hoses[n] = { c.hoses[n] with state := .priming } := c.setHose_same n _
    have written : (d c).hoses = v.hoses.set n
        { v.hoses[n] with journal := some (v.hoses[n].toJournal n (v.hoseComp n)) } := rfl
    have all : v.hoses = (s.hoses.set n { s.hoses[n] with armExpiry := none }).set n
        { c.hoses[n] with state := .priming } := by
      show c.hoses.set _ _ = _
      rw [frame]
      rfl
    rw [written, comp, primed, own, all, Vector.set_set, Vector.set_set]
    rfl
  rw [← hoses]
  exact congrArg (fun x : State => { x with hoses := (d c).hoses }) frame

/-- Settles O30: the start by `State.startDelivery_starts`, then the entry to FLOWING where the pump runs. -/
theorem deadmanHeldStartsDelivery : Obligations.DeadmanHeldStartsDelivery := by
  unfold Obligations.DeadmanHeldStartsDelivery
  intro n s armed sound runs k p first joined running
  obtain ⟨d, starts, shape⟩ := (s.setDeadman n true).startDelivery_starts n
  refine ⟨d.flowOrWait n, (exec_deadmanHeld_starts n s armed sound).trans (congrArg _ shape), ?_⟩
  obtain ⟨accounts, meters, frame⟩ := starts
  have hose : d.hoses[n] = s.hoses[n].started n k := by
    rw [frame]
    exact Vector.getElem_set_self _
  have pump : d.pumpOf n = s.claimed n (s.pumpOf n) :=
    pumpOf_of_set n d _ s.pumps (k := k) (by rw [frame]; rfl) (by rw [frame]; rfl)
  obtain ⟨kept, others, claims, still, moved⟩ := d.flowOrWait_keeps n
  have comp : d.hoseComp n = k := State.hoseComp_of_config n s d (by rw [frame]; rfl)
  refine ⟨fun flows => ?_, fun waits => ?_, ?_⟩
  · have claimed := s.claimed_runs n (s.pumpOf n) flows
    rw [d.flowOrWait_flows n (by rw [pump, claimed])]
    obtain ⟨hoses, pumps, entered⟩ := d.enterFlowing_enters n
    generalize d.enterFlowing n = t at hoses pumps entered
    have own : t.hoses[n] = d.hoses[n].flowing (d.hoses[n].flowingStep (d.profileOf n)) := by
      rw [hoses]
      exact Vector.getElem_set_self _
    have tpump := pumpOf_of_set n t _ _ pumps (by rw [entered]; rfl)
    obtain ⟨state, -, -, -⟩ := Pump.entered_keeps (d.hoses[n].flowingStep (d.profileOf n))
      (d.maxFull (d.hoseComp n)) n (d.pumpOf n)
    refine ⟨by rw [own]; rfl, by rw [own]; rfl, ?_, fun fresh => ?_⟩
    · rw [tpump]
      exact state.trans (by rw [pump, claimed])
    · obtain ⟨-, isFirst⟩ := d.hoses[n].flowingStep_eq (d.profileOf n)
      have isFirst : d.hoses[n].flowingStep (d.profileOf n) = first := by
        rw [isFirst (by rw [hose]; exact fresh)]
        rw [frame]
        rfl
      rw [isFirst] at own pumps
      refine ⟨by rw [own]; rfl, (pumps.trans (set_of_set (by rw [frame]; rfl) comp _)).trans ?_⟩
      have limit : d.maxFull k = s.maxFull k := by
        rw [frame]
        rfl
      simp only [limit, comp, pump, claimed]
      rfl
  · have start : (s.pumpOf n).state = .off ∨ (s.pumpOf n).state = .starting := by
      cases e : (s.pumpOf n).state <;> simp [runs, e] at waits sound ⊢
    have claimed := s.claimed_starts n (s.pumpOf n) start
    have starting : (d.pumpOf n).state = .starting := by rw [pump, claimed]
    rw [d.flowOrWait_waits n (by rw [starting]; nofun)]
    have pumps := d.reselect_pumps (d.hoseComp n) (d.pumpOf n) d.pumps
      (Vector.set_getElem_self (xs := d.pumps) _).symm
    have demand : (d.reselect (d.hoseComp n)).selectedDemand (d.hoseComp n) = some .slow := by
      obtain ⟨-, slow, -⟩ := d.selectedDemand_still (d.hoseComp n)
      rw [State.selectedDemand_reselect]
      exact slow starting
    refine ⟨congrArg Hose.state hose, (congrArg Hose.beenFlowing hose).trans rfl, (congrArg Hose.step hose).trans rfl,
      (pumps.trans (set_of_set (by rw [frame]; rfl) comp _)).trans ?_⟩
    rw [demand, pump, claimed]
    rfl
  · generalize d.flowOrWait n = t at kept others claims still moved
    rw [hose] at kept
    have meter : t.meters = d.meters := by rw [moved]
    refine ⟨?_, ?_, ?_, ?_, ?_, ?_, ?_, ?_, ?_, ?_, ?_, fun m ne => ?_, fun j ne => ?_, ?_⟩
    · rw [claims, pump, State.claimed_claims]
    · rw [kept]; rfl
    · rw [kept]; rfl
    · rw [kept]; rfl
    · rw [kept]; rfl
    · rw [kept]; rfl
    · rw [kept]; rfl
    · rw [kept]; rfl
    · rw [kept]; rfl
    · exact AccountsStray.of_moved (s := s) (pins := (s.setDeadman n true).pins) (hoses := s.hoses)
        (pumps := s.pumps) accounts (by rw [meter]) (by rw [moved]) (by rw [moved]) (by rw [moved])
    · rw [meter]; exact meters
    · rw [others m ne, frame]
      exact s.setHose_other n m _ ne
    · rw [still j (by rw [frame]; exact ne), frame]
      exact s.setPump_other k j _ ne
    · rw [moved, frame]
      rfl

end Sys2Proof.Machine
end

section
/-! What FlowInv reads of the part, what leaves it as it is, and the changes of a hose, a reader, a channel or a pump
that keep FlowInv (03, R54, R55, R57; 05, R75, R77, R78). -/

namespace Sys2Proof.Machine

/-! ## What FlowInv reads -/

/-- The items of the part that FlowInv speaks of. -/
structure FlowView where
  isSealed : Bool
  estopLatch : Bool
  metroFault : Bool
  config : ConfigBlock
  hose : HoseId → HoseState
  reader : HoseId → ReaderState
  attach : HoseId → Attachment
  pump : CompId → PumpState
  claims : CompId → Vector Bool 4
  spinUp : CompId → Option Nat
  runOn : CompId → Option Nat

def State.flow (s : State) : FlowView :=
  { isSealed := s.isSealed, estopLatch := s.estopLatch, metroFault := s.metroFault, config := s.config
    hose := fun n => s.hoses[n].state, reader := fun n => s.readers[n].state
    attach := fun n => s.meters[meterOf n].attach, pump := fun k => s.pumps[k].state
    claims := fun k => s.pumps[k].claims, spinUp := fun k => s.pumps[k].spinUp
    runOn := fun k => s.pumps[k].runOn }

theorem State.pumpOf_of_comp (n : HoseId) (k : CompId) (s : State) (h : s.hoseComp n = k) :
    s.pumpOf n = s.pumps[k] := by
  subst h
  rfl

/-- FlowInv depends on these items alone. -/
theorem FlowInv.of_flow {s t : State} (inv : FlowInv s) (h : t.flow = s.flow) : FlowInv t := by
  have on : t.isSealed = s.isSealed := congrArg FlowView.isSealed h
  have latch : t.estopLatch = s.estopLatch := congrArg FlowView.estopLatch h
  have metro : t.metroFault = s.metroFault := congrArg FlowView.metroFault h
  have config : t.config = s.config := congrArg FlowView.config h
  have hose (n : HoseId) : t.hoses[n].state = s.hoses[n].state := congrArg (fun v => v.hose n) h
  have reader (n : HoseId) : t.readers[n].state = s.readers[n].state := congrArg (fun v => v.reader n) h
  have attach (n : HoseId) : t.meters[meterOf n].attach = s.meters[meterOf n].attach :=
    congrArg (fun v => v.attach n) h
  have pump (k : CompId) : t.pumps[k].state = s.pumps[k].state := congrArg (fun v => v.pump k) h
  have claims (k : CompId) : t.pumps[k].claims = s.pumps[k].claims := congrArg (fun v => v.claims k) h
  have spinUp (k : CompId) : t.pumps[k].spinUp = s.pumps[k].spinUp := congrArg (fun v => v.spinUp k) h
  have runOn (k : CompId) : t.pumps[k].runOn = s.pumps[k].runOn := congrArg (fun v => v.runOn k) h
  have comp (n : HoseId) : t.hoseComp n = s.hoseComp n := s.hoseComp_of_config n t config
  have pumpOf (n : HoseId) : (t.pumpOf n).state = (s.pumpOf n).state ∧
      (t.pumpOf n).claims = (s.pumpOf n).claims := by
    rw [t.pumpOf_of_comp n _ (comp n)]
    exact ⟨pump _, claims _⟩
  constructor
  case hoses =>
    exact ⟨fun off n => by rw [hose]; exact inv.hoses.offline (by rw [← on]; exact off) n,
      fun n r => by rw [hose]; exact inv.hoses.reading n (by rw [← reader]; exact r),
      fun n a => by rw [hose]; exact inv.hoses.attached n (by rw [← attach]; exact a)⟩
  case stopped =>
    intro off k
    rw [pump, spinUp, runOn]
    exact inv.stopped (by rw [← on]; exact off) k
  case claimed => exact fun n => by rw [(pumpOf n).2, hose]; exact inv.claimed n
  case own => exact fun k n c => by rw [comp]; exact inv.own k n (by rw [← claims]; exact c)
  case flowing => exact fun n f => by rw [(pumpOf n).1]; exact inv.flowing n (by rw [← hose]; exact f)
  case waiting => exact fun n a => by rw [(pumpOf n).1]; exact inv.waiting n (by rw [← hose]; exact a)
  case spinning => exact fun k x => by rw [pump]; exact inv.spinning k (by rw [← spinUp]; exact x)
  case runningOn => exact fun k x => by rw [pump]; exact inv.runningOn k (by rw [← runOn]; exact x)
  case latched => exact fun l n => by rw [hose]; exact inv.latched (by rw [← latch, ← metro]; exact l) n

/-! ## Updates of one block -/

theorem State.setHose_flow (n : HoseId) (h : Hose) (s : State) (same : h.state = s.hoses[n].state) :
    (s.setHose n h).flow = s.flow := by
  have hose : (fun m : HoseId => (s.setHose n h).hoses[m].state) = fun m => s.hoses[m].state :=
    funext fun m => by
      rw [show (s.setHose n h).hoses[m] = _ from s.setHose_get n m h]
      split_ifs with e
      · rw [e]; exact same
      · rfl
  show FlowView.mk .. = FlowView.mk ..
  rw [hose]
  rfl

theorem State.setMeter_flow (m : MeterId) (c : Meter) (s : State) (same : c.attach = s.meters[m].attach) :
    (s.setMeter m c).flow = s.flow := by
  have attach : (fun n : HoseId => (s.setMeter m c).meters[meterOf n].attach) =
      fun n => s.meters[meterOf n].attach :=
    funext fun n => by
      rw [show (s.setMeter m c).meters[meterOf n] = _ from s.setMeter_get m (meterOf n) c]
      split_ifs with e
      · rw [← e] at same; exact same
      · rfl
  show FlowView.mk .. = FlowView.mk ..
  rw [attach]
  rfl

theorem meterOf_ne_meterMR (n : HoseId) : meterOf n ≠ meterMR := by
  revert n; decide

/-- The receipt meter belongs to no hose. -/
theorem State.setMeterMR_flow (c : Meter) (s : State) : (s.setMeter meterMR c).flow = s.flow := by
  have attach : (fun n : HoseId => (s.setMeter meterMR c).meters[meterOf n].attach) =
      fun n => s.meters[meterOf n].attach :=
    funext fun n => congrArg Meter.attach (s.setMeter_other meterMR (meterOf n) c (meterOf_ne_meterMR n))
  show FlowView.mk .. = FlowView.mk ..
  rw [attach]
  rfl

theorem State.setPump_flow (k : CompId) (p : Pump) (s : State) (state : p.state = s.pumps[k].state)
    (claims : p.claims = s.pumps[k].claims) (spinUp : p.spinUp = s.pumps[k].spinUp)
    (runOn : p.runOn = s.pumps[k].runOn) : (s.setPump k p).flow = s.flow := by
  have get (j : CompId) : (s.setPump k p).pumps[j] = if j = k then p else s.pumps[j] := s.setPump_get k j p
  have each {β : Type} (f : Pump → β) (same : f p = f s.pumps[k]) :
      (fun j : CompId => f (s.setPump k p).pumps[j]) = fun j => f s.pumps[j] :=
    funext fun j => by
      rw [get]
      split_ifs with e
      · rw [e]; exact same
      · rfl
  show FlowView.mk .. = FlowView.mk ..
  rw [each Pump.state state, each Pump.claims claims, each Pump.spinUp spinUp, each Pump.runOn runOn]
  rfl

/-! ## Changes that keep FlowInv -/

theorem FlowInv.sealed {s : State} (inv : FlowInv s) (n : HoseId) (h : s.hoses[n].state ≠ .offline) :
    s.isSealed = true := by
  by_contra off
  exact h (inv.hoses.offline (by simpa using off) n)

/-- From `s` to `t` nothing that FlowInv speaks of has moved but hose `n`, its reader, its channel and its pump. -/
structure MovesOne (n : HoseId) (s t : State) : Prop where
  isSealed : t.isSealed = s.isSealed
  estopLatch : t.estopLatch = s.estopLatch
  metroFault : t.metroFault = s.metroFault
  config : t.config = s.config
  hose : ∀ m : HoseId, m ≠ n → t.hoses[m].state = s.hoses[m].state
  reader : ∀ m : HoseId, m ≠ n → t.readers[m].state = s.readers[m].state
  attach : ∀ m : HoseId, m ≠ n → t.meters[meterOf m].attach = s.meters[meterOf m].attach
  pump : ∀ k : CompId, k ≠ s.hoseComp n → t.pumps[k] = s.pumps[k]
  claims : ∀ m : HoseId, m ≠ n → (t.pumpOf n).claims[m] = (s.pumpOf n).claims[m]

/-- A move of one hose of a sealed part keeps FlowInv where hose, reader, channel and pump agree after it. -/
theorem FlowInv.move {n : HoseId} {s t : State} (inv : FlowInv s) (moves : MovesOne n s t)
    (on : s.isSealed = true)
    (claimed : (t.pumpOf n).claims[n] = t.hoses[n].state.isActive)
    (reading : t.readers[n].state = .reading → t.hoses[n].state = .reading)
    (attached : t.meters[meterOf n].attach = .delivery → t.hoses[n].state.delivering = true)
    (flowing : ∀ m : HoseId, s.hoseComp m = s.hoseComp n → t.hoses[m].state = .flowing →
      (t.pumpOf n).state = .running)
    (waiting : ∀ m : HoseId, s.hoseComp m = s.hoseComp n → t.hoses[m].state.isActive = true →
      (t.pumpOf n).state = .starting ∨ (t.pumpOf n).state = .running)
    (spinning : (t.pumpOf n).spinUp.isSome = true → (t.pumpOf n).state = .starting)
    (runningOn : (t.pumpOf n).runOn.isSome = true → (t.pumpOf n).state = .runOn)
    (latched : s.estopLatch = true ∨ s.metroFault = true →
      t.hoses[n].state.isActive = false ∧ t.hoses[n].state ≠ .armed) : FlowInv t := by
  have comp (m : HoseId) : t.hoseComp m = s.hoseComp m := s.hoseComp_of_config m t moves.config
  have away (m : HoseId) (h : s.hoseComp m ≠ s.hoseComp n) : t.pumpOf m = s.pumpOf m := by
    rw [t.pumpOf_of_comp m _ (comp m)]
    exact moves.pump _ h
  have near (m : HoseId) (h : s.hoseComp m = s.hoseComp n) : t.pumpOf m = t.pumpOf n := by
    rw [t.pumpOf_of_comp m _ ((comp m).trans h), t.pumpOf_of_comp n _ (comp n)]
  have near' (m : HoseId) (h : s.hoseComp m = s.hoseComp n) : s.pumpOf m = s.pumpOf n := by
    rw [s.pumpOf_of_comp m _ h]
    rfl
  have own : t.pumpOf n = t.pumps[s.hoseComp n] := t.pumpOf_of_comp n _ (comp n)
  constructor
  case hoses =>
    refine ⟨fun off => absurd off (by simp [moves.isSealed, on]), fun m => ?_, fun m => ?_⟩ <;>
      by_cases e : m = n
    · rw [e]; exact reading
    · rw [moves.reader m e, moves.hose m e]; exact inv.hoses.reading m
    · rw [e]; exact attached
    · rw [moves.attach m e, moves.hose m e]; exact inv.hoses.attached m
  case stopped => exact fun off => absurd off (by simp [moves.isSealed, on])
  case claimed =>
    intro m
    by_cases e : m = n
    · rw [e]; exact claimed
    · rw [moves.hose m e, ← inv.claimed m]
      by_cases h : s.hoseComp m = s.hoseComp n
      · rw [near m h, near' m h, moves.claims m e]
      · rw [away m h]
  case own =>
    intro k m c
    rw [comp]
    by_cases h : k = s.hoseComp n
    · subst h
      by_cases e : m = n
      · rw [e]
      · rw [← own, moves.claims m e] at c
        exact inv.own _ m c
    · rw [moves.pump k h] at c
      exact inv.own k m c
  case flowing =>
    intro m f
    by_cases h : s.hoseComp m = s.hoseComp n
    · rw [near m h]; exact flowing m h f
    · rw [moves.hose m fun e => h (by rw [e])] at f
      rw [away m h]
      exact inv.flowing m f
  case waiting =>
    intro m a
    by_cases h : s.hoseComp m = s.hoseComp n
    · rw [near m h]; exact waiting m h a
    · rw [moves.hose m fun e => h (by rw [e])] at a
      rw [away m h]
      exact inv.waiting m a
  case spinning =>
    intro k x
    by_cases h : k = s.hoseComp n
    · subst h; rw [← own] at x ⊢; exact spinning x
    · rw [moves.pump k h] at x ⊢; exact inv.spinning k x
  case runningOn =>
    intro k x
    by_cases h : k = s.hoseComp n
    · subst h; rw [← own] at x ⊢; exact runningOn x
    · rw [moves.pump k h] at x ⊢; exact inv.runningOn k x
  case latched =>
    intro l m
    rw [moves.estopLatch, moves.metroFault] at l
    by_cases e : m = n
    · rw [e]; exact latched l
    · rw [moves.hose m e]; exact inv.latched l m

/-- A hose moved alone, its claim as it was. -/
theorem FlowInv.setHose {s : State} (inv : FlowInv s) (n : HoseId) (h : Hose) (on : s.isSealed = true)
    (active : h.state.isActive = s.hoses[n].state.isActive)
    (reading : s.readers[n].state = .reading → h.state = .reading)
    (attached : s.meters[meterOf n].attach = .delivery → h.state.delivering = true)
    (flowing : h.state = .flowing → (s.pumpOf n).state = .running)
    (latched : h.state = .armed → s.estopLatch = false ∧ s.metroFault = false) :
    FlowInv (s.setHose n h) := by
  have own : (s.setHose n h).hoses[n] = h := s.setHose_same n h
  have other (m : HoseId) (e : m ≠ n) : (s.setHose n h).hoses[m] = s.hoses[m] := s.setHose_other n m h e
  have near (m : HoseId) (c : s.hoseComp m = s.hoseComp n) : s.pumpOf m = s.pumpOf n := by
    rw [s.pumpOf_of_comp m _ c]
    rfl
  refine inv.move (n := n) ⟨rfl, rfl, rfl, rfl, fun m e => by rw [other m e], fun _ _ => rfl, fun _ _ => rfl,
    fun _ _ => rfl, fun _ _ => rfl⟩ on ?_ ?_ ?_ ?_ ?_ (inv.spinning _) (inv.runningOn _) ?_
  · rw [own, active]; exact inv.claimed n
  · rw [own]; exact reading
  · rw [own]; exact attached
  · intro m c f
    by_cases e : m = n
    · subst e; rw [own] at f; exact flowing f
    · rw [other m e] at f
      exact (congrArg Pump.state (near m c)).symm.trans (inv.flowing m f)
  · intro m c a
    by_cases e : m = n
    · subst e; rw [own, active] at a; exact inv.waiting m a
    · rw [other m e] at a
      show (s.pumpOf n).state = _ ∨ (s.pumpOf n).state = _
      rw [← near m c]
      exact inv.waiting m a
  · intro l
    rw [own, active]
    refine ⟨(inv.latched l n).1, fun armed => ?_⟩
    obtain ⟨e, m⟩ := latched armed
    rw [e, m] at l
    rcases l with l | l <;> cases l

theorem FlowInv.setReader {s : State} (inv : FlowInv s) (n : HoseId) (r : Reader)
    (reading : r.state = .reading → s.hoses[n].state = .reading) : FlowInv (s.setReader n r) := by
  obtain ⟨hoses, stopped, claimed, own, flowing, waiting, spinning, runningOn, latched⟩ := inv
  refine ⟨⟨hoses.offline, fun m => ?_, hoses.attached⟩, stopped, claimed, own, flowing, waiting, spinning,
    runningOn, latched⟩
  rw [show (s.setReader n r).readers[m] = _ from s.setReader_get n m r]
  split_ifs with e
  · rw [e]; exact reading
  · exact hoses.reading m

/-- A channel that is not attached to a delivery any more. -/
theorem FlowInv.detach {s : State} (inv : FlowInv s) (m : MeterId) : FlowInv (s.detach m) := by
  obtain ⟨hoses, stopped, claimed, own, flowing, waiting, spinning, runningOn, latched⟩ := inv
  refine ⟨⟨hoses.offline, hoses.reading, fun n => ?_⟩, stopped, claimed, own, flowing, waiting, spinning,
    runningOn, latched⟩
  rw [show (s.detach m).meters[meterOf n] = _ from s.setMeter_get m (meterOf n) _]
  split_ifs
  · intro e; cases e
  · exact hoses.attached n

/-- A pump moved alone, its claims as they were. -/
theorem FlowInv.setPump {s : State} (inv : FlowInv s) (k : CompId) (p : Pump)
    (stopped : s.isSealed = false → p.state = .off ∧ p.spinUp = none ∧ p.runOn = none)
    (claims : p.claims = s.pumps[k].claims)
    (flowing : ∀ n : HoseId, s.hoseComp n = k → s.hoses[n].state = .flowing → p.state = .running)
    (waiting : ∀ n : HoseId, s.hoseComp n = k → s.hoses[n].state.isActive = true →
      p.state = .starting ∨ p.state = .running)
    (spinning : p.spinUp.isSome = true → p.state = .starting)
    (runningOn : p.runOn.isSome = true → p.state = .runOn) : FlowInv (s.setPump k p) := by
  have get (j : CompId) : (s.setPump k p).pumps[j] = if j = k then p else s.pumps[j] := s.setPump_get k j p
  have claimsOf (j : CompId) : (s.setPump k p).pumps[j].claims = s.pumps[j].claims := by
    rw [get]
    split_ifs with e
    · rw [e, claims]
    · rfl
  have pumpOf (n : HoseId) : (s.setPump k p).pumpOf n = if s.hoseComp n = k then p else s.pumpOf n := get _
  refine ⟨⟨inv.hoses.offline, inv.hoses.reading, inv.hoses.attached⟩, fun off j => ?_, fun n => ?_,
    fun j n c => ?_, fun n f => ?_, fun n a => ?_, fun j x => ?_, fun j x => ?_, inv.latched⟩
  · rw [get]
    split_ifs
    · exact stopped off
    · exact inv.stopped off j
  · show ((s.setPump k p).pumps[s.hoseComp n]).claims[n] = _
    rw [claimsOf]
    exact inv.claimed n
  · rw [claimsOf] at c
    exact inv.own j n c
  · rw [pumpOf]
    split_ifs with e
    · exact flowing n e f
    · exact inv.flowing n f
  · rw [pumpOf]
    split_ifs with e
    · exact waiting n e a
    · exact inv.waiting n a
  · rw [get] at x ⊢
    split_ifs at x ⊢
    · exact spinning x
    · exact inv.spinning j x
  · rw [get] at x ⊢
    split_ifs at x ⊢
    · exact runningOn x
    · exact inv.runningOn j x

end Sys2Proof.Machine
end

section
/-! The commands and events that leave what FlowInv reads of the part as it is. -/

namespace Sys2Proof.Machine

/-! ## Operations on the hoses, the channels and the pumps -/

theorem State.writeJournal_flow (n : HoseId) (s : State) : (s.writeJournal n).flow = s.flow :=
  s.setHose_flow n _ rfl

theorem State.applyPending_flow (n : HoseId) (s : State) : (s.applyPending n).flow = s.flow :=
  s.setHose_flow n _ (by rw [Hose.applyPending_eq])

theorem State.applyArmed_flow (m : MeterId) (s : State) : (s.applyArmed m).flow = s.flow := by
  unfold State.applyArmed
  split
  · rfl
  · split_ifs
    · exact s.applyPending_flow _
    · rfl

theorem State.reselect_flow (k : CompId) (s : State) : (s.reselect k).flow = s.flow :=
  s.setPump_flow k _ rfl rfl rfl rfl

theorem State.requestGrant_flow (n : HoseId) (s : State) : (s.requestGrant n).flow = s.flow := by
  obtain ⟨state, claims, runOn, spinUp⟩ := Pump.request_keeps (s.maxFull (s.hoseComp n)) n (s.pumpOf n)
  exact s.setPump_flow _ _ state claims spinUp runOn

theorem State.dropGrant_flow (n : HoseId) (s : State) : (s.dropGrant n).flow = s.flow := by
  obtain ⟨state, claims, runOn, spinUp⟩ := Pump.giveUp_keeps n (s.pumpOf n)
  exact s.setPump_flow _ _ state claims spinUp runOn

theorem State.handOver_flow (n : HoseId) (st : StepState) (s : State) : (s.handOver n st).flow = s.flow := by
  unfold State.handOver
  dsimp only
  rw [State.reselect_flow]
  split_ifs
  · exact (State.requestGrant_flow n _).trans (s.setHose_flow n _ rfl)
  · exact (State.dropGrant_flow n _).trans (s.setHose_flow n _ rfl)
  · exact s.setHose_flow n _ rfl

theorem State.noteRate_flow (m : MeterId) (rate : Nat) (s : State) : (s.noteRate m rate).flow = s.flow :=
  s.setMeter_flow m _ rfl

theorem State.nextWindow_flow (m : MeterId) (due : Nat) (s : State) : (s.nextWindow m due).flow = s.flow :=
  s.setMeter_flow m _ rfl

theorem State.post_flow (kind : EventKind) (subject : EventSubject) (value : Int) (s : State) :
    (s.post kind subject value).flow = s.flow := by
  simp [State.flow]

theorem State.ask_flow (sub : Subject) (s : State) : (s.ask sub).flow = s.flow := by
  simp [State.flow]

theorem State.changeBook_flow (k : CompId) (d : Int) (s : State) : (s.changeBook k d).flow = s.flow := by
  simp [State.flow]

theorem State.strayEpisode_flow (m : MeterId) (kind : EventKind) (subject : EventSubject) (c : Int) (s : State) :
    (s.strayEpisode m kind subject c).flow = s.flow := by
  unfold State.strayEpisode
  dsimp only
  split_ifs
  · exact (State.post_flow ..).trans (s.setMeter_flow m _ rfl)
  · exact s.setMeter_flow m _ rfl

theorem State.strayWindow_flow (n : HoseId) (w : Window) (s : State) : (s.strayWindow n w).flow = s.flow := by
  unfold State.strayWindow
  dsimp only
  rw [State.strayEpisode_flow]
  split_ifs
  · exact s.setMeter_flow (meterOf n) _ rfl
  · exact (State.changeBook_flow ..).trans (s.setMeter_flow (meterOf n) _ rfl)

theorem State.accountStray_flow (m : MeterId) (w : Window) (s : State) :
    (s.accountStray m w).flow = s.flow := by
  unfold State.accountStray
  split
  · exact s.strayWindow_flow _ w
  · exact s.strayEpisode_flow _ _ _ _

theorem State.receiptWindow_flow (w : Window) (s : State) : (s.receiptWindow w).flow = s.flow := by
  unfold State.receiptWindow
  split
  · rfl
  · dsimp only
    split_ifs
    · unfold State.detach
      rw [State.setMeterMR_flow]
      simp [State.flow]
    · simp [State.flow]

theorem State.windowRestartMR_flow (owner : Attachment) (s : State) :
    (s.windowRestart meterMR owner).flow = s.flow := by
  unfold State.windowRestart
  exact (State.nextWindow_flow ..).trans
    ((State.setMeterMR_flow ..).trans ((State.accountStray_flow ..).trans (s.noteRate_flow ..)))

theorem State.beginReceipt_flow (k : CompId) (s : State) : (s.beginReceipt k).flow = s.flow := by
  refine Eq.trans ?_ (State.windowRestartMR_flow .receipt (s.setReserved holderReceipt true))
  simp [State.beginReceipt, State.flow]

theorem Meter.observe_attach (new : Bool × Bool) (m : Meter) : (m.observe new).attach = m.attach := by
  unfold Meter.observe
  split
  · rfl
  · split
    · rfl
    · unfold Meter.countBy; split_ifs <;> rfl
    · unfold Meter.countBy; split_ifs <;> rfl
    · rfl

theorem State.endWindow_flow (n : HoseId) (s : State) : (s.endWindow n).flow = s.flow := by
  unfold State.endWindow
  split_ifs
  · exact (State.writeJournal_flow n _).trans (s.setHose_flow n _ rfl)
  · rfl

/-! ## Commands -/

/-- A body that leaves what FlowInv reads. -/
def KeepsFlow (body : Body) : Prop := ∀ s : State, (body s).1.flow = s.flow

theorem KeepsFlow.afterSeal {body : Body} (h : KeepsFlow body) : KeepsFlow (afterSeal body) := by
  intro s
  unfold Machine.afterSeal
  split_ifs
  · exact h s
  · rfl

theorem KeepsFlow.beforeSeal {body : Body} (h : KeepsFlow body) : KeepsFlow (beforeSeal body) := by
  intro s
  unfold Machine.beforeSeal
  split_ifs
  · rfl
  · exact h s

theorem KeepsFlow.of_state {body : Body} (h : ∀ s, (body s).1 = s) : KeepsFlow body :=
  fun s => congrArg State.flow (h s)

theorem State.command_flow (code tag : Byte) {body : Body} (h : KeepsFlow body) (s : State) :
    ∃ t, s.command code tag body = .next t ∧ t.flow = s.flow := ⟨_, rfl, h s.beginExchange⟩

theorem loadProfileBody_flow (profile count flag : Byte) (steps : Vector RawStep 4) :
    KeepsFlow (loadProfileBody profile count flag steps) :=
  .beforeSeal fun s => by (repeat' split) <;> simp [State.flow]

theorem continuationBody_flow (staged : Option StagedLoad) (profile count : Byte)
    (steps : Vector RawStep 4) : KeepsFlow (continuationBody staged profile count steps) := fun s =>
  have continued : KeepsFlow (continueLoad profile count steps) :=
    .beforeSeal fun u => by (repeat' split) <;> simp [State.flow]
  continued { s with staged }

theorem loadMetrologyBody_flow (sect : MetroSection) : KeepsFlow (loadMetrologyBody sect) := by
  refine KeepsFlow.beforeSeal fun s => ?_
  split <;> rfl

theorem putMachineBody_flow (ring : BitVec 24) (number : BitVec 16) (costCentre : Byte) (permitted : BitVec 32)
    (state : Byte) (allowance cap : BitVec 16) :
    KeepsFlow (putMachineBody ring number costCentre permitted state allowance cap) :=
  .afterSeal fun s => by
    unfold putMachineChecked
    (repeat' split) <;> simp [State.flow]

theorem setEntryStateBody_flow (st : EntryState) (selector : Byte) (key : BitVec 24) :
    KeepsFlow (setEntryStateBody st selector key) :=
  .afterSeal fun s => by (repeat' split) <;> simp [State.flow]

theorem removeMachineBody_flow (selector : Byte) (key : BitVec 24) : KeepsFlow (removeMachineBody selector key) :=
  .afterSeal fun s => by (repeat' split) <;> simp [State.flow]

theorem setDayBody_flow (day : BitVec 16) : KeepsFlow (setDayBody day) :=
  .afterSeal fun s => by
    split
    · rfl
    · exact State.forEach_keep State.flow _ (fun p u => u.ask_flow _) _ _

theorem setPresetBody_flow (hose : Byte) (preset : BitVec 32) : KeepsFlow (setPresetBody hose preset) :=
  .afterSeal fun s => by
    dsimp only
    split
    · rfl
    · split_ifs
      · split
        · rfl
        · exact (State.ask_flow ..).trans (s.setHose_flow _ _ rfl)
      · rfl

theorem setStockBody_flow (comp : Byte) (book : BitVec 32) : KeepsFlow (setStockBody comp book) :=
  .afterSeal fun s => by (repeat' split) <;> simp [State.flow]

theorem receiptBeginBody_flow (comp : Byte) : KeepsFlow (receiptBeginBody comp) :=
  .afterSeal fun s => by (repeat' split) <;> simp [State.beginReceipt_flow]

theorem receiptEndBody_flow : KeepsFlow receiptEndBody :=
  .afterSeal fun s => by (repeat' split) <;> simp [State.flow]

theorem setParkedBody_flow (value : Byte) : KeepsFlow (setParkedBody value) :=
  .afterSeal fun s => by split_ifs <;> rfl

theorem getHoseBody_flow (hose page : Byte) : KeepsFlow (getHoseBody hose page) :=
  .of_state fun s => by unfold getHoseBody; split <;> simp only [viewPage_state]

theorem getLinkBody_flow (station page : Byte) : KeepsFlow (getLinkBody station page) :=
  .of_state fun s => by unfold getLinkBody; split_ifs <;> simp only [viewPage_state]

theorem readRecordBody_flow (k : BitVec 32) (part drain : Byte) : KeepsFlow (readRecordBody k part drain) :=
  fun s => by unfold readRecordBody; split_ifs <;> rfl

theorem readRecordDrainBody_flow (k : BitVec 32) (part : Byte) : KeepsFlow (readRecordDrainBody k part) :=
  fun s => by unfold readRecordDrainBody; dsimp only; split_ifs <;> rfl

theorem readEventBody_flow : KeepsFlow readEventBody := fun s => by
  unfold readEventBody
  dsimp only
  split <;> rfl

theorem setEventMaskBody_flow (mask : BitVec 24) : KeepsFlow (setEventMaskBody mask) := fun s => by
  unfold setEventMaskBody
  split_ifs <;> rfl

/-! ## Commands and events -/

/-- The commands and events that can move what FlowInv speaks of: the seal and what is loaded before it, the restarts,
the hose commands, the lines, the readers, the windows and the expiries of a hose, a pump or the metrology scan. -/
def movesFlow : Instr → Bool
  | .setConfig .. | .sealPart .. | .restart .. | .powerUp | .resetnAssertion | .authorise .. | .stop ..
  | .estopClear .. | .seatEvent .. | .unseatEvent .. | .deadmanHeld .. | .deadmanRelease ..
  | .estopAssertion | .pfltAssertion .. | .pfltRelease .. | .periodExpiry .. | .padMeasurement ..
  | .armExpiry .. | .pauseExpiry .. | .windowExpiry .. | .spinUpExpiry .. | .runOnExpiry ..
  | .scanExpiry => true
  | _ => false

theorem exec_flow (i : Instr) (s : State) (h : movesFlow i = false) :
    ∃ t, exec i s = .next t ∧ t.flow = s.flow := by
  cases i
  case setConfig | sealPart | restart | powerUp | resetnAssertion | authorise | stop | estopClear | seatEvent
    | unseatEvent | deadmanHeld | deadmanRelease | estopAssertion | pfltAssertion | pfltRelease | periodExpiry
    | padMeasurement | armExpiry | pauseExpiry | windowExpiry | spinUpExpiry | runOnExpiry | scanExpiry => cases h
  case loadProfile => exact State.command_flow _ _ (loadProfileBody_flow _ _ _ _) s
  case loadProfileContinuation => exact State.command_flow _ _ (continuationBody_flow _ _ _ _) s
  case loadMetrology => exact State.command_flow _ _ (loadMetrologyBody_flow _) s
  case putMachine => exact State.command_flow _ _ (putMachineBody_flow _ _ _ _ _ _ _) s
  case barMachine => exact State.command_flow _ _ (setEntryStateBody_flow _ _ _) s
  case unbarMachine => exact State.command_flow _ _ (setEntryStateBody_flow _ _ _) s
  case removeMachine => exact State.command_flow _ _ (removeMachineBody_flow _ _) s
  case getMachine => exact State.command_flow _ _ (.of_state (getMachineBody_state _ _ _ _)) s
  case setDay => exact State.command_flow _ _ (setDayBody_flow _) s
  case setPreset => exact State.command_flow _ _ (setPresetBody_flow _ _) s
  case getHose => exact State.command_flow _ _ (getHoseBody_flow _ _) s
  case readRecord => exact State.command_flow _ _ (readRecordBody_flow _ _ _) s
  case readRecordDrain => exact State.command_flow _ _ (readRecordDrainBody_flow _ _) s
  case release => exact State.command_flow _ _ (fun _ => rfl) s
  case setStock => exact State.command_flow _ _ (setStockBody_flow _ _) s
  case receiptBegin => exact State.command_flow _ _ (receiptBeginBody_flow _) s
  case receiptEnd => exact State.command_flow _ _ receiptEndBody_flow s
  case setParked => exact State.command_flow _ _ (setParkedBody_flow _) s
  case getStock => exact State.command_flow _ _ (.of_state fun u => viewPage_state _ u.stockRows u) s
  case getLink => exact State.command_flow _ _ (getLinkBody_flow _ _) s
  case readEvent => exact State.command_flow _ _ readEventBody_flow s
  case setEventMask => exact State.command_flow _ _ (setEventMaskBody_flow _) s
  case nop | unknownCommand | exchangeCutShort | estopRelease => exact ⟨_, rfl, rfl⟩
  case pwmPeriodStart k =>
    refine ⟨_, rfl, ?_⟩
    split
    · rfl
    · exact State.setPump_flow k _ (s.reach _) rfl rfl rfl rfl
  case phaseLineObservation m a b =>
    refine ⟨_, rfl, ?_⟩
    dsimp only
    split
    · rfl
    · exact State.setMeter_flow m _ _ (Meter.observe_attach _ _)
  all_goals
    refine ⟨_, rfl, ?_⟩
    dsimp only
    (repeat' split) <;> simp [State.flow]

end Sys2Proof.Machine
end

section
/-! The operations on a hose and its pump keep FlowInv (03, R42, R44, R45, R47, R48, R51, R55 to R58; 05, R76 to
R81). -/

namespace Sys2Proof.Machine

/-! ## A hose at rest, and the cancellation (R42) -/

theorem State.restState_cases (n : HoseId) (s : State) :
    s.restState n = .idle ∨ s.restState n = .finished := by
  unfold State.restState
  split_ifs
  · exact Or.inr rfl
  · exact Or.inl rfl

theorem FlowInv.not_attached {s : State} (inv : FlowInv s) (n : HoseId)
    (h : s.hoses[n].state.delivering = false) : s.meters[meterOf n].attach ≠ .delivery := fun a => by
  rw [inv.hoses.attached n a] at h
  cases h

/-- A hose without a claim moves to a state without one, its reader not reading and its channel not attached to a
delivery. -/
theorem FlowInv.moveFree {s : State} (inv : FlowInv s) (n : HoseId) (h : Hose) (on : s.isSealed = true)
    (free : h.state.isActive = false) (unarmed : h.state ≠ .armed) (inactive : s.hoses[n].state.isActive = false)
    (still : s.readers[n].state ≠ .reading) (apart : s.meters[meterOf n].attach ≠ .delivery) :
    FlowInv (s.setHose n h) := by
  refine inv.setHose n h on (free.trans inactive.symm) (fun r => absurd r still) (fun a => absurd a apart)
    (fun f => ?_) (fun a => absurd a unarmed)
  rw [f] at free
  cases free

theorem FlowInv.not_reading {s : State} (inv : FlowInv s) (n : HoseId) (h : s.hoses[n].state ≠ .reading) :
    s.readers[n].state ≠ .reading := fun r => h (inv.hoses.reading n r)

theorem FlowInv.toRest {s : State} (inv : FlowInv s) (n : HoseId) (on : s.isSealed = true)
    (inactive : s.hoses[n].state.isActive = false) (still : s.readers[n].state ≠ .reading)
    (apart : s.meters[meterOf n].attach ≠ .delivery) : FlowInv (s.toRest n) := by
  have rests : (Hose.bare (s.restState n) s.hoses[n].journal).state.isActive = false ∧
      (Hose.bare (s.restState n) s.hoses[n].journal).state ≠ .armed := by
    rcases s.restState_cases n with e | e <;> rw [e] <;> exact ⟨rfl, nofun⟩
  exact inv.moveFree n _ on rests.1 rests.2 inactive still apart

theorem State.disarm_flow (n : HoseId) (s : State) : (s.disarm n).flow = s.flow := by
  simp [State.disarm, State.flow]

theorem FlowInv.cancel {s : State} (inv : FlowInv s) (n : HoseId)
    (h : s.hoses[n].state = .identified ∨ s.hoses[n].state = .unidentified ∨ s.hoses[n].state = .armed) :
    FlowInv (s.cancel n) := by
  have on := inv.sealed n (by rcases h with e | e | e <;> rw [e] <;> nofun)
  have inactive : s.hoses[n].state.isActive = false := by rcases h with e | e | e <;> rw [e] <;> rfl
  have still := inv.not_reading n (by rcases h with e | e | e <;> rw [e] <;> nofun)
  have apart := inv.not_attached n (by rcases h with e | e | e <;> rw [e] <;> rfl)
  unfold State.cancel
  split_ifs
  · have disarmed : FlowInv (s.disarm n) := inv.of_flow (s.disarm_flow n)
    exact disarmed.toRest n (by simpa [State.disarm] using on) (by simpa [State.disarm] using inactive)
      (by simpa [State.disarm] using still) (by simpa [State.disarm] using apart)
  · exact inv.toRest n on inactive still apart

theorem FlowInv.abandonRead {s : State} (inv : FlowInv s) (n : HoseId) : FlowInv (s.abandonRead n) :=
  inv.setReader n _ nofun

theorem State.abandonRead_still (n : HoseId) (s : State) : (s.abandonRead n).readers[n].state ≠ .reading := by
  rw [show (s.abandonRead n).readers[n] = _ from s.setReader_same n _]
  nofun

/-! ## The entry to SETTLING (R51) -/

/-- A pump without claimants that runs down is in RUN_ON or OFF. -/
theorem State.runDown_idle (p : Pump) (s : State) (idle : ∀ n : HoseId, p.claims[n] = false) :
    (∀ n : HoseId, (s.runDown p).claims[n] = false) ∧
    ((s.runDown p).spinUp.isSome = true → (s.runDown p).state = .starting) ∧
    ((s.runDown p).runOn.isSome = true → (s.runDown p).state = .runOn) := by
  unfold State.runDown
  split_ifs
  · exact ⟨idle, nofun, fun _ => rfl⟩
  · exact ⟨Pump.halted_claims _ _, nofun, nofun⟩

/-- A pump in use stays STARTING or RUNNING as a hose of it settles, unless it was the last: then it runs down. -/
theorem State.released_run (n : HoseId) (p : Pump) (s : State)
    (spinning : p.spinUp.isSome = true → p.state = .starting)
    (runningOn : p.runOn.isSome = true → p.state = .runOn) :
    ((s.released n p).state = p.state ∨ ∀ m : HoseId, m ≠ n → p.claims[m] = false) ∧
    (∀ m : HoseId, (s.released n p).claims[m] = if m = n then false else p.claims[m]) ∧
    ((s.released n p).spinUp.isSome = true → (s.released n p).state = .starting) ∧
    ((s.released n p).runOn.isSome = true → (s.released n p).state = .runOn) := by
  obtain ⟨state, -, runOn, spinUp⟩ := Pump.giveUp_keeps n p
  have state : (p.without n).state = p.state := state
  have runOn : (p.without n).runOn = p.runOn := runOn
  have spinUp : (p.without n).spinUp = p.spinUp := spinUp
  rcases s.released_cases n p with e | ⟨-, alone, e⟩ <;> rw [e]
  · rw [state, runOn, spinUp]
    exact ⟨Or.inl rfl, fun m => Pump.without_claims n m p, spinning, runningOn⟩
  · have none' (m : HoseId) : (p.without n).claims[m] = false := by
      rw [Pump.without_claims]
      split_ifs with e
      · rfl
      · exact alone m e
    obtain ⟨claims, spinning, runningOn⟩ := s.runDown_idle (p.without n) none'
    exact ⟨Or.inr alone, fun m => by rw [claims, ← Pump.without_claims, none'], spinning, runningOn⟩

theorem FlowInv.enterSettling {s : State} (inv : FlowInv s) (n : HoseId) (cause : EndCause)
    (active : s.hoses[n].state.isActive = true) : FlowInv (s.enterSettling n cause) := by
  have on := inv.sealed n (by intro e; rw [e] at active; cases active)
  obtain ⟨stays, claims, spinning, runningOn⟩ := s.released_run n (s.pumpOf n)
    (inv.spinning _) (inv.runningOn _)
  have pump := s.enterSettling_pumpOf n cause
  obtain ⟨context, others⟩ := s.enterSettling_hose n cause
  have settling : (s.enterSettling n cause).hoses[n].state = .settling := by rw [context]; rfl
  have elsewhere (k : CompId) (ne : k ≠ s.hoseComp n) := s.enterSettling_pump_other n cause k ne
  rw [s.enterSettling_eq n cause] at pump settling others elsewhere ⊢
  generalize (s.enterSettling n cause).hoses = hoses at *
  generalize (s.enterSettling n cause).pumps = pumps at *
  generalize s.released n (s.pumpOf n) = p at *
  let t : State := { s with hoses, pumps }
  have near (m : HoseId) (c : s.hoseComp m = s.hoseComp n) : s.pumpOf m = s.pumpOf n := by
    rw [s.pumpOf_of_comp m _ c]
    rfl
  have claimant (m : HoseId) (c : s.hoseComp m = s.hoseComp n) (a : t.hoses[m].state.isActive = true) :
      m ≠ n ∧ p.state = (s.pumpOf n).state := by
    have ne : m ≠ n := by
      rintro rfl
      rw [settling] at a
      cases a
    refine ⟨ne, stays.resolve_right fun alone => ?_⟩
    rw [others m ne, ← inv.claimed m, near m c, alone m ne] at a
    cases a
  refine inv.move (n := n) (t := t) ⟨rfl, rfl, rfl, rfl, fun m ne => by rw [others m ne], fun _ _ => rfl,
    fun _ _ => rfl, elsewhere, fun m ne => ?_⟩ on ?_ ?_ ?_ ?_ ?_ ?_ ?_ ?_
  · rw [pump]
    exact (claims m).trans (if_neg ne)
  · rw [pump, settling]
    exact (claims n).trans (if_pos rfl)
  · intro r
    rw [inv.hoses.reading n r] at active
    cases active
  · intro _
    rw [settling]
    rfl
  · intro m c f
    obtain ⟨ne, kept⟩ := claimant m c (by rw [f]; rfl)
    rw [others m ne] at f
    rw [pump]
    exact kept.trans (by rw [← near m c]; exact inv.flowing m f)
  · intro m c a
    obtain ⟨ne, kept⟩ := claimant m c a
    rw [pump]
    show p.state = _ ∨ p.state = _
    rw [kept]
    exact inv.waiting n active
  · rw [pump]; exact spinning
  · rw [pump]; exact runningOn
  · intro _
    rw [settling]
    exact ⟨rfl, nofun⟩

/-! ## PRIMING, FLOWING and PAUSED (R45, R47, R48) -/

theorem FlowInv.enterFlowing {s : State} (inv : FlowInv s) (n : HoseId) (priming : s.hoses[n].state = .priming)
    (running : (s.pumpOf n).state = .running) : FlowInv (s.enterFlowing n) := by
  let st := s.hoses[n].flowingStep (s.profileOf n)
  have on := inv.sealed n (by rw [priming]; nofun)
  have flows : FlowInv (s.setHose n (s.hoses[n].flowing st)) := by
    refine inv.setHose n _ on (by rw [priming]; rfl) (fun r => ?_) (fun _ => rfl) (fun _ => running) nofun
    rw [inv.hoses.reading n r] at priming
    cases priming
  refine flows.of_flow ?_
  show ((if st.stage = .full then _ else _ : State).reselect _).flow = _
  rw [State.reselect_flow]
  split_ifs
  · exact State.requestGrant_flow n _
  · rfl

theorem FlowInv.flowOrWait {s : State} (inv : FlowInv s) (n : HoseId) (priming : s.hoses[n].state = .priming) :
    FlowInv (s.flowOrWait n) := by
  by_cases running : (s.pumpOf n).state = .running
  · rw [s.flowOrWait_flows n running]
    exact inv.enterFlowing n priming running
  · rw [s.flowOrWait_waits n running]
    exact inv.of_flow (State.reselect_flow _ s)

theorem FlowInv.pause {s : State} (inv : FlowInv s) (n : HoseId) (active : s.hoses[n].state.isActive = true) :
    FlowInv (s.pause n) := by
  have on := inv.sealed n (by intro e; rw [e] at active; cases active)
  have dropped : FlowInv (s.dropGrant n) := inv.of_flow (s.dropGrant_flow n)
  have paused : FlowInv ((s.dropGrant n).setHose n
      ((s.dropGrant n).hoses[n].paused ((s.dropGrant n).nowSec + (s.dropGrant n).pauseMax))) := by
    refine dropped.setHose n _ on active.symm (fun r => ?_) (fun _ => rfl) nofun nofun
    rw [inv.hoses.reading n r] at active
    cases active
  exact paused.of_flow (State.reselect_flow ..)

theorem FlowInv.resume {s : State} (inv : FlowInv s) (n : HoseId) (paused : s.hoses[n].state = .paused) :
    FlowInv (s.resume n) := by
  have on := inv.sealed n (by rw [paused]; nofun)
  have primed : FlowInv (s.reprimed n) := by
    refine inv.setHose n _ on (by rw [paused]; rfl) (fun r => ?_) (fun _ => rfl) nofun nofun
    rw [inv.hoses.reading n r] at paused
    cases paused
  rw [State.resume_eq]
  exact primed.flowOrWait n (congrArg Hose.state (s.setHose_same n _))

/-- A pump with a new claim runs or starts. -/
theorem State.claimed_run (n : HoseId) (p : Pump) (s : State) (sound : p.state ≠ .fault)
    (spinning : p.spinUp.isSome = true → p.state = .starting)
    (runningOn : p.runOn.isSome = true → p.state = .runOn) :
    ((s.claimed n p).state = .starting ∨ (s.claimed n p).state = .running) ∧
    (p.state = .running → (s.claimed n p).state = .running) ∧
    ((s.claimed n p).spinUp.isSome = true → (s.claimed n p).state = .starting) ∧
    ((s.claimed n p).runOn.isSome = true → (s.claimed n p).state = .runOn) := by
  obtain ⟨state, claims, grants, queue, spinUp, runOn, demand, duty, pwmStart, pwmDue⟩ := p
  cases state <;> simp_all [State.claimed]

theorem meterOf_inj {m n : HoseId} (h : meterOf m = meterOf n) : m = n := by
  revert m n; decide

theorem FlowInv.startDelivery {s : State} (inv : FlowInv s) (n : HoseId) (armed : s.hoses[n].state = .armed)
    (sound : (s.pumpOf n).state ≠ .fault) : FlowInv (s.startDelivery n) := by
  have on := inv.sealed n (by rw [armed]; nofun)
  obtain ⟨latch, metro⟩ := inv.unlatched n (Or.inr armed)
  obtain ⟨run, running, spinning, runningOn⟩ := s.claimed_run n (s.pumpOf n) sound (inv.spinning _) (inv.runningOn _)
  obtain ⟨d, ⟨-, meters, frame⟩, shape⟩ := s.startDelivery_starts n
  rw [shape]
  have hose (m : HoseId) : d.hoses[m] = if m = n then s.hoses[n].started n (s.hoseComp n) else s.hoses[m] := by
    rw [frame, getElem_set_fin]
  have own : d.hoses[n].state = .priming := by rw [hose, if_pos rfl]; rfl
  have pump : d.pumpOf n = s.claimed n (s.pumpOf n) :=
    pumpOf_of_set n d _ s.pumps (k := s.hoseComp n) (by rw [frame]) (by rw [frame]; rfl)
  refine FlowInv.flowOrWait ?_ n own
  have near (m : HoseId) (c : s.hoseComp m = s.hoseComp n) : s.pumpOf m = s.pumpOf n := by
    rw [s.pumpOf_of_comp m _ c]
    rfl
  refine inv.move (n := n) ⟨by rw [frame], by rw [frame], by rw [frame], by rw [frame], fun m ne => ?_,
    fun m _ => by rw [frame], fun m ne => ?_, fun k ne => ?_, fun m ne => ?_⟩ on ?_ ?_ ?_ ?_ ?_ ?_ ?_ ?_
  · rw [hose, if_neg ne]
  · rw [meters, getElem_set_fin, if_neg (fun e => ne (meterOf_inj e))]
  · rw [frame, getElem_set_fin, if_neg ne]
  · rw [pump, State.claimed_claims, getElem_set_fin, if_neg ne]
  · rw [pump, own, State.claimed_claims, getElem_set_fin, if_pos rfl]
    rfl
  · rw [frame]
    intro r
    rw [inv.hoses.reading n r] at armed
    cases armed
  · rw [own]
    exact fun _ => rfl
  · intro m c f
    rw [pump]
    refine running ?_
    by_cases e : m = n
    · subst e; rw [own] at f; cases f
    · rw [hose, if_neg e] at f
      rw [← near m c]
      exact inv.flowing m f
  · intro _ _ _
    rw [pump]
    exact run
  · rw [pump]; exact spinning
  · rw [pump]; exact runningOn
  · intro l
    rw [latch, metro] at l
    rcases l with l | l <;> cases l

/-! ## The pumps (R58, R77 to R81) -/

/-- A pump without claimants has no hose PRIMING, FLOWING or PAUSED. -/
theorem FlowInv.inactive_of_idle {s : State} (inv : FlowInv s) (k : CompId)
    (h : ∀ n : HoseId, s.pumps[k].claims[n] = false) (n : HoseId) (c : s.hoseComp n = k) :
    s.hoses[n].state.isActive = false := by
  subst c
  rw [← inv.claimed n]
  exact h n

/-- Hoses of a pump that is neither STARTING nor RUNNING hold no claim on it. -/
theorem FlowInv.unclaimed {s : State} (inv : FlowInv s) (k : CompId) (starting : s.pumps[k].state ≠ .starting)
    (running : s.pumps[k].state ≠ .running) (n : HoseId) : s.pumps[k].claims[n] = false := by
  by_contra c
  have c : s.pumps[k].claims[n] = true := by simpa using c
  have comp := inv.own k n c
  subst comp
  have active : s.hoses[n].state.isActive = true := (inv.claimed n).symm.trans c
  exact (inv.waiting n active).elim starting running

/-- A pump without claimants is brought to another state, its claims as they were. -/
theorem FlowInv.movePump {s : State} (inv : FlowInv s) (k : CompId) (p : Pump) (on : s.isSealed = true)
    (idle : ∀ n : HoseId, s.pumps[k].claims[n] = false) (claims : ∀ n : HoseId, p.claims[n] = false)
    (spinning : p.spinUp.isSome = true → p.state = .starting)
    (runningOn : p.runOn.isSome = true → p.state = .runOn) : FlowInv (s.setPump k p) := by
  have same : p.claims = s.pumps[k].claims := by
    ext i hi
    exact (claims ⟨i, hi⟩).trans (idle ⟨i, hi⟩).symm
  refine inv.setPump k p (fun off => absurd off (by simp [on])) same (fun n c f => ?_) (fun n c a => ?_) spinning
    runningOn
  · have := inv.inactive_of_idle k idle n c
    rw [f] at this
    cases this
  · rw [inv.inactive_of_idle k idle n c] at a
    cases a

theorem FlowInv.haltPump {s : State} (inv : FlowInv s) (k : CompId) (on : s.isSealed = true)
    (starting : s.pumps[k].state ≠ .starting) (running : s.pumps[k].state ≠ .running) :
    FlowInv (s.setPump k (s.pumps[k].halted .off)) :=
  inv.movePump k _ on (inv.unclaimed k starting running) (Pump.halted_claims _ _) (by simp [Pump.halted])
    (by simp [Pump.halted])

/-- A pump that has not been FAULT or OFF before runs with its claims, or runs down without one (R77). -/
theorem FlowInv.setRunning {s : State} (inv : FlowInv s) (k : CompId) (on : s.isSealed = true)
    (starting : s.pumps[k].state = .starting) :
    FlowInv (s.setPump k { s.pumps[k] with spinUp := none, state := .running }) :=
  inv.setPump k _ (fun off => absurd off (by simp [on])) rfl (fun _ _ _ => rfl) (fun _ _ _ => Or.inr rfl)
    (by simp) (fun x => by
      have := inv.runningOn k x
      rw [starting] at this
      cases this)

theorem EntersFlowing.pump_state {n : HoseId} {s t : State} (h : EntersFlowing n s t) (k : CompId) :
    t.pumps[k].state = s.pumps[k].state := by
  obtain ⟨-, pumps, -⟩ := h
  rw [pumps, getElem_set_fin]
  split_ifs with e
  · rw [e]
    exact (Pump.entered_keeps _ _ n (s.pumpOf n)).1
  · rfl

/-- PRIMING hoses with RUNNING pumps enter FLOWING one after another. -/
theorem FlowInv.forEach_enterFlowing (l : List HoseId) {s : State} (inv : FlowInv s) (once : l.Nodup)
    (priming : ∀ n ∈ l, s.hoses[n].state = .priming) (running : ∀ n ∈ l, (s.pumpOf n).state = .running) :
    FlowInv (s.forEach l State.enterFlowing) := by
  induction l generalizing s with
  | nil => exact inv
  | cons a rest ih =>
    obtain ⟨notin, once⟩ := List.nodup_cons.mp once
    have enters := s.enterFlowing_enters a
    have kept := enters.keeps
    have entered := inv.enterFlowing a (priming a List.mem_cons_self) (running a List.mem_cons_self)
    show FlowInv ((s.enterFlowing a).forEach rest _)
    refine ih entered once (fun n mem => ?_) (fun n mem => ?_)
    · rw [kept.others n fun e => notin (e ▸ mem)]
      exact priming n (List.mem_cons_of_mem a mem)
    · have comp : (s.enterFlowing a).hoseComp n = s.hoseComp n :=
        State.hoseComp_of_config n s _ (by rw [kept.frame])
      rw [(s.enterFlowing a).pumpOf_of_comp n _ comp, enters.pump_state]
      exact running n (List.mem_cons_of_mem a mem)

theorem FlowInv.spunUp {s : State} (inv : FlowInv s) (k : CompId) (on : s.isSealed = true)
    (starting : s.pumps[k].state = .starting) : FlowInv (s.spunUp k) := by
  unfold State.spunUp
  dsimp only
  by_cases claimed : s.pumps[k].claims.toList.any id = true
  · rw [if_pos claimed]
    have mem (n : HoseId) (h : n ∈ s.primingClaimants k) :
        s.pumps[k].claims[n] = true ∧ s.hoses[n].state = .priming := by
      simpa [State.primingClaimants, mem_allHoses] using h
    refine (inv.setRunning k on starting).forEach_enterFlowing _ (allHoses_nodup.filter _)
      (fun n h => (mem n h).2) (fun n h => ?_)
    have own : s.hoseComp n = k := inv.own k n (mem n h).1
    exact congrArg Pump.state ((s.setPump_get k (s.hoseComp n) _).trans (if_pos own))
  · rw [if_neg claimed]
    have idle (n : HoseId) : s.pumps[k].claims[n] = false := by
      by_contra c
      exact claimed ((any_toList_iff _).mpr ⟨n, by simpa using c⟩)
    obtain ⟨claims, spinning, runningOn⟩ := s.runDown_idle { s.pumps[k] with spinUp := none } idle
    exact inv.movePump k _ on idle claims spinning runningOn

/-! ## What stops hoses and pumps together (R55, R57, R58) -/

/-- What the response to an emergency stop or a metrology fault leaves of a hose's state. -/
theorem StopsEverything.hose_state {cause : EndCause} {s t : State} (stops : StopsEverything cause s t)
    (n : HoseId) : t.hoses[n].state.isActive = false ∧ t.hoses[n].state ≠ .armed ∧
      (s.hoses[n].state = .reading → t.hoses[n].state = .reading) ∧
      (s.hoses[n].state.delivering = true → t.hoses[n].state.delivering = true) := by
  by_cases active : s.hoses[n].state.isActive = true
  · have settling : t.hoses[n].state = .settling := by rw [(stops.settling n active).1]; rfl
    rw [settling]
    refine ⟨rfl, nofun, fun r => ?_, fun _ => rfl⟩
    rw [r] at active
    cases active
  · have active : s.hoses[n].state.isActive = false := by simpa using active
    by_cases c : s.hoses[n].state = .identified ∨ s.hoses[n].state = .armed
    · rw [stops.cancelled n c]
      have rests : (s.atRest n).state = .idle ∨ (s.atRest n).state = .finished := s.restState_cases n
      refine ⟨?_, ?_, fun r => ?_, fun d => ?_⟩
      · rcases rests with e | e <;> rw [e] <;> rfl
      · rcases rests with e | e <;> rw [e] <;> nofun
      · rcases c with e | e <;> rw [e] at r <;> cases r
      · rcases c with e | e <;> rw [e] at d <;> cases d
    · rw [not_or] at c
      rw [stops.others n active c.1 c.2]
      exact ⟨active, c.2, id, id⟩

/-- All pumps halted and every hose without a claim. -/
theorem FlowInv.of_stops {cause : EndCause} {s t : State} (hoses : HoseInv s)
    (off : s.isSealed = false → ∀ k : CompId, s.pumps[k].state ≠ .fault) (stops : StopsEverything cause s t) :
    FlowInv t := by
  have still : t.isSealed = s.isSealed := by rw [stops.frame]
  have inactive (n : HoseId) := (stops.hose_state n).1
  have halted (k : CompId) : ∃ st, t.pumps[k] = s.pumps[k].halted st := ⟨_, stops.pumps k⟩
  have claims (k : CompId) (n : HoseId) : t.pumps[k].claims[n] = false := by
    obtain ⟨st, e⟩ := halted k
    rw [e]
    exact Pump.halted_claims _ _ n
  have expiries (k : CompId) : t.pumps[k].spinUp = none ∧ t.pumps[k].runOn = none := by
    obtain ⟨st, e⟩ := halted k
    rw [e]
    exact ⟨rfl, rfl⟩
  constructor
  case hoses =>
    refine ⟨fun unsealed n => ?_, fun n r => ?_, fun n a => ?_⟩
    · have offline := hoses.offline (still.symm.trans unsealed) n
      rw [stops.others n (by rw [offline]; rfl) (by rw [offline]; nofun) (by rw [offline]; nofun)]
      exact offline
    · rw [stops.frame] at r
      exact (stops.hose_state n).2.2.1 (hoses.reading n r)
    · rw [stops.frame] at a
      exact (stops.hose_state n).2.2.2 (hoses.attached n a)
  case stopped =>
    refine fun unsealed k => ⟨?_, expiries k⟩
    have sound := off (still.symm.trans unsealed) k
    rw [stops.pumps k]
    exact if_neg fun h => sound h.1
  case claimed => exact fun n => (claims (t.hoseComp n) n).trans (inactive n).symm
  case own => exact fun k n c => absurd c (ne_true_of_eq_false (claims k n))
  case flowing => exact fun n f => absurd (inactive n) (by rw [f]; nofun)
  case waiting => exact fun n a => absurd a (ne_true_of_eq_false (inactive n))
  case spinning => exact fun k x => absurd x (by rw [(expiries k).1]; nofun)
  case runningOn => exact fun k x => absurd x (by rw [(expiries k).2]; nofun)
  case latched => exact fun _ n => ⟨inactive n, (stops.hose_state n).2.1⟩

theorem FlowInv.emergencyStop {s : State} (hoses : HoseInv s) (on : s.isSealed = true) :
    FlowInv s.emergencyStop := by
  let v : State := { s with estopLatch := true }
  have stopped : FlowInv (v.stopAll .estop) :=
    FlowInv.of_stops (s := v) ⟨hoses.offline, hoses.reading, hoses.attached⟩ 
      (fun off => absurd off (by simp [v, on])) (v.stopAll_stops .estop)
  exact stopped.of_flow (State.post_flow ..)

theorem FlowInv.metrologyFault {s : State} (inv : FlowInv s) : FlowInv s.metrologyFault := by
  let v : State := { s with metroFault := true, scanDue := none }
  let u := v.post .metrologyFault .part s.metro.crc.toNat
  have same : u.hoses = s.hoses ∧ u.readers = s.readers ∧ u.meters = s.meters ∧ u.isSealed = s.isSealed ∧
      u.pumps = s.pumps := by
    simp [u, v]
  obtain ⟨hoses, readers, meters, still, pumps⟩ := same
  refine FlowInv.of_stops (s := u) ⟨fun off n => ?_, fun n => ?_, fun n => ?_⟩ (fun off k => ?_)
    (u.stopAll_stops .metrology)
  · rw [hoses]
    exact inv.hoses.offline (still.symm.trans off) n
  · rw [readers, hoses]
    exact inv.hoses.reading n
  · rw [meters, hoses]
    exact inv.hoses.attached n
  · rw [pumps, (inv.stopped (still.symm.trans off) k).1]
    nofun

/-- What a pump fault leaves of a hose's state. -/
theorem FaultsPump.hose_state {k : CompId} {s t : State} (faults : FaultsPump k s t) (n : HoseId) :
    (t.hoses[n].state = .settling ∧ s.hoses[n].state.isActive = true ∧ s.hoseComp n = k) ∨
    (t.hoses[n].state = s.hoses[n].state ∧ (s.hoseComp n = k → s.hoses[n].state.isActive = false)) := by
  by_cases h : s.hoses[n].state.isActive = true ∧ s.hoseComp n = k
  · refine Or.inl ⟨?_, h⟩
    rw [(faults.settled n h.1 h.2).1]
    rfl
  · have out : s.hoses[n].state.isActive = false ∨ s.hoseComp n ≠ k := by
      by_cases e : s.hoseComp n = k
      · exact Or.inl (by simpa [e] using h)
      · exact Or.inr e
    exact Or.inr ⟨by rw [faults.others n out], fun e => out.resolve_right (fun ne => ne e)⟩

theorem FlowInv.of_faults {k : CompId} {s t : State} (inv : FlowInv s) (on : s.isSealed = true)
    (faults : FaultsPump k s t) : FlowInv t := by
  have sealed : t.isSealed = true := by rw [faults.frame]; exact on
  have off : ¬ t.isSealed = false := by simp [sealed]
  have comp (n : HoseId) : t.hoseComp n = s.hoseComp n := State.hoseComp_of_config n s t (by rw [faults.frame])
  have own : t.pumps[k] = s.pumps[k].halted .fault := by
    rw [faults.frame]
    exact Vector.getElem_set_self _
  have other (j : CompId) (ne : j ≠ k) : t.pumps[j] = s.pumps[j] := by
    rw [faults.frame, getElem_set_fin, if_neg ne]
  have pump (n : HoseId) : t.pumpOf n = t.pumps[s.hoseComp n] := t.pumpOf_of_comp n _ (comp n)
  have inactive (n : HoseId) (c : s.hoseComp n = k) : t.hoses[n].state.isActive = false := by
    rcases faults.hose_state n with ⟨st, -, -⟩ | ⟨st, idle⟩ <;> rw [st]
    · rfl
    · exact idle c
  have moved (n : HoseId) (a : t.hoses[n].state.isActive = true) :
      t.hoses[n].state = s.hoses[n].state ∧ t.pumpOf n = s.pumpOf n := by
    have ne : s.hoseComp n ≠ k := fun c => by rw [inactive n c] at a; cases a
    refine ⟨?_, (pump n).trans (other _ ne)⟩
    rcases faults.hose_state n with ⟨-, -, c⟩ | ⟨st, -⟩
    · exact absurd c ne
    · exact st
  constructor
  case hoses =>
    refine ⟨fun h => absurd h off, fun n r => ?_, fun n a => ?_⟩
    · rw [faults.frame] at r
      have reading := inv.hoses.reading n r
      rcases faults.hose_state n with ⟨-, active, -⟩ | ⟨st, -⟩
      · rw [reading] at active; cases active
      · rw [st, reading]
    · rw [faults.frame] at a
      rcases faults.hose_state n with ⟨st, -, -⟩ | ⟨st, -⟩ <;> rw [st]
      · rfl
      · exact inv.hoses.attached n a
  case stopped => exact fun h => absurd h off
  case claimed =>
    intro n
    rw [pump]
    by_cases c : s.hoseComp n = k
    · rw [inactive n c, ← pump, t.pumpOf_of_comp n k ((comp n).trans c), own]
      exact Pump.halted_claims _ _ n
    · rw [other _ c]
      rcases faults.hose_state n with ⟨-, -, e⟩ | ⟨st, -⟩
      · exact absurd e c
      · rw [st]
        exact inv.claimed n
  case own =>
    intro j n c
    rw [comp]
    by_cases e : j = k
    · subst e
      rw [own, Pump.halted_claims] at c
      cases c
    · rw [other j e] at c
      exact inv.own j n c
  case flowing =>
    intro n f
    obtain ⟨st, same⟩ := moved n (by rw [f]; rfl)
    rw [same]
    exact inv.flowing n (st ▸ f)
  case waiting =>
    intro n a
    obtain ⟨st, same⟩ := moved n a
    rw [same]
    exact inv.waiting n (st ▸ a)
  case spinning =>
    intro j x
    by_cases e : j = k
    · subst e; rw [own] at x; cases x
    · rw [other j e] at x ⊢; exact inv.spinning j x
  case runningOn =>
    intro j x
    by_cases e : j = k
    · subst e; rw [own] at x; cases x
    · rw [other j e] at x ⊢; exact inv.runningOn j x
  case latched =>
    intro l n
    rw [faults.frame] at l
    obtain ⟨idle, notArmed⟩ := inv.latched l n
    rcases faults.hose_state n with ⟨st, -, -⟩ | ⟨st, -⟩ <;> rw [st]
    · exact ⟨rfl, nofun⟩
    · exact ⟨idle, notArmed⟩

theorem FlowInv.pumpFault {s : State} (inv : FlowInv s) (k : CompId) (on : s.isSealed = true) :
    FlowInv (s.pumpFault k) := inv.of_faults on (s.pumpFault_faults k)

end Sys2Proof.Machine
end

section
/-! The readers, the windows and the hose commands keep FlowInv (01, R2, R3, R7 to R12; 03, R37, R40, R41, R46, R50,
R52, R53; 04, R68; 06, R90). -/

namespace Sys2Proof.Machine

/-! ## The readers (R2, R7, R10 to R12) -/

section
variable {s : State} (inv : FlowInv s) (n : HoseId)
include inv

/-- A read ends: the reader waits and the hose, which was READING, is free and not ARMED. -/
theorem FlowInv.endRead (r : Reader) (h : Hose) (on : s.isSealed = true) (waits : r.state ≠ .reading)
    (free : h.state.isActive = false) (unarmed : h.state ≠ .armed)
    (inactive : s.hoses[n].state.delivering = false) : FlowInv ((s.setReader n r).setHose n h) := by
  have stopped : FlowInv (s.setReader n r) := inv.setReader n r fun e => absurd e waits
  refine stopped.moveFree n h on free unarmed ?_ ?_ (inv.not_attached n inactive)
  · show s.hoses[n].state.isActive = false
    exact (Bool.or_eq_false_iff.mp inactive).1
  · rw [show (s.setReader n r).readers[n] = r from s.setReader_same n r]
    exact waits

theorem FlowInv.readFailed (reason : UnidReason) (on : s.isSealed = true)
    (inactive : s.hoses[n].state.delivering = false) : FlowInv (s.readFailed n reason) :=
  (inv.endRead n _ _ on (by nofun) rfl (by nofun) inactive).of_flow (State.post_flow ..)

theorem FlowInv.readSucceeded (ring : BitVec 24) (orientation : Nat) (reading : s.hoses[n].state = .reading) :
    FlowInv (s.readSucceeded n ring orientation) := by
  have on := inv.sealed n (by rw [reading]; nofun)
  have inactive : s.hoses[n].state.delivering = false := by rw [reading]; rfl
  unfold State.readSucceeded
  dsimp only
  split
  · exact (inv.endRead n _ _ on (by nofun) rfl (by nofun) inactive).of_flow (State.post_flow ..)
  · exact (inv.endRead n _ _ on (by nofun) rfl (by nofun) inactive).of_flow (State.post_flow ..)

theorem FlowInv.endTry (counts : List Nat) (reading : s.hoses[n].state = .reading) :
    FlowInv (s.endTry n counts) := by
  unfold State.endTry
  dsimp only
  split
  · exact inv.readSucceeded n _ _ reading
  · split_ifs
    · exact inv.setReader n _ fun _ => reading
    · exact inv.readFailed n _ (inv.sealed n (by rw [reading]; nofun)) (by rw [reading]; rfl)

theorem FlowInv.padMeasured (due count : Nat) (st : s.readers[n].state = .reading) :
    FlowInv (s.tryMeasured n due count) := by
  have reading := inv.hoses.reading n st
  unfold State.tryMeasured
  dsimp only
  split_ifs
  · exact inv.endTry n _ reading
  · exact inv.setReader n _ fun _ => reading

theorem FlowInv.passMeasured (due count : Nat) : FlowInv (s.passMeasured n due count) := by
  refine inv.setReader n _ fun e => ?_
  by_cases last : 23 ≤ s.readers[n].pad
  · rw [if_pos last] at e
    cases e
  · rw [if_neg last] at e
    exact inv.hoses.reading n e

theorem FlowInv.readerPeriodAt (due : Nat) : FlowInv (s.readerPeriodAt due n) := by
  refine inv.setReader n _ fun e => ?_
  split_ifs at e
  · cases e
  · exact inv.hoses.reading n e

/-- A read starts at an IDLE hose, and fails at once without a baseline. -/
theorem FlowInv.startRead (idle : s.hoses[n].state = .idle) : FlowInv (s.startRead n) := by
  have on := inv.sealed n (by rw [idle]; nofun)
  have inactive : s.hoses[n].state.delivering = false := by rw [idle]; rfl
  by_cases none' : none ∈ s.readers[n].baseline.toList
  · rw [s.startRead_fails n none']
    exact (inv.endRead n (s.readers[n].starting.ended (.failed .noBaseline 1)) _ on (by nofun) rfl
      (by nofun) inactive).of_flow (State.post_flow ..)
  · rw [s.startRead_measures n fun p mem => Option.isSome_iff_ne_none.mpr fun e => none' (e ▸ mem)]
    have moved : FlowInv (s.setHose n { s.hoses[n] with state := .reading }) := by
      refine inv.setHose n _ on ?_ (fun _ => rfl) (fun a => ?_) nofun nofun
      · rw [idle]; rfl
      · exact absurd a (inv.not_attached n inactive)
    exact moved.setReader n _ fun _ => congrArg Hose.state (s.setHose_same n _)

end

theorem FlowInv.padMeasurement {s t : State} (inv : FlowInv s) (n : HoseId) (count : BitVec 16)
    (h : execPadMeasurement n count s = .next t) : FlowInv t := by
  cases h
  split
  · exact inv
  · rename_i due _
    have reached : FlowInv (s.reach due) := inv.of_flow rfl
    dsimp only
    split
    · exact reached.passMeasured n due _
    · rename_i st
      exact reached.padMeasured n due _ st
    · exact reached
    · exact reached

/-! ## The close of a delivery (R52, R53) -/

theorem State.credit_flow (ring : BitVec 24) (net : Int) (s : State) : (s.credit ring net).flow = s.flow := by
  simp [State.flow]

theorem State.append_flow (r : Record) (holder : Option (Fin 5)) (s : State) :
    (s.append r holder).flow = s.flow := by
  simp [State.flow]

theorem hoseState_of_flow {s t : State} (h : t.flow = s.flow) (n : HoseId) : t.hoses[n].state = s.hoses[n].state :=
  congrArg (fun v => v.hose n) h

theorem readerState_of_flow {s t : State} (h : t.flow = s.flow) (n : HoseId) :
    t.readers[n].state = s.readers[n].state := congrArg (fun v => v.reader n) h

theorem attach_of_flow {s t : State} (h : t.flow = s.flow) (n : HoseId) :
    t.meters[meterOf n].attach = s.meters[meterOf n].attach := congrArg (fun v => v.attach n) h

theorem isSealed_of_flow {s t : State} (h : t.flow = s.flow) : t.isSealed = s.isSealed :=
  congrArg FlowView.isSealed h

/-- The part once the record of a closing delivery is appended, its volume credited and taken from the book. -/
def State.charged (n : HoseId) (s : State) : State :=
  let k := s.hoseComp n
  let r := s.deliveryRecord (s.hoses[n].delivery n k)
  ((s.append r (some (holderOf n))).credit s.hoses[n].identity.ring r.net).changeBook k (-r.net)

/-- The part of a closing delivery before its channel is detached: charged, and the journal erased. -/
def State.accounted (n : HoseId) (s : State) : State :=
  (s.charged n).setHose n { (s.charged n).hoses[n] with journal := none }

theorem State.closeDelivery_eq (n : HoseId) (s : State) :
    s.closeDelivery n =
      (((s.accounted n).detach (meterOf n)).post .deliveryClosed (.hose n) s.log.seq.toNat).toRest n := rfl

theorem State.accounted_flow (n : HoseId) (s : State) : (s.accounted n).flow = s.flow :=
  calc (s.accounted n).flow
    _ = (s.charged n).flow := (s.charged n).setHose_flow n _ rfl
    _ = s.flow := (State.changeBook_flow ..).trans ((State.credit_flow ..).trans (State.append_flow ..))

theorem FlowInv.closeDelivery {s : State} (inv : FlowInv s) (n : HoseId) (settling : s.hoses[n].state = .settling) :
    FlowInv (s.closeDelivery n) := by
  have on := inv.sealed n (by rw [settling]; nofun)
  have flow := s.accounted_flow n
  have accounted : FlowInv (s.accounted n) := inv.of_flow flow
  have still : (s.accounted n).readers[n].state ≠ .reading :=
    accounted.not_reading n (by rw [hoseState_of_flow flow, settling]; nofun)
  have apart : ((s.accounted n).detach (meterOf n)).meters[meterOf n].attach ≠ .delivery := by
    rw [show ((s.accounted n).detach (meterOf n)).meters[meterOf n] = _ from State.setMeter_same (meterOf n) _ _]
    nofun
  have posted := State.post_flow .deliveryClosed (.hose n) s.log.seq.toNat ((s.accounted n).detach (meterOf n))
  rw [State.closeDelivery_eq]
  refine ((accounted.detach (meterOf n)).of_flow posted).toRest n ((isSealed_of_flow posted).trans ?_) ?_ ?_ ?_
  · exact (isSealed_of_flow flow).trans on
  · rw [hoseState_of_flow posted]
    exact (congrArg HoseState.isActive ((hoseState_of_flow flow n).trans settling)).trans rfl
  · rw [readerState_of_flow posted]
    exact still
  · rw [attach_of_flow posted]
    exact apart

/-- The context after a settling window of a count (R52). -/
def Hose.quieted (c : Int) (h : Hose) : Hose :=
  { h with settleCount := h.settleCount + 1, quietRun := if c = 0 then h.quietRun + 1 else 0 }

/-- A settling window that counts ends the delivery where enough were quiet or enough have passed (R52). -/
theorem State.settleWindow_eq (n : HoseId) (c : Int) (s : State) :
    s.settleWindow n c =
      if s.hoses[n].settleFresh then s
      else if s.settleQuiet ≤ (s.hoses[n].quieted c).quietRun ∨ s.settleMax ≤ (s.hoses[n].quieted c).settleCount then
        (s.setHose n (s.hoses[n].quieted c)).closeDelivery n
      else s.setHose n (s.hoses[n].quieted c) := rfl

theorem FlowInv.settleWindow {s : State} (inv : FlowInv s) (n : HoseId) (c : Int)
    (settling : s.hoses[n].state = .settling) : FlowInv (s.settleWindow n c) := by
  have counted : FlowInv (s.setHose n (s.hoses[n].quieted c)) := inv.of_flow (s.setHose_flow n _ rfl)
  rw [State.settleWindow_eq]
  split_ifs
  · exact inv
  · exact counted.closeDelivery n ((congrArg Hose.state (s.setHose_same n _)).trans settling)
  · exact counted

/-! ## The window of a delivery (R46, R68) -/

theorem HoseState.isActive_of_delivering {st : HoseState} (h : st.delivering = true) (ne : st ≠ .settling) :
    st.isActive = true := by
  unfold HoseState.delivering at h
  simpa [ne] using h

section
variable {s : State} (inv : FlowInv s) (n : HoseId)
include inv

theorem FlowInv.evaluateHose (rate : Nat) (flowing : s.hoses[n].state = .flowing) :
    FlowInv (s.evaluateHose n rate) := by
  have applied : FlowInv (s.applyPending n) := inv.of_flow (s.applyPending_flow n)
  have active : (s.applyPending n).hoses[n].state.isActive = true := by
    rw [hoseState_of_flow (s.applyPending_flow n), flowing]
    rfl
  unfold State.evaluateHose State.stepTest
  dsimp only
  split
  · exact applied
  · split_ifs
    · exact applied.enterSettling n _ active
    · split
      · exact applied.enterSettling n _ active
      · exact applied.enterSettling n _ active
      · exact applied.of_flow (State.handOver_flow n _ _)

theorem FlowInv.waitingWork (active : s.hoses[n].state.isActive = true) : FlowInv (s.waitingWork n) := by
  have applied : FlowInv (s.applyPending n) := inv.of_flow (s.applyPending_flow n)
  unfold State.waitingWork
  dsimp only
  split_ifs
  · exact applied.enterSettling n _ (by rw [hoseState_of_flow (s.applyPending_flow n)]; exact active)
  · exact applied

theorem FlowInv.stateWork (w : Window) (st : HoseState) (h : s.hoses[n].state = st) :
    FlowInv (s.stateWork n w st) := by
  unfold State.stateWork
  split
  case h_1 => exact inv.evaluateHose n _ h
  case h_2 => exact inv.waitingWork n (by rw [h]; rfl)
  case h_3 => exact inv.waitingWork n (by rw [h]; rfl)
  case h_4 =>
    have applied : FlowInv (s.applyPending n) := inv.of_flow (s.applyPending_flow n)
    exact applied.settleWindow n _ ((hoseState_of_flow (s.applyPending_flow n) n).trans h)
  all_goals exact inv

theorem FlowInv.deliveryWindow (w : Window) (delivering : s.hoses[n].state.delivering = true) :
    FlowInv (s.deliveryWindow n w) := by
  have counted : FlowInv (s.setHose n (s.windowContext n w)) := inv.of_flow (s.setHose_flow n _ rfl)
  have same : (s.setHose n (s.windowContext n w)).hoses[n].state = s.hoses[n].state :=
    hoseState_of_flow (s.setHose_flow n (s.windowContext n w) rfl) n
  unfold State.deliveryWindow
  dsimp only
  refine FlowInv.of_flow ?_ (State.endWindow_flow n _)
  split
  · exact counted.stateWork n w _ same
  · rename_i unsettled
    refine counted.enterSettling n _ ?_
    rw [same]
    exact HoseState.isActive_of_delivering delivering unsettled
  · exact counted.stateWork n w _ same

end

theorem hoseOfMeter_eq_some {m : MeterId} {n : HoseId} (h : hoseOfMeter m = some n) : m = meterOf n := by
  revert m n; decide

theorem FlowInv.account {s : State} (inv : FlowInv s) (m : MeterId) (w : Window) : FlowInv (s.account m w) := by
  unfold State.account
  split
  · exact inv.of_flow (s.accountStray_flow m w)
  · rename_i n attached hose
    rw [hoseOfMeter_eq_some hose] at attached
    exact inv.deliveryWindow n w (inv.hoses.attached n attached)
  · exact inv
  · exact inv.of_flow (s.receiptWindow_flow w)

theorem FlowInv.windowExpiry {s t : State} (inv : FlowInv s) (m : MeterId)
    (h : execWindowExpiry m s = .next t) : FlowInv t := by
  cases h
  split
  · exact inv
  · rename_i due _
    have armed : FlowInv ((s.reach due).applyArmed m) := inv.of_flow (State.applyArmed_flow m (s.reach due))
    have noted := armed.of_flow (State.noteRate_flow m (((s.reach due).applyArmed m).windowOf m).rate _)
    exact (noted.account m _).of_flow (State.nextWindow_flow ..)

/-! ## The seat line, STOP and AUTHORISE (R37, R40, R41, R50) -/

theorem FlowInv.unseat {s : State} (inv : FlowInv s) (n : HoseId) : FlowInv (s.unseat n) := by
  have stopped := inv.abandonRead n
  unfold State.unseat
  cases st : s.hoses[n].state
  case offline | idle | settling => exact inv
  case identified => exact inv.cancel n (Or.inl st)
  case unidentified => exact inv.cancel n (Or.inr (Or.inl st))
  case armed => exact inv.cancel n (Or.inr (Or.inr st))
  case priming | flowing | paused => exact inv.enterSettling n _ (by rw [st]; rfl)
  case reading =>
    exact stopped.toRest n (inv.sealed n (by rw [st]; nofun)) ((congrArg HoseState.isActive st).trans rfl)
      (s.abandonRead_still n) (inv.not_attached n (by rw [st]; rfl))
  case finished =>
    exact inv.toRest n (inv.sealed n (by rw [st]; nofun)) (by rw [st]; rfl) (inv.not_reading n (by rw [st]; nofun))
      (inv.not_attached n (by rw [st]; rfl))

theorem FlowInv.stopHose {s : State} (inv : FlowInv s) (n : HoseId) : FlowInv (s.stopHose n) := by
  unfold State.stopHose
  cases st : s.hoses[n].state
  case offline | idle | settling | finished => exact inv
  case identified => exact inv.cancel n (Or.inl st)
  case unidentified => exact inv.cancel n (Or.inr (Or.inl st))
  case armed => exact inv.cancel n (Or.inr (Or.inr st))
  case priming | flowing | paused => exact inv.enterSettling n _ (by rw [st]; rfl)
  case reading =>
    exact inv.endRead n _ _ (inv.sealed n (by rw [st]; nofun)) (by nofun) rfl (by nofun) (by rw [st]; rfl)

theorem FlowInv.stopBody {s : State} (inv : FlowInv s) (hose : Byte) : FlowInv (stopBody hose s).1 := by
  unfold Machine.stopBody Machine.afterSeal
  split_ifs
  · split
    · exact inv
    · exact inv.stopHose _
  · exact inv

/-- Past its checks, AUTHORISE finds a hose IDENTIFIED or UNIDENTIFIED and both latches clear. -/
theorem authoriseRefusal_passed {s : State} {n : HoseId} {number : BitVec 16}
    (h : s.authoriseRefusal n number = none) :
    (s.hoses[n].state = .identified ∨ s.hoses[n].state = .unidentified) ∧ s.estopLatch = false ∧
      s.metroFault = false := by
  unfold State.authoriseRefusal at h
  dsimp only at h
  split_ifs at h with keyed wrong metro latch fault
  refine ⟨?_, by simpa using latch, by simpa using metro⟩
  by_cases st : s.hoses[n].state = .identified
  · exact Or.inl st
  · exact Or.inr (by_contra fun e => wrong ⟨st, fun u => e u.1⟩)

theorem FlowInv.arm {s : State} (inv : FlowInv s) (n : HoseId) (i : Ident) (granted : Nat)
    (st : s.hoses[n].state = .identified ∨ s.hoses[n].state = .unidentified)
    (latch : s.estopLatch = false) (metro : s.metroFault = false) : FlowInv (s.arm n i granted) := by
  have reserved : FlowInv (s.setReserved (holderOf n) true) := inv.of_flow rfl
  have on := inv.sealed n (by rcases st with e | e <;> rw [e] <;> nofun)
  refine FlowInv.of_flow ?_ (State.ask_flow _ _)
  refine reserved.setHose n _ on ?_ (fun r => ?_) (fun a => ?_) nofun (fun _ => ⟨latch, metro⟩)
  · show false = s.hoses[n].state.isActive
    rcases st with e | e <;> rw [e] <;> rfl
  · exact absurd r (inv.not_reading n (by rcases st with e | e <;> rw [e] <;> nofun))
  · exact absurd a (inv.not_attached n (by rcases st with e | e <;> rw [e] <;> rfl))

/-- Past the checks of AUTHORISE the lookups refuse, or the hose is armed (R27, R30). -/
theorem FlowInv.authoriseLookups {s : State} (inv : FlowInv s) (n : HoseId) (requested : Nat) (number : BitVec 16)
    (st : s.hoses[n].state = .identified ∨ s.hoses[n].state = .unidentified)
    (latch : s.estopLatch = false) (metro : s.metroFault = false) :
    FlowInv (authoriseIdentified n requested s).1 ∧ FlowInv (authoriseKeyed n requested number s).1 := by
  have arms (i : Ident) (granted : Nat) := inv.arm n i granted st latch metro
  constructor
  · unfold authoriseIdentified
    dsimp only
    split
    · exact inv
    · split
      · exact inv
      · exact arms _ _
  · unfold authoriseKeyed
    split_ifs
    · exact inv
    · split
      · exact inv
      · split
        · exact inv
        · exact arms _ _

theorem FlowInv.authoriseBody {s : State} (inv : FlowInv s) (hose : Byte) (preset : BitVec 32)
    (number : BitVec 16) : FlowInv (authoriseBody hose preset number s).1 := by
  unfold Machine.authoriseBody Machine.afterSeal
  split_ifs
  · split
    · exact inv
    · rename_i n _
      dsimp only
      split
      · exact inv
      · rename_i passed
        obtain ⟨st, latch, metro⟩ := authoriseRefusal_passed passed
        obtain ⟨identified, keyed⟩ := inv.authoriseLookups n preset.toNat number st latch metro
        split_ifs
        · exact identified
        · exact keyed
  · exact inv

theorem FlowInv.estopClearBody {s : State} (inv : FlowInv s) : FlowInv (estopClearBody s).1 := by
  obtain ⟨hoses, stopped, claimed, own, flowing, waiting, spinning, runningOn, latched⟩ := id inv
  unfold Machine.estopClearBody Machine.afterSeal
  dsimp only
  split_ifs
  · exact inv
  · exact inv
  · exact ⟨⟨hoses.offline, hoses.reading, hoses.attached⟩, stopped, claimed, own, flowing, waiting, spinning,
      runningOn, fun l => latched (l.imp_left nofun)⟩
  · exact inv

end Sys2Proof.Machine
end

section
/-! Every step keeps FlowInv: the seal, the restarts and the events (03, R54, R55, R57, R60; 05, R75, R77 to R81; 11,
R162, R164, R167, R168). -/

namespace Sys2Proof.Machine

/-! ## Before the seal (R162, R164) -/

/-- Before the seal no pump is claimed. -/
theorem FlowInv.unclaimed_unsealed {s : State} (inv : FlowInv s) (off : s.isSealed = false) (k : CompId)
    (n : HoseId) : s.pumps[k].claims[n] = false := by
  obtain ⟨state, -, -⟩ := inv.stopped off k
  exact inv.unclaimed k (by rw [state]; nofun) (by rw [state]; nofun) n

/-- Before the seal the configuration is free: no hose is in a state that asks for a pump. -/
theorem FlowInv.withConfig {s : State} (inv : FlowInv s) (off : s.isSealed = false) (config : ConfigBlock) :
    FlowInv { s with config } := by
  have offline := inv.hoses.offline off
  have claims := inv.unclaimed_unsealed off
  refine ⟨⟨inv.hoses.offline, inv.hoses.reading, inv.hoses.attached⟩, inv.stopped, fun n => ?_, fun k n c => ?_,
    fun n f => ?_, fun n a => ?_, inv.spinning, inv.runningOn, inv.latched⟩
  · refine (claims _ n).trans ?_
    show false = s.hoses[n].state.isActive
    rw [offline n]
    rfl
  · exact absurd c (ne_true_of_eq_false (claims k n))
  · cases (offline n).symm.trans f
  · have a : s.hoses[n].state.isActive = true := a
    rw [offline n] at a
    cases a

theorem FlowInv.setConfigBody {s : State} (inv : FlowInv s) (item element : Byte) (value : BitVec 32) :
    FlowInv (setConfigBody item element value s).1 := by
  unfold Machine.setConfigBody
  cases on : s.isSealed
  case true =>
    rw [beforeSeal_sealed _ s on]
    exact inv
  case false =>
    have config := inv.withConfig on
    rw [beforeSeal_unsealed _ s on]
    dsimp only
    split_ifs
    · exact inv
    · exact inv
    · exact config _
    · exact inv
    · exact config _
    · exact config _

theorem FlowInv.restart (cause : Byte) (s : State) : FlowInv (s.restart cause) := by
  have offline (n : HoseId) : (s.restart cause).hoses[n].state = .offline := by
    simp [State.restart, Hose.bare]
  have pump (k : CompId) : (s.restart cause).pumps[k] = Pump.restarted := by simp [State.restart]
  have claims (k : CompId) (n : HoseId) : (s.restart cause).pumps[k].claims[n] = false := by
    rw [pump]
    simp [Pump.restarted]
  constructor
  case hoses =>
    refine ⟨fun _ => offline, fun n r => ?_, fun n a => ?_⟩
    · rw [show (s.restart cause).readers[n] = Reader.restarted by simp [State.restart]] at r
      cases r
    · rw [show (s.restart cause).meters[meterOf n] = Meter.restarted by simp [State.restart]] at a
      cases a
  case stopped =>
    intro _ k
    rw [pump]
    exact ⟨rfl, rfl, rfl⟩
  case claimed =>
    intro n
    rw [offline]
    exact claims _ n
  case own => exact fun k n c => absurd c (ne_true_of_eq_false (claims k n))
  case flowing => exact fun n f => by cases (offline n).symm.trans f
  case waiting => exact fun n a => by rw [offline] at a; cases a
  case spinning => exact fun k x => by rw [pump] at x; cases x
  case runningOn => exact fun k x => by rw [pump] at x; cases x
  case latched =>
    intro _ n
    rw [offline]
    exact ⟨rfl, nofun⟩

/-! ## The seal (R60, R87, R167) -/

theorem State.eraseJournal_flow (n : HoseId) (s : State) :
    (s.setHose n { s.hoses[n] with journal := none }).flow = s.flow := s.setHose_flow n _ rfl

theorem State.closeJournal_flow (n : HoseId) (s : State) : (s.closeJournal n).flow = s.flow := by
  unfold State.closeJournal
  split
  · rfl
  · refine (State.post_flow ..).trans ((State.eraseJournal_flow n _).trans ?_)
    simp [State.flow]

theorem State.closeReceiptJournal_flow (s : State) : s.closeReceiptJournal.flow = s.flow := by
  unfold State.closeReceiptJournal
  split
  · rfl
  · refine (State.post_flow ..).trans ?_
    simp [State.flow]

theorem State.startRestock_flow (s : State) : s.startRestock.flow = s.flow := by
  have asked : (State.ask .stock { s with stock := { s.stock with
      restock := s.wantOrNormal, goHold := none, yieldUntil := none } }).flow = s.flow := State.ask_flow ..
  unfold State.startRestock
  dsimp only
  split_ifs
  · exact (State.post_flow ..).trans asked
  · exact asked

theorem State.postLosses_flow (s : State) : s.postLosses.flow = s.flow :=
  (State.forEach_keep State.flow State.postLoss (fun _ u => u.post_flow _ _ _) s.losses _).trans rfl

/-- A sealed part with every hose at rest or still OFFLINE, as the completion of the seal finds it. -/
structure Resting (s : State) : Prop where
  flow : FlowInv s
  on : s.isSealed = true
  rests : ∀ n : HoseId, s.hoses[n].state = .offline ∨ s.hoses[n].state = .idle ∨ s.hoses[n].state = .finished

theorem Resting.toRest {s : State} (r : Resting s) (n : HoseId) : Resting (s.toRest n) := by
  refine ⟨r.flow.toRest n r.on ?_ (r.flow.not_reading n ?_) (r.flow.not_attached n ?_), r.on, fun m => ?_⟩
  · rcases r.rests n with e | e | e <;> rw [e] <;> rfl
  · rcases r.rests n with e | e | e <;> rw [e] <;> nofun
  · rcases r.rests n with e | e | e <;> rw [e] <;> rfl
  · rw [show (s.toRest n).hoses[m] = _ from s.setHose_get n m _]
    split_ifs
    · exact Or.inr (s.restState_cases n)
    · exact r.rests m

theorem FlowInv.begins {s : State} (inv : FlowInv s) (off : s.isSealed = false) :
    Resting { s with isSealed := true, now := 0 } := by
  obtain ⟨hoses, stopped, claimed, own, flowing, waiting, spinning, runningOn, latched⟩ := inv
  exact ⟨⟨⟨nofun, hoses.reading, hoses.attached⟩, nofun, claimed, own, flowing, waiting, spinning, runningOn,
    latched⟩, rfl, fun n => Or.inl (hoses.offline off n)⟩

theorem FlowInv.startReader {s : State} (inv : FlowInv s) (n : HoseId) : FlowInv (s.startReader n) :=
  (inv.setReader n { s.readers[n] with state := .waiting } nofun).readerPeriodAt n 0

/-- FlowInv of a sealed part. -/
structure SealedFlow (s : State) : Prop where
  flow : FlowInv s
  on : s.isSealed = true

theorem SealedFlow.startPump {s : State} (inv : SealedFlow s) (k : CompId) : SealedFlow (s.startPump k) := by
  have started : FlowInv (s.setPump k { s.pumps[k] with pwmStart := 0, pwmDue := some s.pwmPeriod }) :=
    inv.flow.of_flow (s.setPump_flow k _ rfl rfl rfl rfl)
  unfold State.startPump
  dsimp only
  split_ifs
  · exact ⟨started.pumpFault k inv.on, by rw [(State.pumpFault_faults k _).frame]; exact inv.on⟩
  · exact ⟨started, inv.on⟩

/-- Every channel starts its windows attached to no delivery. -/
theorem FlowInv.startMeters {s : State} (inv : FlowInv s) : FlowInv s.startMeters := by
  obtain ⟨hoses, stopped, claimed, own, flowing, waiting, spinning, runningOn, latched⟩ := inv
  have stray (n : HoseId) : s.startMeters.meters[meterOf n].attach = .stray := by simp [State.startMeters]
  exact ⟨⟨hoses.offline, hoses.reading, fun n a => by rw [stray n] at a; cases a⟩, stopped, claimed, own, flowing,
    waiting, spinning, runningOn, latched⟩

theorem FlowInv.complete {s : State} (inv : FlowInv s) (off : s.isSealed = false) : FlowInv s.complete := by
  unfold State.complete
  extract_lets closed sealed resting reading pumping stopped metered sampler sampling linked log due
  have close : closed.flow = s.flow := (State.closeReceiptJournal_flow _).trans
    (State.forEach_keep State.flow State.closeJournal State.closeJournal_flow allHoses s)
  have began : Resting sealed := (inv.of_flow close).begins ((isSealed_of_flow close).trans off)
  clear_value closed sealed
  have rest : Resting resting := State.forEach_keeps Resting allHoses _ sealed (fun n _ u r => r.toRest n) began
  clear_value resting
  have read : SealedFlow reading := State.forEach_keeps SealedFlow allHoses _ resting
    (fun n _ u r => ⟨r.flow.startReader n, r.on⟩) ⟨rest.flow, rest.on⟩
  clear_value reading
  have pump : SealedFlow pumping := State.forEach_keeps SealedFlow allComps _ reading
    (fun k _ u r => r.startPump k) read
  clear_value pumping
  have stop : FlowInv stopped := by
    unfold stopped
    split_ifs
    · exact FlowInv.emergencyStop pump.flow.hoses pump.on
    · exact pump.flow
  clear_value stopped
  have meter : FlowInv sampling := stop.startMeters.of_flow rfl
  clear_value sampling
  have link : FlowInv linked := meter.of_flow sampling.startRestock_flow
  clear_value linked
  have timed : FlowInv due := link.of_flow rfl
  exact timed.of_flow due.postLosses_flow

theorem FlowInv.sealBody {s : State} (inv : FlowInv s) : FlowInv (sealBody s).1 := by
  cases on : s.isSealed
  case true =>
    rw [Machine.sealBody, beforeSeal_sealed _ s on]
    exact inv
  case false =>
    rcases sealBody_state s with e | e <;> rw [e]
    · exact inv
    · exact inv.complete on

/-! ## The lines and the expiries (R38, R43, R48, R55, R57, R77, R79, R80) -/

section
variable {s t : State} (inv : FlowInv s) (n : HoseId) (k : CompId)
include inv

theorem FlowInv.setSeat (b : Bool) : FlowInv (s.setSeat n b) := inv.of_flow rfl

theorem FlowInv.seatEvent (h : exec (.seatEvent n) s = .next t) : FlowInv t := by
  by_cases idle : s.hoses[n].state = .idle
  · cases (exec_seatEvent_idle n s idle).symm.trans h
    exact (inv.setSeat n true).startRead n idle
  · cases (exec_seatEvent_other n s idle).symm.trans h
    exact inv.setSeat n true

theorem FlowInv.deadmanHeld (h : exec (.deadmanHeld n) s = .next t) : FlowInv t := by
  have moved : FlowInv (s.setDeadman n true) := inv.of_flow rfl
  by_cases armed : s.hoses[n].state = .armed
  · by_cases fault : (s.pumpOf n).state = .fault
    · cases (exec_deadmanHeld_faulted n s armed fault).symm.trans h
      exact moved
    · cases (exec_deadmanHeld_starts n s armed fault).symm.trans h
      exact moved.startDelivery n armed fault
  · by_cases paused : s.hoses[n].state = .paused
    · cases (exec_deadmanHeld_resumes n s paused).symm.trans h
      exact moved.resume n paused
    · cases (exec_deadmanHeld_stays n s armed paused).symm.trans h
      exact moved

theorem FlowInv.deadmanRelease (h : exec (.deadmanRelease n) s = .next t) : FlowInv t := by
  have moved : FlowInv (s.setDeadman n false) := inv.of_flow rfl
  by_cases st : s.hoses[n].state = .priming ∨ s.hoses[n].state = .flowing
  · cases (exec_deadmanRelease_pauses n s st).symm.trans h
    refine moved.pause n ?_
    show s.hoses[n].state.isActive = true
    rcases st with e | e <;> rw [e] <;> rfl
  · rw [not_or] at st
    cases (exec_deadmanRelease_stays n s st.1 st.2).symm.trans h
    exact moved

theorem FlowInv.armExpiry (h : exec (.armExpiry n) s = .next t) : FlowInv t := by
  have h : execArmExpiry n s = .next t := h
  unfold execArmExpiry at h
  cases h
  split
  · exact inv
  · rename_i due _
    have reached : FlowInv (s.reachSec due) := inv.of_flow rfl
    dsimp only
    split_ifs with st
    · refine (reached.cancel n ?_).of_flow (State.post_flow ..)
      exact st.imp_right Or.inr
    · exact inv

theorem FlowInv.pauseExpiry (h : exec (.pauseExpiry n) s = .next t) : FlowInv t := by
  have h : execPauseExpiry n s = .next t := h
  unfold execPauseExpiry at h
  cases h
  split
  · exact inv
  · rename_i due _
    have reached : FlowInv (s.reachSec due) := inv.of_flow rfl
    split_ifs with st
    · exact reached.enterSettling n _ (by rw [show (s.reachSec due).hoses[n].state = _ from st]; rfl)
    · exact inv

theorem FlowInv.estopAssertion (h : exec .estopAssertion s = .next t) : FlowInv t := by
  cases on : s.isSealed
  case false =>
    cases (exec_estopAssertion_unsealed s on).symm.trans h
    exact inv.of_flow rfl
  case true =>
    cases (exec_estopAssertion_sealed s on).symm.trans h
    exact FlowInv.emergencyStop ⟨inv.hoses.offline, inv.hoses.reading, inv.hoses.attached⟩ on

/-- A pump with an expiry or a fault belongs to a sealed part. -/
theorem FlowInv.sealed_of_pump (h : s.pumps[k].state ≠ .off) : s.isSealed = true := by
  by_contra off
  exact h (inv.stopped (by simpa using off) k).1

theorem FlowInv.pfltAssertion (h : exec (.pfltAssertion k) s = .next t) : FlowInv t := by
  have moved : FlowInv { s with pins := { s.pins with pflt := s.pins.pflt.set k true } } := inv.of_flow rfl
  have h : execPfltAssertion k s = .next t := h
  unfold execPfltAssertion at h
  cases h
  dsimp only
  split_ifs with on
  · exact moved.pumpFault k on
  · exact moved

theorem FlowInv.pfltRelease (h : exec (.pfltRelease k) s = .next t) : FlowInv t := by
  have moved : FlowInv { s with pins := { s.pins with pflt := s.pins.pflt.set k false } } := inv.of_flow rfl
  have h : execPfltRelease k s = .next t := h
  unfold execPfltRelease at h
  cases h
  dsimp only
  split_ifs with fault
  · obtain ⟨on, fault⟩ := fault
    exact moved.haltPump k on (by rw [fault]; nofun) (by rw [fault]; nofun)
  · exact moved

theorem FlowInv.spinUpExpiry (h : exec (.spinUpExpiry k) s = .next t) : FlowInv t := by
  have h : execSpinUpExpiry k s = .next t := h
  unfold execSpinUpExpiry at h
  cases h
  split
  · exact inv
  · rename_i due spinUp
    have starting := inv.spinning k (by rw [spinUp]; rfl)
    have on := inv.sealed_of_pump k (by rw [starting]; nofun)
    have reached : FlowInv (s.reachMs due) := inv.of_flow rfl
    exact (reached.spunUp k on starting).of_flow (State.reselect_flow ..)

theorem FlowInv.runOnExpiry (h : exec (.runOnExpiry k) s = .next t) : FlowInv t := by
  have h : execRunOnExpiry k s = .next t := h
  unfold execRunOnExpiry at h
  cases h
  split
  · exact inv
  · rename_i due runOn
    have state := inv.runningOn k (by rw [runOn]; rfl)
    have on := inv.sealed_of_pump k (by rw [state]; nofun)
    have reached : FlowInv (s.reachSec due) := inv.of_flow rfl
    exact reached.haltPump k on (by rw [show (s.reachSec due).pumps[k].state = _ from state]; nofun)
      (by rw [show (s.reachSec due).pumps[k].state = _ from state]; nofun)

theorem FlowInv.scanExpiry (h : exec .scanExpiry s = .next t) : FlowInv t := by
  have h : execScanExpiry s = .next t := h
  unfold execScanExpiry at h
  cases h
  split
  · exact inv
  · rename_i due _
    have reached : FlowInv (s.reach due) := inv.of_flow rfl
    dsimp only
    split_ifs
    · exact reached.of_flow rfl
    · exact reached.metrologyFault

theorem FlowInv.periodExpiry (h : exec (.periodExpiry n) s = .next t) : FlowInv t := by
  have h : execPeriodExpiry n s = .next t := h
  unfold execPeriodExpiry at h
  cases h
  split
  · exact inv
  · rename_i due _
    have reached : FlowInv (s.reach due) := inv.of_flow rfl
    exact reached.readerPeriodAt n due

end

/-! ## Every step -/

/-- A command keeps FlowInv if its body does. -/
theorem FlowInv.command {s t : State} (inv : FlowInv s) {code tag : Byte} {body : Body}
    (keeps : ∀ u : State, FlowInv u → FlowInv (body u).1) (h : s.command code tag body = .next t) :
    FlowInv t := by
  cases h
  exact (keeps s.beginExchange (inv.of_flow rfl)).of_flow rfl

theorem FlowInv.exec {i : Instr} {s t : State} (inv : FlowInv s) (h : exec i s = .next t) : FlowInv t := by
  cases moves : movesFlow i with
  | false =>
    obtain ⟨u, step, flow⟩ := exec_flow i s moves
    cases step.symm.trans h
    exact inv.of_flow flow
  | true =>
    cases i
    case setConfig => exact inv.command (fun _ inv => inv.setConfigBody _ _ _) h
    case sealPart => exact inv.command (fun _ inv => inv.sealBody) h
    case authorise => exact inv.command (fun _ inv => inv.authoriseBody _ _ _) h
    case stop => exact inv.command (fun _ inv => inv.stopBody _) h
    case estopClear => exact inv.command (fun _ inv => inv.estopClearBody) h
    case restart => cases h; exact FlowInv.restart 2 _
    case powerUp => cases h; exact FlowInv.restart 0 _
    case resetnAssertion => cases h; exact FlowInv.restart 1 _
    case seatEvent n => exact inv.seatEvent n h
    case unseatEvent n => cases h; exact (inv.setSeat n false).unseat n
    case deadmanHeld n => exact inv.deadmanHeld n h
    case deadmanRelease n => exact inv.deadmanRelease n h
    case estopAssertion => exact inv.estopAssertion h
    case pfltAssertion k => exact inv.pfltAssertion k h
    case pfltRelease k => exact inv.pfltRelease k h
    case periodExpiry n => exact inv.periodExpiry n h
    case padMeasurement n count => exact inv.padMeasurement n count h
    case armExpiry n => exact inv.armExpiry n h
    case pauseExpiry n => exact inv.pauseExpiry n h
    case windowExpiry m => exact inv.windowExpiry m h
    case spinUpExpiry k => exact inv.spinUpExpiry k h
    case runOnExpiry k => exact inv.runOnExpiry k h
    case scanExpiry => exact inv.scanExpiry h
    all_goals cases moves

/-- Settles O6: a step is idle or executes the front of the queue, which keeps FlowInv. -/
theorem flowInvKept : Obligations.FlowInvKept := by
  unfold Obligations.FlowInvKept
  intro s t inv h
  unfold step at h
  split at h
  · cases h
    exact inv.of_flow (by unfold State.idle; split_ifs <;> rfl)
  · rename_i c rest _
    exact FlowInv.exec (s := { s with pending := rest }) (inv.of_flow rfl) h

end Sys2Proof.Machine
end

section
/-! The window of a delivery before SETTLING (03, R46, R49, R51; 04, R68; 07, R104, R106, R107, R109). -/

namespace Sys2Proof.Machine

/-! ## The accumulators (R107, R109) -/

/-- What an addition to an accumulator of a bound gives: the marked one stays, one past its bound holds it. -/
theorem Bounded.add_holds (bound old d : Int) (was : Bool) :
    (was = true → (Bounded.add bound ⟨old, was⟩ d).value = old ∧ (Bounded.add bound ⟨old, was⟩ d).sat = true) ∧
    (was = false → bound < old + d →
      (Bounded.add bound ⟨old, was⟩ d).value = bound ∧ (Bounded.add bound ⟨old, was⟩ d).sat = true) ∧
    (was = false → old + d < -bound → 0 ≤ bound →
      (Bounded.add bound ⟨old, was⟩ d).value = -bound ∧ (Bounded.add bound ⟨old, was⟩ d).sat = true) ∧
    (was = false → -bound ≤ old + d → old + d ≤ bound →
      (Bounded.add bound ⟨old, was⟩ d).value = old + d ∧ (Bounded.add bound ⟨old, was⟩ d).sat = false) := by
  unfold Bounded.add
  refine ⟨?_, ?_, ?_, ?_⟩
  · rintro rfl
    exact ⟨rfl, rfl⟩
  · rintro rfl passed
    simp [passed]
  · rintro rfl under bound0
    have below : ¬ bound < old + d := by omega
    simp [below, under]
  · rintro rfl low high
    have passed : ¬ bound < old + d := by omega
    have under : ¬ old + d < -bound := by omega
    simp [passed, under]

theorem Accum.newlySaturated_iff (a b : Accum) :
    a.newlySaturated b = true ↔
      a.satGross = false ∧ b.satGross = true ∨ a.satNet = false ∧ b.satNet = true ∨
      a.satGT = false ∧ b.satGT = true ∨ a.satG = false ∧ b.satG = true := by
  simp [Accum.newlySaturated, or_assoc, and_comm]

/-! ## The context after a window's arithmetic (R46, R95, R104, R106) -/

/-- The flags after a window (R89, R104, R107). -/
theorem DFlags.mark_eq (f : DFlags) (sat full : Bool) (dg : Int) (t : Temperature) :
    ((f.markOverspeed sat).markOverflow full).markTemperature dg t =
      { overspeed := f.overspeed || sat
        overflow := f.overflow || full
        tempHeld := f.tempHeld || (decide (dg ≠ 0) && t.statusCode == 2)
        uncompensated := f.uncompensated || (decide (dg ≠ 0) && t.statusCode == 0) } := by
  unfold DFlags.markTemperature
  by_cases still : dg = 0
  · simp [still, DFlags.markOverspeed, DFlags.markOverflow]
  · cases t <;> simp [still, DFlags.markOverspeed, DFlags.markOverflow, Temperature.statusCode]

theorem hold_eq (top x : Nat) : hold top x = min top x := by
  unfold hold
  split_ifs <;> omega

/-- The context a window of the channel in flight leaves. -/
theorem State.windowContext_eq (n : HoseId) (s : State) :
    let c := s.meters[meterOf n]
    let k := s.hoseComp n
    let a := s.hoses[n].acc.getD Accum.zero
    let rate := rateOf c.count s.metro.meters[meterOf n].nf
    let gross := grossStep c.count (curveAt s.metro.meters[meterOf n].curve rate) a.gRem
    let net := netStep gross.whole (vcfOf (s.alphaOf k) (s.compTemp k)) a.nRem
    let b := a.window gross net (s.compTemp k).used
    s.windowContext n (s.windowOf (meterOf n)) = { s.hoses[n] with
      acc := some b
      phaseErrors := min 65535 (s.hoses[n].phaseErrors + c.phaseErr)
      flags :=
        { overspeed := s.hoses[n].flags.overspeed || c.sat
          overflow := s.hoses[n].flags.overflow || a.newlySaturated b
          tempHeld := s.hoses[n].flags.tempHeld ||
            (decide (gross.whole ≠ 0) && (s.compTemp k).statusCode == 2)
          uncompensated := s.hoses[n].flags.uncompensated ||
            (decide (gross.whole ≠ 0) && (s.compTemp k).statusCode == 0) } } := by
  intro c k a rate gross net b
  unfold State.windowContext
  simp only [DFlags.mark_eq, hold_eq]
  rfl

/-- Whether a context has volume left. -/
theorem Hose.remaining_le_iff (h : Hose) (a : Accum) (acc : h.acc = some a) :
    h.remaining ≤ 0 ↔ (h.preset.getD 0 : Nat) ≤ truncDiv a.net 1000 := by
  have accum : h.accum = a := by rw [Hose.accum, acc]; rfl
  unfold Hose.remaining
  rw [accum]
  exact sub_nonpos

/-! ## The expiry of a delivery's window (R90) -/

/-- The part at the end of a window of hose `n`'s channel, its rate noted (R90). -/
def State.noted (s : State) (n : HoseId) (due : Nat) : State :=
  { s with
    now := max s.now due
    meters := s.meters.set (meterOf n) { s.meters[meterOf n] with lastRate := (s.windowOf (meterOf n)).rate } }

/-- The expiry of a window attached to a delivery goes to the delivery, and the next window starts. -/
theorem exec_windowExpiry_delivery (n : HoseId) (due : Nat) (s : State) (timer : s.meters[meterOf n].due = some due)
    (attached : s.meters[meterOf n].attach = .delivery) (unarmed : s.hoses[n].state ≠ .armed) :
    exec (.windowExpiry (meterOf n)) s = .next
      (((s.noted n due).deliveryWindow n (s.windowOf (meterOf n))).nextWindow (meterOf n) (due + 250000)) := by
  have still : (s.reach due).applyArmed (meterOf n) = s.reach due := by
    unfold State.applyArmed
    rw [hoseOfMeter_meterOf]
    exact if_neg unarmed
  have owner : (s.noted n due).account (meterOf n) (s.windowOf (meterOf n)) =
      (s.noted n due).deliveryWindow n (s.windowOf (meterOf n)) := by
    have own : (s.noted n due).meters[meterOf n].attach = .delivery :=
      (congrArg Meter.attach (Vector.getElem_set_self _)).trans attached
    unfold State.account
    rw [own, hoseOfMeter_meterOf]
  show execWindowExpiry (meterOf n) s = _
  unfold execWindowExpiry
  rw [timer]
  dsimp only
  rw [still]
  exact congrArg (fun u : State => Host.Outcome.next (u.nextWindow (meterOf n) (due + 250000))) owner

/-! ## What the work of a window leaves (R46 steps 2 and 3) -/

/-- From `v` to `u` only the course of hose `n`'s delivery has moved, with its pump: not what is accounted. -/
structure Works (n : HoseId) (v u : State) : Prop where
  acc : u.hoses[n].acc = v.hoses[n].acc
  phaseErrors : u.hoses[n].phaseErrors = v.hoses[n].phaseErrors
  flags : u.hoses[n].flags = v.hoses[n].flags
  preset : u.hoses[n].preset = v.hoses[n].preset
  pending : u.hoses[n].pendingPreset = v.hoses[n].pendingPreset
  delivering : u.hoses[n].state.delivering = true
  others : ∀ m : HoseId, m ≠ n → u.hoses[m] = v.hoses[m]
  pump : ∀ k : CompId, k ≠ v.hoseComp n → u.pumps[k] = v.pumps[k]
  frame : u = { v with hoses := u.hoses, pumps := u.pumps }

theorem Works.refl (n : HoseId) (v : State) (h : v.hoses[n].state.delivering = true) : Works n v v :=
  ⟨rfl, rfl, rfl, rfl, rfl, h, fun _ _ => rfl, fun _ _ => rfl, rfl⟩

theorem State.enterSettling_works (n : HoseId) (cause : EndCause) (v : State) :
    Works n v (v.enterSettling n cause) := by
  obtain ⟨context, others⟩ := v.enterSettling_hose n cause
  have elsewhere (k : CompId) (ne : k ≠ v.hoseComp n) := v.enterSettling_pump_other n cause k ne
  exact ⟨by rw [context]; rfl, by rw [context]; rfl, by rw [context]; rfl, by rw [context]; rfl,
    by rw [context]; rfl, by rw [context]; rfl, others, elsewhere, rfl⟩

theorem State.handOver_works (n : HoseId) (st : StepState) (v : State)
    (h : v.hoses[n].state.delivering = true) : Works n v (v.handOver n st) := by
  have shape : ∃ pumps : Vector Pump 2, (∀ k : CompId, k ≠ v.hoseComp n → pumps[k] = v.pumps[k]) ∧
      v.handOver n st = { v with
        hoses := v.hoses.set n { v.hoses[n] with step := some { st with handed := st.stage } }, pumps } := by
    refine ⟨(v.handOver n st).pumps, fun k ne => ?_, ?_⟩
    · unfold State.handOver
      dsimp only
      split_ifs
      · exact (State.reselect_pump _ k _).trans ((if_neg ne).trans (State.setPump_other _ k _ _ ne))
      · exact (State.reselect_pump _ k _).trans ((if_neg ne).trans (State.setPump_other _ k _ _ ne))
      · exact (State.reselect_pump _ k _).trans (if_neg ne)
    · unfold State.handOver
      dsimp only
      split_ifs <;> rfl
  obtain ⟨pumps, elsewhere, e⟩ := shape
  rw [e]
  have own : (v.hoses.set n { v.hoses[n] with step := some { st with handed := st.stage } })[n] =
      { v.hoses[n] with step := some { st with handed := st.stage } } := Vector.getElem_set_self _
  refine ⟨by rw [own], by rw [own], by rw [own], by rw [own], by rw [own], by rw [own]; exact h, fun m ne => ?_,
    elsewhere, rfl⟩
  rw [getElem_set_fin, if_neg ne]

/-- A context as the state work of a window finds it: the pending preset applied. -/
theorem State.applyPending_eq (n : HoseId) (v : State) :
    v.applyPending n = { v with hoses := v.hoses.set n v.hoses[n].applyPending } := rfl

theorem State.evaluateHose_works (n : HoseId) (rate : Nat) (v : State)
    (h : (v.applyPending n).hoses[n].state.delivering = true) :
    Works n (v.applyPending n) (v.evaluateHose n rate) := by
  unfold State.evaluateHose State.stepTest
  dsimp only
  split
  · exact .refl n _ h
  · split_ifs
    · exact State.enterSettling_works n _ _
    · split
      · exact State.enterSettling_works n _ _
      · exact State.enterSettling_works n _ _
      · exact State.handOver_works n _ _ h

theorem State.evaluateHose_ends (n : HoseId) (rate : Nat) (v : State)
    (step : (v.applyPending n).hoses[n].step.isSome = true)
    (spent : (v.applyPending n).hoses[n].remaining ≤ 0) :
    v.evaluateHose n rate = (v.applyPending n).enterSettling n .presetReached := by
  obtain ⟨st, step⟩ := Option.isSome_iff_exists.mp step
  unfold State.evaluateHose
  dsimp only
  rw [step]
  exact if_pos spent

theorem State.waitingWork_ends (n : HoseId) (v : State) (spent : (v.applyPending n).hoses[n].remaining ≤ 0) :
    v.waitingWork n = (v.applyPending n).enterSettling n .presetReached := if_pos spent

theorem State.waitingWork_waits (n : HoseId) (v : State)
    (left : ¬ (v.applyPending n).hoses[n].remaining ≤ 0) : v.waitingWork n = v.applyPending n := if_neg left

theorem State.waitingWork_works (n : HoseId) (v : State)
    (h : (v.applyPending n).hoses[n].state.delivering = true) :
    Works n (v.applyPending n) (v.waitingWork n) := by
  by_cases spent : (v.applyPending n).hoses[n].remaining ≤ 0
  · rw [v.waitingWork_ends n spent]
    exact State.enterSettling_works n _ _
  · rw [v.waitingWork_waits n spent]
    exact .refl n _ h

/-! ## The end of a window (R46 step 4, R59) -/

/-- The context at the end of a window: the window of the entry to SETTLING is over, and the journal is rewritten. -/
def Hose.windowEnded (n : HoseId) (k : CompId) (h : Hose) : Hose :=
  { h with settleFresh := false, journal := some (h.toJournal n k) }

theorem State.endWindow_eq (n : HoseId) (s : State) (h : s.hoses[n].state.delivering = true) :
    s.endWindow n = { s with hoses := s.hoses.set n (s.hoses[n].windowEnded n (s.hoseComp n)) } := by
  have open' : (s.hoses[n].state.isActive || s.hoses[n].state == .settling) = true := h
  have fresh : (s.setHose n { s.hoses[n] with settleFresh := false }).hoses[n] =
      { s.hoses[n] with settleFresh := false } := s.setHose_same n _
  unfold State.endWindow
  rw [if_pos open']
  unfold State.writeJournal
  rw [fresh]
  show State.mk .. = State.mk ..
  congr 1
  exact Vector.set_set ..

/-- The end of the window in which a hose entered SETTLING leaves the part, where the entry was at its end. -/
theorem State.endWindow_settled (n : HoseId) (cause : EndCause) (due : Nat) (v : State)
    (timer : v.meters[meterOf n].due = some due) (passed : due ≤ v.now) :
    (v.enterSettling n cause).endWindow n = v.enterSettling n cause := by
  obtain ⟨context, -⟩ := v.enterSettling_hose n cause
  have journal := v.enterSettling_journal n cause
  have fresh : (v.enterSettling n cause).hoses[n].settleFresh = false := by
    rw [context]
    show (v.meters[meterOf n].due.any fun due => v.now < due) = false
    rw [timer]
    simpa using passed
  rw [State.endWindow_eq n _ (v.enterSettling_works n cause).delivering]
  have same : (v.enterSettling n cause).hoses[n].windowEnded n (v.hoseComp n) = (v.enterSettling n cause).hoses[n] := by
    generalize (v.enterSettling n cause).hoses[n] = h at journal fresh
    unfold Hose.windowEnded
    rw [← journal, ← fresh]
  have comp : (v.enterSettling n cause).hoseComp n = v.hoseComp n := rfl
  rw [comp, same]
  generalize v.enterSettling n cause = t
  show { t with hoses := t.hoses.set n t.hoses[n] } = t
  rw [show t.hoses.set n t.hoses[n] = t.hoses from Vector.set_getElem_self _]

end Sys2Proof.Machine
end

section
/-! A delivery window is taken into the context, ends the delivery on a fault, and is evaluated by the profile (03, R46,
R49, R51; 04, R68; 06, R90; 07, R107, R109). -/

namespace Sys2Proof.Machine

/-! ## The work of a window by its fault (R46 steps 2 and 3) -/

/-- The part with a window of hose `n`'s channel taken into a context, the window's end reached. -/
def State.taken (s : State) (n : HoseId) (due : Nat) (h : Hose) : State :=
  { s.noted n due with hoses := s.hoses.set n h }

theorem State.deliveryWindow_faults (n : HoseId) (w : Window) (cause : EndCause) (v : State)
    (fault : windowFault w v.hoses[n] (v.windowContext n w) = some cause) (ne : v.hoses[n].state ≠ .settling) :
    v.deliveryWindow n w = ((v.setHose n (v.windowContext n w)).enterSettling n cause).endWindow n := by
  unfold State.deliveryWindow
  dsimp only
  rw [fault]
  generalize v.hoses[n].state = st at ne
  cases st <;> first | rfl | exact absurd rfl ne

theorem State.deliveryWindow_sound (n : HoseId) (w : Window) (v : State)
    (fault : windowFault w v.hoses[n] (v.windowContext n w) = none) :
    v.deliveryWindow n w = ((v.setHose n (v.windowContext n w)).stateWork n w v.hoses[n].state).endWindow n := by
  unfold State.deliveryWindow
  dsimp only
  rw [fault]

/-- The expiry of a window of a delivery before SETTLING, up to the end of the window's work. -/
theorem exec_windowExpiry_active (n : HoseId) (due : Nat) (s : State) (timer : s.meters[meterOf n].due = some due)
    (attached : s.meters[meterOf n].attach = .delivery) (active : s.hoses[n].state.isActive = true) :
    let w := s.windowOf (meterOf n)
    let h := s.windowContext n w
    ∃ u : State,
      exec (.windowExpiry (meterOf n)) s = .next ((u.endWindow n).nextWindow (meterOf n) (due + 250000)) ∧
      (∀ cause, windowFault w s.hoses[n] h = some cause → u = (s.taken n due h).enterSettling n cause) ∧
      (windowFault w s.hoses[n] h = none → u = (s.taken n due h).stateWork n w s.hoses[n].state) := by
  intro w h
  have expires := exec_windowExpiry_delivery n due s timer attached (by rintro e; rw [e] at active; cases active)
  have unsettled : (s.noted n due).hoses[n].state ≠ .settling := by
    intro e
    rw [show s.hoses[n].state = .settling from e] at active
    cases active
  have ended (u : State) (shape : (s.noted n due).deliveryWindow n w = u.endWindow n) :
      exec (.windowExpiry (meterOf n)) s = .next ((u.endWindow n).nextWindow (meterOf n) (due + 250000)) := by
    rw [expires, shape]
  cases fault : windowFault w s.hoses[n] h with
  | some cause =>
    exact ⟨_, ended _ ((s.noted n due).deliveryWindow_faults n w cause fault unsettled),
      fun _ e => by cases e; rfl, nofun⟩
  | none => exact ⟨_, ended _ ((s.noted n due).deliveryWindow_sound n w fault), nofun, fun _ => rfl⟩

/-- The fault of a window, by its figures (R46 step 2). -/
theorem windowFault_eq (w : Window) (h h' : Hose) (a b : Accum) (before : h.acc = some a) (after : h'.acc = some b) :
    windowFault w h h' =
      if w.sat then some .overspeed
      else if a.newlySaturated b then some .overflow
      else if 3 < h'.phaseErrors then some .meterFault
      else none := by
  unfold windowFault Hose.accum
  rw [before, after]
  rfl

/-! ## What an expiry leaves -/

/-- What the end of a window and the start of the next one leave of the work of a window. -/
theorem Works.expires {n : HoseId} {v u : State} (works : Works n v u) (due : Nat) :
    let t := (u.endWindow n).nextWindow (meterOf n) due
    t.hoses[n] = u.hoses[n].windowEnded n (v.hoseComp n) ∧ t.pumps = u.pumps ∧
    t.meters = v.meters.set (meterOf n) { v.meters[meterOf n] with
      count := 0, sat := false, phaseErr := 0, due := some due } ∧
    (∀ m : HoseId, m ≠ n → t.hoses[m] = v.hoses[m]) ∧
    t = { v with hoses := t.hoses, pumps := t.pumps, meters := t.meters } := by
  have comp : u.hoseComp n = v.hoseComp n := State.hoseComp_of_config n v u (by rw [works.frame])
  have meters : u.meters = v.meters := by rw [works.frame]
  rw [u.endWindow_eq n works.delivering, comp]
  refine ⟨Vector.getElem_set_self _, rfl, ?_, fun m ne => ?_, ?_⟩
  · exact congrArg (fun x : Vector Meter 5 => x.set (meterOf n) { x[meterOf n] with
      count := 0, sat := false, phaseErr := 0, due := some due }) meters
  · exact (getElem_set_fin u.hoses n m _).trans ((if_neg ne).trans (works.others m ne))
  · exact congrArg (fun x : State => { x with
      hoses := u.hoses.set n (u.hoses[n].windowEnded n (v.hoseComp n)), pumps := u.pumps
      meters := u.meters.set (meterOf n) { u.meters[meterOf n] with
        count := 0, sat := false, phaseErr := 0, due := some due } }) works.frame

/-- A window that ends the delivery is the entry to SETTLING (R46, R51). -/
theorem State.enterSettling_expires (n : HoseId) (cause : EndCause) (due next : Nat) (v : State)
    (timer : v.meters[meterOf n].due = some due) (passed : due ≤ v.now) :
    let t := ((v.enterSettling n cause).endWindow n).nextWindow (meterOf n) next
    t.hoses[n].state = .settling ∧ t.hoses[n].endCause = some cause ∧
    ((n ∈ (v.pumpOf n).queue → (v.pumpOf n).grants[n] = false) →
      EntersSettling n cause v { t with meters := v.meters }) := by
  obtain ⟨context, -⟩ := v.enterSettling_hose n cause
  rw [v.endWindow_settled n cause due timer passed]
  refine ⟨?_, ?_, fun apart => v.enterSettling_settles n cause apart⟩
  · show (v.enterSettling n cause).hoses[n].state = _
    rw [context]
    rfl
  · show (v.enterSettling n cause).hoses[n].endCause = _
    rw [context]
    rfl

/-- The work of a window of an active hose that shows no fault starts from the pending preset applied. -/
theorem State.stateWork_works (n : HoseId) (w : Window) (st : HoseState) (v : State) (own : v.hoses[n].state = st)
    (active : st.isActive = true) : Works n (v.applyPending n) (v.stateWork n w st) := by
  have delivering : (v.applyPending n).hoses[n].state.delivering = true := by
    rw [hoseState_of_flow (v.applyPending_flow n), own, HoseState.delivering, active]
    rfl
  cases st
  case flowing => exact v.evaluateHose_works n w.rate delivering
  case priming => exact v.waitingWork_works n delivering
  case paused => exact v.waitingWork_works n delivering
  all_goals cases active

/-- A window of an active hose with nothing remaining ends the delivery with PRESET_REACHED (R46, R68). -/
theorem State.stateWork_ends (n : HoseId) (w : Window) (st : HoseState) (v : State) (active : st.isActive = true)
    (stepped : st = .flowing → (v.applyPending n).hoses[n].step.isSome = true)
    (spent : (v.applyPending n).hoses[n].remaining ≤ 0) :
    v.stateWork n w st = (v.applyPending n).enterSettling n .presetReached := by
  cases st
  case flowing => exact v.evaluateHose_ends n w.rate (stepped rfl) spent
  case priming => exact v.waitingWork_ends n spent
  case paused => exact v.waitingWork_ends n spent
  all_goals cases active

theorem State.stateWork_waits (n : HoseId) (w : Window) (st : HoseState) (v : State)
    (waits : st = .priming ∨ st = .paused) (left : ¬ (v.applyPending n).hoses[n].remaining ≤ 0) :
    v.stateWork n w st = v.applyPending n := by
  rcases waits with rfl | rfl <;> exact v.waitingWork_waits n left

theorem State.applyPending_set (n : HoseId) (h : Hose) (v : State) (hoses : Vector Hose 4)
    (e : v.hoses = hoses.set n h) : v.applyPending n = { v with hoses := hoses.set n h.applyPending } := by
  have own : v.hoses[n] = h := by rw [e]; exact Vector.getElem_set_self _
  rw [v.applyPending_eq, own, e, Vector.set_set]

/-- The expiry of a window of a delivery before SETTLING: a fault ends the delivery, and without one the state work starts
from the pending preset applied. -/
theorem exec_windowExpiry_works (n : HoseId) (due : Nat) (s : State) (timer : s.meters[meterOf n].due = some due)
    (attached : s.meters[meterOf n].attach = .delivery) (active : s.hoses[n].state.isActive = true) :
    let w := s.windowOf (meterOf n)
    let h := s.windowContext n w
    ∃ u : State,
      exec (.windowExpiry (meterOf n)) s = .next ((u.endWindow n).nextWindow (meterOf n) (due + 250000)) ∧
      (∀ cause, windowFault w s.hoses[n] h = some cause →
        u = (s.taken n due h).enterSettling n cause ∧ Works n (s.taken n due h) u) ∧
      (windowFault w s.hoses[n] h = none →
        u = (s.taken n due h).stateWork n w s.hoses[n].state ∧ Works n (s.taken n due h.applyPending) u) := by
  intro w h
  obtain ⟨u, expires, ended, worked⟩ := exec_windowExpiry_active n due s timer attached active
  have pending : (s.taken n due h).applyPending n = s.taken n due h.applyPending :=
    State.applyPending_set n h _ s.hoses rfl
  refine ⟨u, expires, fun cause shows => ⟨ended cause shows, ?_⟩, fun none' => ⟨worked none', ?_⟩⟩
  · rw [ended cause shows]
    exact State.enterSettling_works n cause _
  · have own : (s.taken n due h).hoses[n].state = s.hoses[n].state :=
      (congrArg Hose.state (Vector.getElem_set_self _)).trans rfl
    rw [worked none', ← pending]
    exact State.stateWork_works n w _ _ own active

/-- The sums of a window (R107, R109). -/
theorem Accum.window_adds (a : Accum) (gross net : Step) (t : Int) :
    let b := a.window gross net t
    let adds (bound old d new : Int) (was is : Bool) : Prop :=
      (was = true → new = old ∧ is = true) ∧
      (was = false → bound < old + d → new = bound ∧ is = true) ∧
      (was = false → old + d < -bound → new = -bound ∧ is = true) ∧
      (was = false → -bound ≤ old + d → old + d ≤ bound → new = old + d ∧ is = false)
    adds (2 ^ 47 - 1) a.gross gross.whole b.gross a.satGross b.satGross ∧
    adds (2 ^ 47 - 1) a.net net.whole b.net a.satNet b.satNet ∧
    (0 < gross.whole →
      adds (2 ^ 63 - 1) a.sumG gross.whole b.sumG a.satG b.satG ∧
      adds (2 ^ 79 - 1) a.sumGT (gross.whole * t) b.sumGT a.satGT b.satGT) ∧
    (gross.whole ≤ 0 → b.sumG = a.sumG ∧ b.satG = a.satG ∧ b.sumGT = a.sumGT ∧ b.satGT = a.satGT) := by
  intro b adds
  have added (bound old d : Int) (was : Bool) (positive : 0 ≤ bound) :
      adds bound old d (Bounded.add bound ⟨old, was⟩ d).value was (Bounded.add bound ⟨old, was⟩ d).sat := by
    obtain ⟨stays, above, below, within⟩ := Bounded.add_holds bound old d was
    exact ⟨stays, above, fun free low => below free low positive, within⟩
  refine ⟨added _ _ _ _ (by decide), added _ _ _ _ (by decide), fun flows => ?_, fun still => ?_⟩
  · have sums : b.sumG = (Bounded.add sumGBound ⟨a.sumG, a.satG⟩ gross.whole).value ∧
        b.satG = (Bounded.add sumGBound ⟨a.sumG, a.satG⟩ gross.whole).sat ∧
        b.sumGT = (Bounded.add sumGTBound ⟨a.sumGT, a.satGT⟩ (gross.whole * t)).value ∧
        b.satGT = (Bounded.add sumGTBound ⟨a.sumGT, a.satGT⟩ (gross.whole * t)).sat := by
      simp [b, Accum.window, flows]
    obtain ⟨sumG, satG, sumGT, satGT⟩ := sums
    rw [sumG, satG, sumGT, satGT]
    exact ⟨added _ _ _ _ (by decide), added _ _ _ _ (by decide)⟩
  · simp [b, Accum.window, Int.not_lt.mpr still]

/-- Settles O43: the window's arithmetic by `State.windowContext_eq`, then what its fault or its state work leaves; the
sums by `Bounded.add_holds`. -/
theorem deliveryWindowAccounts : Obligations.DeliveryWindowAccounts := by
  unfold Obligations.DeliveryWindowAccounts
  refine ⟨fun n due a s timer attached acc st => ?_, fun a gross net t => ?_⟩
  · intro c k rate gross net b errors flags preset counted applied accounted
    have active : s.hoses[n].state.isActive = true := by rcases st with e | e | e <;> rw [e] <;> rfl
    have context : s.windowContext n (s.windowOf (meterOf n)) = counted := by
      have context := s.windowContext_eq n
      simp only [acc, Option.getD_some] at context
      exact context
    have fault : windowFault (s.windowOf (meterOf n)) s.hoses[n] counted =
        if c.sat then some .overspeed
        else if a.newlySaturated b then some .overflow
        else if 3 < errors then some .meterFault
        else none := windowFault_eq _ _ _ a b acc rfl
    have later : counted.applyPending = applied := Hose.applyPending_eq counted
    have own (h : Hose) : (accounted h).hoses[n] = h := Vector.getElem_set_self _
    have pending : (accounted counted).applyPending n = accounted applied := by
      rw [State.applyPending_set n counted (accounted counted) s.hoses rfl, later]
    obtain ⟨u, expires, ended, worked⟩ := exec_windowExpiry_works n due s timer attached active
    rw [context, later] at worked
    rw [context] at ended
    change ∀ cause, _ → u = (accounted counted).enterSettling n cause ∧ Works n (accounted counted) u at ended
    change _ → u = (accounted counted).stateWork n _ _ ∧ Works n (accounted applied) u at worked
    obtain ⟨x, accX, errorsX, flagsX, works⟩ : ∃ x : Hose, x.acc = some b ∧ x.phaseErrors = errors ∧ x.flags = flags ∧
        Works n (accounted x) u := by
      cases shows : windowFault (s.windowOf (meterOf n)) s.hoses[n] counted with
      | none => exact ⟨applied, rfl, rfl, rfl, (worked shows).2⟩
      | some cause => exact ⟨counted, rfl, rfl, rfl, (ended cause shows).2⟩
    have ends (h : Hose) (cause : EndCause) (e : u = (accounted h).enterSettling n cause) :
        let t := (u.endWindow n).nextWindow (meterOf n) (due + 250000)
        t.hoses[n].state = .settling ∧ t.hoses[n].endCause = some cause ∧
          (GrantInv s → EntersSettling n cause (accounted h) { t with meters := (accounted h).meters }) := by
      obtain ⟨state, cause', settles⟩ := (accounted h).enterSettling_expires n cause due (due + 250000)
        ((congrArg Meter.due (Vector.getElem_set_self _)).trans timer) (Nat.le_max_right _ _)
      rw [e]
      exact ⟨state, cause', fun inv => settles (inv.apart (s.hoseComp n) n)⟩
    obtain ⟨hose, pumps, meters, others, frame⟩ := works.expires (due + 250000)
    generalize (u.endWindow n).nextWindow (meterOf n) (due + 250000) = t at expires hose pumps meters others frame ends
    have now : t.now = max s.now due := by rw [frame]
    refine ⟨t, expires, now, ?_, ?_, ?_, ⟨?_, ?_, ?_, ?_⟩, ?_, ?_, ?_, ?_, ?_, ?_⟩
    · rw [hose]
      exact works.acc.trans (by rw [own]; exact accX)
    · rw [hose]
      exact works.phaseErrors.trans (by rw [own]; exact errorsX)
    · rw [hose]
      exact works.flags.trans (by rw [own]; exact flagsX)
    · exact fun sat => ends counted _ (ended _ (fault.trans (by simp [sat]))).1
    · exact fun sat full => ends counted _ (ended _ (fault.trans (by simp [sat, full]))).1
    · exact fun sat room many => ends counted _ (ended _ (fault.trans (by simp [sat, room, many]))).1
    · intro sat room few
      obtain ⟨worked, works⟩ := worked (fault.trans (by simp [sat, room, few]))
      have left : applied.remaining ≤ 0 ↔ (preset.getD 0 : Nat) ≤ truncDiv b.net 1000 :=
        applied.remaining_le_iff b rfl
      refine ⟨?_, ?_, fun spent stepped => ?_, fun more waits => ?_⟩
      · rw [hose]
        exact works.preset.trans (by rw [own])
      · rw [hose]
        exact works.pending.trans (by rw [own])
      · refine ends applied _ ?_
        rw [worked, ← pending]
        refine State.stateWork_ends n _ _ _ active ?_ ?_
        · rw [pending, own]
          exact stepped
        · rw [pending, own]
          exact left.mpr spent
      · have waited : u = accounted applied := by
          rw [worked, ← pending]
          refine State.stateWork_waits n _ _ _ waits ?_
          rw [pending, own, left]
          exact Int.not_le.mpr more
        rw [pumps, hose, waited, own]
        exact ⟨rfl, rfl⟩
    · intro sat room few flowing _
      have evaluated : u = State.evaluateHose n rate (accounted counted) := by
        rw [(worked (fault.trans (by simp [sat, room, few]))).1, flowing]
        rfl
      rw [pumps, hose, evaluated]
      exact ⟨rfl, rfl⟩
    · rw [hose]
      rfl
    · have noted : (accounted x).meters[meterOf n] = { c with lastRate := rate } := Vector.getElem_set_self _
      rw [meters, noted]
      exact Vector.set_set ..
    · exact fun m ne => (others m ne).trans ((getElem_set_fin ..).trans (if_neg ne))
    · intro j ne
      rw [pumps]
      exact works.pump j ne
    · rw [now]
      exact frame
  · obtain ⟨grossSum, netSum, flows, still⟩ := a.window_adds gross net t
    exact ⟨rfl, rfl, grossSum, netSum, flows, still, a.newlySaturated_iff _⟩

end Sys2Proof.Machine
end

section
/-! The figures and the bytes of a DELIVERY record (07, R109 to R111; 08, R117 to R119, R121). -/

namespace Sys2Proof.Machine

/-! ## The figures (R109 to R111, R118) -/

theorem fitted_eq (x : Int) : fitted x = max (-2147483647) (min 2147483647 x) := clampInt_eq _ _ _ (by decide)

/-- A negative volume is charged nothing, as its charge from the bounded net would be (R110, R111). -/
theorem Delivery.charge_eq (d : Delivery) (rate sur : Int) :
    d.charge rate sur = rawCharge d.acc.netField rate sur := by
  unfold Delivery.charge
  split_ifs with reversed
  · unfold rawCharge floorDiv
    rw [max_eq_left (Int.le_of_lt reversed), Int.zero_mul, Int.zero_mul]
    rfl
  · rfl

theorem rawCharge_nonneg (net rate sur : Int) (rated : 0 ≤ rate) (low : -1000 ≤ sur) : 0 ≤ rawCharge net rate sur := by
  unfold rawCharge floorDiv
  have volume : 0 ≤ max 0 net * rate := Int.mul_nonneg (le_max_left 0 net) rated
  have money : 0 ≤ max 0 net * rate * (1000 + sur) := Int.mul_nonneg volume (by omega)
  omega

/-! ## The flags (R121) -/

/-- The bits of a record's flags field. -/
theorem recordFlags_bits (f : DFlags) (reversed full : Bool) (extra : BitVec 16)
    (h : extra = 0 ∨ extra = flagInterrupted ∨ extra = flagInterrupted ||| flagJournalLost) :
    let w := f.word ||| flagIf reversed flagReversed ||| flagIf full flagChargeSat ||| extra
    w.getLsbD 0 = reversed ∧ w.getLsbD 1 = f.uncompensated ∧ w.getLsbD 2 = f.tempHeld ∧
    w.getLsbD 3 = f.overspeed ∧ w.getLsbD 4 = f.overflow ∧ w.getLsbD 5 = full ∧
    w.getLsbD 6 = decide (extra ≠ 0) ∧
    w.getLsbD 7 = decide (extra = flagInterrupted ||| flagJournalLost) ∧ w.toNat < 256 := by
  obtain ⟨uncompensated, tempHeld, overspeed, overflow⟩ := f
  rcases h with rfl | rfl | rfl <;> revert uncompensated tempHeld overspeed overflow reversed full <;> decide

/-- The sticky flags of a closing (R109, R118). -/
theorem closingFlags_eq (f : DFlags) (a : Accum) (t : Temperature) :
    closingFlags f a t = { f with
      uncompensated := f.uncompensated || (decide (a.sumG ≤ 0) && t == .none)
      overflow := f.overflow || decide (a.netField ≠ truncDiv a.net 1000) ||
        decide (a.grossField ≠ truncDiv a.gross 1000) } := by
  unfold closingFlags
  rw [Bool.or_right_comm]
  rfl

/-- The figures of a DELIVERY record (R109 to R111, R118, R119, R121). -/
theorem Delivery.record_figures (d : Delivery) (rate sur : Int) (t : Temperature) (rated : 0 ≤ rate)
    (low : -1000 ≤ sur) :
    let r := d.record rate sur t
    let net := max (-2147483647) (min 2147483647 (truncDiv d.acc.net 1000))
    let charge := floorDiv (max 0 net * rate * (1000 + sur) + 5000000) 10000000
    r.kind = 1 ∧ r.net = net ∧
    r.gross = max (-2147483647) (min 2147483647 (truncDiv d.acc.gross 1000)) ∧
    (r.overrun : Int) = max 0 (net - d.preset) ∧
    (r.charge : Int) = min 4294967295 charge ∧
    (0 < d.acc.sumG → r.mean = roundAway d.acc.sumGT d.acc.sumG) ∧
    (d.acc.sumG ≤ 0 → r.mean = t.used) ∧
    (d.extra = 0 ∨ d.extra = flagInterrupted ∨ d.extra = flagInterrupted ||| flagJournalLost →
      r.flags.getLsbD 0 = decide (net < 0) ∧
      r.flags.getLsbD 1 = (d.flags.uncompensated || (decide (d.acc.sumG ≤ 0) && t == .none)) ∧
      r.flags.getLsbD 2 = d.flags.tempHeld ∧ r.flags.getLsbD 3 = d.flags.overspeed ∧
      r.flags.getLsbD 4 = (d.flags.overflow || decide (net ≠ truncDiv d.acc.net 1000) ||
        decide (r.gross ≠ truncDiv d.acc.gross 1000)) ∧
      r.flags.getLsbD 5 = decide (4294967295 < charge) ∧
      r.flags.getLsbD 6 = decide (d.extra ≠ 0) ∧
      r.flags.getLsbD 7 = decide (d.extra = flagInterrupted ||| flagJournalLost) ∧
      r.flags.toNat < 256) ∧
    r.comp = BitVec.ofNat 8 d.comp.val ∧ r.method = d.method ∧
    r.hose = d.hose ∧ r.ring = d.ring ∧ r.number = d.number ∧ r.costCentre = d.costCentre ∧
    r.preset = d.preset ∧ r.endCause = d.endCause ∧ r.phaseErrors = min 65535 d.phaseErrors := by
  intro r net charge
  have netField : d.acc.netField = net := fitted_eq _
  have charged : d.charge rate sur = charge := by rw [d.charge_eq, netField]; rfl
  have positive : 0 ≤ charge := rawCharge_nonneg net rate sur rated low
  refine ⟨rfl, netField, fitted_eq _, ?_, ?_, fun flows => if_pos flows, fun still => if_neg (Int.not_lt.mpr still),
    fun extra => ?_, rfl, rfl, rfl, rfl, rfl, rfl, rfl, rfl, hold_eq _ _⟩
  · show ((d.acc.netField - d.preset).toNat : Int) = _
    rw [netField, Int.toNat_eq_max, max_comm]
  · show ((min (d.charge rate sur) chargeTop).toNat : Int) = _
    rw [charged, Int.toNat_of_nonneg (le_min positive (by decide)), min_comm]
    rfl
  · have bits := recordFlags_bits (closingFlags d.flags d.acc t) (decide (d.acc.netField < 0))
      (decide (chargeTop < d.charge rate sur)) d.extra extra
    rw [closingFlags_eq, charged, netField] at bits
    have flags : r.flags = (closingFlags d.flags d.acc t).word ||| flagIf (decide (d.acc.netField < 0)) flagReversed |||
        flagIf (decide (chargeTop < d.charge rate sur)) flagChargeSat ||| d.extra := rfl
    rw [flags, closingFlags_eq, charged, netField]
    exact bits

/-- What a context's delivery is formed from (R53, R119). -/
theorem State.deliveryRecord_eq (n : HoseId) (i : Ident) (cause : EndCause) (h : Hose) (s : State)
    (ident : h.ident = some i) (ended : h.endCause = some cause) :
    let k := s.hoseComp n
    let d := h.delivery n k
    d = { hose := BitVec.ofNat 8 n.val, comp := k, method := BitVec.ofNat 8 i.method.code, ring := i.ring
          number := i.number, costCentre := i.costCentre, preset := h.preset.getD 0
          acc := h.acc.getD Accum.zero, flags := h.flags, phaseErrors := h.phaseErrors
          endCause := BitVec.ofNat 8 cause.code, extra := 0 } ∧
    s.deliveryRecord d = d.record (s.rate k) (s.surcharge i.costCentre) (s.compTemp k) := by
  intro k d
  have identity : h.identity = i := by rw [Hose.identity, ident]; rfl
  have shape : d = { hose := BitVec.ofNat 8 n.val, comp := k, method := BitVec.ofNat 8 i.method.code, ring := i.ring
                     number := i.number, costCentre := i.costCentre, preset := h.preset.getD 0
                     acc := h.acc.getD Accum.zero, flags := h.flags, phaseErrors := h.phaseErrors
                     endCause := BitVec.ofNat 8 cause.code, extra := 0 } := by
    show Hose.delivery n k h = _
    unfold Hose.delivery
    rw [identity, ended]
    rfl
  exact ⟨shape, by rw [shape]; rfl⟩

/-! ## The bytes (R117, R121) -/

/-- The digits of a number to the base 256, most significant first. -/
theorem beBytes_digit (n v i : Nat) (h : i < n) :
    (beBytes n v)[i]? = some (BitVec.ofNat 8 (v / 256 ^ (n - 1 - i))) := by
  induction n generalizing i with
  | zero => exact absurd h (Nat.not_lt_zero i)
  | succ n ih =>
    cases i with
    | zero => rfl
    | succ i =>
      have rest := ih i (Nat.lt_of_succ_lt_succ h)
      rw [show n + 1 - 1 - (i + 1) = n - 1 - i by omega]
      exact rest

/-- The bytes of a record: 46 with the mean where it fits its field, then the CRC of these. -/
theorem Record.bytes_eq (seq : BitVec 32) (day : BitVec 16) (free : Nat) (r : Record) :
    ∃ mean : List Byte, mean.length = 2 ∧
    (-32768 ≤ r.mean → r.mean ≤ 32767 → mean = beBytes 2 (r.mean % 65536).toNat) ∧
    let body := beBytes 4 seq.toNat ++ [BitVec.ofNat 8 r.kind] ++ beBytes 2 day.toNat ++
      [r.hose, r.comp, r.method] ++ beBytes 3 r.ring.toNat ++ beBytes 2 r.number.toNat ++
      [r.costCentre] ++ beBytes 4 r.preset ++ beBytes 4 (r.gross % 4294967296).toNat ++
      beBytes 4 (r.net % 4294967296).toNat ++ beBytes 4 r.overrun ++ mean ++ beBytes 4 r.charge ++
      [r.endCause] ++ beBytes 2 r.flags.toNat ++ beBytes 2 r.phaseErrors ++ [0, 0, 0]
    body.length = 46 ∧ r.bytes seq day free = body ++ beBytes 2 (crc16 body).toNat := by
  refine ⟨(i16 r.mean).bytes free 0, Field.bytes_length _ _ _, fun low high => ?_, r.body_length seq day free, rfl⟩
  have fits : (i16 r.mean).fits = true := by
    show (decide (-(2 ^ 15 : Int) ≤ r.mean) && decide (r.mean < (2 ^ 15 : Int))) = true
    rw [Bool.and_eq_true, decide_eq_true_eq, decide_eq_true_eq]
    norm_num
    omega
  rw [Field.bytes_of_fits _ _ _ fits]
  rfl

end Sys2Proof.Machine
end

section
/-! The settling windows and the close of a delivery (03, R52, R53; 02, R31; 08, R117; 09, R128, R138, R142). -/

namespace Sys2Proof.Machine

/-! ## The credit (R31) -/

theorem State.credit_none (ring : BitVec 24) (net : Int) (s : State) (h : s.entryOfRing ring = none) :
    s.credit ring net = s := by
  simp only [State.credit, h]

/-- An entry with a volume credited to a station's tally, which holds at its bound. -/
def Entry.credited (own : StationId) (net : Int) (e : Entry) : Entry :=
  { e with tally := e.tally.set own (min 4294967295 (e.tally[own] + net.toNat)) }

theorem State.credit_some (ring : BitVec 24) (net : Int) (slot : Nat) (e : Entry) (s : State)
    (h : s.entryOfRing ring = some (slot, e)) :
    s.credit ring net = (s.putEntry slot (e.credited s.ownIndex net)).ask (.machine ring) := by
  simp only [State.credit, h, holdTally, hold_eq, Entry.credited]

theorem State.entryAt_putEntry (slot j : Nat) (e : Entry) (s : State) :
    (s.putEntry slot e).entryAt j = if j = slot then some e.withCrc else s.entryAt j :=
  Sparse.find?_insert _ _ _ _

/-- The subject of a credited ring is asked for where the table lists it. -/
def State.askListed (ring : BitVec 24) (s : State) : State :=
  if (s.entryOfRing ring).isSome then s.ask (.machine ring) else s

/-- Two states with one table and a like stock and link come out alike of a credit. -/
theorem SameStock.askListed {u v : State} (same : SameStock u v) (ring : BitVec 24) (table : u.table = v.table) :
    SameStock (u.askListed ring) (v.askListed ring) := by
  have entry : u.entryOfRing ring = v.entryOfRing ring := by
    unfold State.entryOfRing State.findEntry
    rw [table]
  unfold State.askListed
  rw [entry]
  split_ifs
  · exact same.ask _
  · exact same

/-- A credit asks for the subject, and writes the table beside it. -/
theorem State.credit_asks (ring : BitVec 24) (net : Int) (s : State) :
    SameStock (s.credit ring net) (s.askListed ring) := by
  unfold State.askListed
  cases h : s.entryOfRing ring with
  | none =>
    rw [s.credit_none ring net h]
    exact ⟨⟨rfl, rfl, rfl, rfl⟩, rfl, rfl⟩
  | some found =>
    obtain ⟨slot, e⟩ := found
    rw [s.credit_some ring net slot e h]
    rw [if_pos Option.isSome_some]
    have put (e : Entry) : SameStock (s.putEntry slot e) s := ⟨⟨rfl, rfl, rfl, rfl⟩, rfl, rfl⟩
    exact (put _).ask _

/-! ## What a change of a book adds (R128, R138, R142) -/

theorem GrowsBy.mono {a b : Nat} {u v : State} (h : GrowsBy a u v) (le : a ≤ b) : GrowsBy b u v :=
  ⟨h.mask, h.events.trans (Nat.add_le_add_left le _), h.queue.trans (Nat.add_le_add_left le _), h.kept⟩

theorem GrowsBy.of_stock {b : Nat} {stock : Stock} {u v : State} (h : GrowsBy b { u with stock } v) : GrowsBy b u v :=
  ⟨h.mask, h.events, h.queue, h.kept⟩

theorem State.setRestock_grows (r : RestockState) (s : State) : GrowsBy 2 s (s.setRestock r) := by
  unfold State.setRestock
  split_ifs
  · exact (GrowsBy.refl s).mono (by decide)
  · have asked := State.ask_grows .stock { s with stock := { s.stock with restock := r } }
    exact asked.of_stock.trans (State.post_grows _ _ _ _)

theorem State.highLevelTest_grows (k : CompId) (s : State) : GrowsBy 1 s (s.highLevelTest k) := by
  rcases s.highLevelTest_cases k with e | ⟨x, -, -, -, -, e⟩ <;> rw [e]
  · exact (GrowsBy.refl s).mono (by decide)
  · unfold State.dropPermit
    exact (State.post_grows .highLevel (.comp x.comp) (if s.highByBook x then 0 else 1)
      (s.putSession { x with permit := .dropped })).of_stock

theorem State.rebooked_grows (k : CompId) (value : Int) (s : State) : GrowsBy 3 s (s.rebooked k value) := by
  unfold State.rebooked State.evaluateRestock
  dsimp only
  exact (State.setRestock_grows _ _).of_stock.of_stock.trans (State.highLevelTest_grows k _)

/-! ## The close (R53) -/

/-- The record of a closing delivery. -/
def State.closing (s : State) (n : HoseId) : Record := s.deliveryRecord (s.hoses[n].delivery n (s.hoseComp n))

/-- What the close of hose `n`'s delivery leaves, from `s` to `t`. -/
structure Closes (n : HoseId) (s t : State) : Prop where
  hoses : t.hoses = s.hoses.set n (Hose.bare (s.restState n) none)
  meters : t.meters = s.meters.set (meterOf n) { s.meters[meterOf n] with attach := .stray }
  log : t.log = (s.append (s.closing n) (some (holderOf n))).log
  table : t.table = (s.credit s.hoses[n].identity.ring (s.closing n).net).table
  stocks : SameStock t ((((State.askListed s.hoses[n].identity.ring { s with free := s.free + 1 }).rebooked
    (s.hoseComp n) (s.stock.books[s.hoseComp n].value - (s.closing n).net))).post .deliveryClosed (.hose n)
      s.log.seq.toNat)
  frame : t = { s with
    hoses := t.hoses, meters := t.meters, log := t.log, table := t.table, stock := t.stock
    link := t.link, port := t.port, free := t.free }

theorem State.credit_table_of (ring : BitVec 24) (net : Int) (s t : State) (table : t.table = s.table)
    (own : t.ownIndex = s.ownIndex) : (t.credit ring net).table = (s.credit ring net).table := by
  have entry : t.entryOfRing ring = s.entryOfRing ring := by
    unfold State.entryOfRing State.findEntry
    rw [table]
  cases h : s.entryOfRing ring with
  | none => rw [s.credit_none ring net h, t.credit_none ring net (entry.trans h), table]
  | some found =>
    obtain ⟨slot, e⟩ := found
    rw [s.credit_some ring net slot e h, t.credit_some ring net slot e (entry.trans h), own]
    simp [State.putEntry, table]

/-- The stock, the link and the events once a closing delivery is credited and taken from its book. -/
theorem State.charged_stocks (n : HoseId) (s : State) :
    SameStock (s.charged n) ((State.askListed s.hoses[n].identity.ring { s with free := s.free + 1 }).rebooked
      (s.hoseComp n) (s.stock.books[s.hoseComp n].value - (s.closing n).net)) := by
  let appended := s.append (s.closing n) (some (holderOf n))
  let credited := appended.credit s.hoses[n].identity.ring (s.closing n).net
  have asked : SameStock credited (State.askListed s.hoses[n].identity.ring { s with free := s.free + 1 }) :=
    (appended.credit_asks _ _).trans
      (SameStock.askListed (u := appended) (v := { s with free := s.free + 1 })
        ⟨⟨rfl, rfl, rfl, rfl⟩, rfl, rfl⟩ _ rfl)
  have books : credited.stock.books = s.stock.books := by simp [credited, appended]
  have charged : s.charged n = credited.changeBook (s.hoseComp n) (-(s.closing n).net) := rfl
  rw [charged, State.changeBook_eq, books, ← Int.sub_eq_add_neg]
  exact asked.rebooked _ _

/-- A change of a book changes the stock, the link and the port alone. -/
theorem State.changeBook_moves (k : CompId) (d : Int) (s : State) :
    s.changeBook k d = { s with
      stock := (s.changeBook k d).stock, link := (s.changeBook k d).link, port := (s.changeBook k d).port } := by
  have frame := State.changeBook_frame k d s
  generalize s.changeBook k d = t at frame ⊢
  cases t
  simpa using frame

/-- A credit changes the table, the link and the port alone. -/
theorem State.credit_moves (ring : BitVec 24) (net : Int) (s : State) :
    s.credit ring net = { s with
      table := (s.credit ring net).table, link := (s.credit ring net).link, port := (s.credit ring net).port } := by
  cases h : s.entryOfRing ring with
  | none =>
    rw [s.credit_none ring net h]
  | some found =>
    obtain ⟨slot, e⟩ := found
    have asked := State.ask_eq (.machine ring) (s.putEntry slot (e.credited s.ownIndex net))
    rw [s.credit_some ring net slot e h, asked]
    rfl

theorem State.charged_eq (n : HoseId) (s : State) :
    s.charged n = { s with
      log := (s.append (s.closing n) (some (holderOf n))).log
      table := (s.credit s.hoses[n].identity.ring (s.closing n).net).table, stock := (s.charged n).stock
      link := (s.charged n).link, port := (s.charged n).port, free := s.free + 1 } := by
  let appended := s.append (s.closing n) (some (holderOf n))
  let credited := appended.credit s.hoses[n].identity.ring (s.closing n).net
  have table : credited.table = (s.credit s.hoses[n].identity.ring (s.closing n).net).table :=
    State.credit_table_of _ _ s appended rfl rfl
  have booked : s.charged n = { credited with
      stock := (s.charged n).stock, link := (s.charged n).link, port := (s.charged n).port } :=
    credited.changeBook_moves _ _
  have listed : credited = { appended with
      table := credited.table, link := credited.link, port := credited.port } := appended.credit_moves _ _
  rw [booked, listed, table]
  rfl

/-- The journal erased, the channel detached, the event posted and the hose at rest: in one. -/
theorem State.eraseDetachRest_eq (n : HoseId) (seq : Int) (c : State) :
    State.toRest n (State.post .deliveryClosed (.hose n) seq
      (State.detach (meterOf n) (c.setHose n { c.hoses[n] with journal := none }))) =
    { c with
      hoses := c.hoses.set n (Hose.bare (c.restState n) none)
      meters := c.meters.set (meterOf n) { c.meters[meterOf n] with attach := .stray }
      port := (c.post .deliveryClosed (.hose n) seq).port } := by
  let erased := c.setHose n { c.hoses[n] with journal := none }
  let v := erased.detach (meterOf n)
  have port : (v.post .deliveryClosed (.hose n) seq).port = (c.post .deliveryClosed (.hose n) seq).port :=
    (SameLink.post (u := v) (v := c) ⟨rfl, rfl, rfl, rfl⟩ _ _ _).port
  have posted : v.post .deliveryClosed (.hose n) seq = { v with
      port := (c.post .deliveryClosed (.hose n) seq).port } := by
    rw [← port, State.post_eq]
  have own : erased.hoses[n].journal = none := by
    rw [show erased.hoses[n] = _ from c.setHose_same n _]
  show State.toRest n (v.post .deliveryClosed (.hose n) seq) = _
  rw [posted]
  show { c with
    hoses := erased.hoses.set n (Hose.bare (c.restState n) erased.hoses[n].journal)
    meters := c.meters.set (meterOf n) { c.meters[meterOf n] with attach := .stray }
    port := (c.post .deliveryClosed (.hose n) seq).port } = _
  rw [own]
  exact congrArg (fun hoses : Vector Hose 4 => { c with
    hoses
    meters := c.meters.set (meterOf n) { c.meters[meterOf n] with attach := .stray }
    port := (c.post .deliveryClosed (.hose n) seq).port }) (Vector.set_set ..)

/-- The part after the close is the charged one, with the hose at rest, its channel detached and the event posted. -/
theorem State.closeDelivery_moves (n : HoseId) (s : State) :
    s.closeDelivery n = { s.charged n with
      hoses := s.hoses.set n (Hose.bare (s.restState n) none)
      meters := s.meters.set (meterOf n) { s.meters[meterOf n] with attach := .stray }
      port := ((s.charged n).post .deliveryClosed (.hose n) s.log.seq.toNat).port } := by
  have hoses : (s.charged n).hoses = s.hoses := by rw [s.charged_eq n]
  have meters : (s.charged n).meters = s.meters := by rw [s.charged_eq n]
  have pins : (s.charged n).pins = s.pins := by rw [s.charged_eq n]
  have rest : (s.charged n).restState n = s.restState n := by
    unfold State.restState
    rw [pins]
  have moved := (s.charged n).eraseDetachRest_eq n s.log.seq.toNat
  rw [hoses, meters, rest] at moved
  rw [← moved, s.closeDelivery_eq n]
  unfold State.accounted
  rw [hoses]

theorem State.closeDelivery_closes (n : HoseId) (s : State) : Closes n s (s.closeDelivery n) := by
  have stocks := s.charged_stocks n
  have log : (s.charged n).log = (s.append (s.closing n) (some (holderOf n))).log := by rw [s.charged_eq n]
  have table : (s.charged n).table = (s.credit s.hoses[n].identity.ring (s.closing n).net).table := by
    rw [s.charged_eq n]
  have frame : s.charged n = { s with
      log := (s.charged n).log, table := (s.charged n).table, stock := (s.charged n).stock
      link := (s.charged n).link, port := (s.charged n).port, free := (s.charged n).free } := by
    rw [s.charged_eq n]
  rw [s.closeDelivery_moves n]
  refine ⟨rfl, rfl, log, table, ?_, ?_⟩
  · exact ⟨⟨stocks.link.trans (by simp), (stocks.toSameLink.post _ _ _).port, stocks.now.trans (by simp),
      stocks.config.trans (by simp)⟩, stocks.stock.trans (by simp), stocks.free.trans (by simp)⟩
  · exact congrArg (fun c : State => { c with
      hoses := s.hoses.set n (Hose.bare (s.restState n) none)
      meters := s.meters.set (meterOf n) { s.meters[meterOf n] with attach := .stray }
      port := ((s.charged n).post .deliveryClosed (.hose n) s.log.seq.toNat).port }) frame

end Sys2Proof.Machine
end

section
/-! A settling window is counted, and the last one closes the delivery with its record (03, R52, R53). -/

namespace Sys2Proof.Machine

/-! ## A window of a SETTLING hose (R46, R52) -/

theorem State.deliveryWindow_settling (n : HoseId) (w : Window) (v : State)
    (settling : v.hoses[n].state = .settling) :
    v.deliveryWindow n w =
      (((v.setHose n (v.windowContext n w)).applyPending n).settleWindow n w.count).endWindow n := by
  unfold State.deliveryWindow
  dsimp only
  rw [settling]
  cases windowFault w v.hoses[n] (v.windowContext n w) <;> rfl

theorem State.taken_hose (s : State) (n : HoseId) (due : Nat) (h : Hose) : (s.taken n due h).hoses[n] = h :=
  Vector.getElem_set_self _

theorem State.taken_setHose (s : State) (n : HoseId) (due : Nat) (h h' : Hose) :
    (s.taken n due h).setHose n h' = s.taken n due h' :=
  congrArg (fun hoses : Vector Hose 4 => { s.noted n due with hoses }) (Vector.set_set ..)

/-- What a settling window leaves before its end. -/
def State.settledBy (s : State) (n : HoseId) (due : Nat) (c : Int) (h : Hose) : State :=
  if h.settleFresh then s.taken n due h
  else if s.settleQuiet ≤ (h.quieted c).quietRun ∨ s.settleMax ≤ (h.quieted c).settleCount then
    (s.taken n due (h.quieted c)).closeDelivery n
  else s.taken n due (h.quieted c)

/-- The expiry of a window of a SETTLING hose, up to the end of the window's work. -/
theorem exec_windowExpiry_settling (n : HoseId) (due : Nat) (s : State) (timer : s.meters[meterOf n].due = some due)
    (attached : s.meters[meterOf n].attach = .delivery) (settling : s.hoses[n].state = .settling) :
    let w := s.windowOf (meterOf n)
    let h := (s.windowContext n w).applyPending
    exec (.windowExpiry (meterOf n)) s = .next
      (((s.settledBy n due w.count h).endWindow n).nextWindow (meterOf n) (due + 250000)) := by
  intro w h
  have expires := exec_windowExpiry_delivery n due s timer attached (by rw [settling]; nofun)
  have window := (s.noted n due).deliveryWindow_settling n w settling
  have pending : ((s.noted n due).setHose n ((s.noted n due).windowContext n w)).applyPending n = s.taken n due h :=
    State.applyPending_set n (s.windowContext n w) _ s.hoses rfl
  have settled : (s.taken n due h).settleWindow n w.count = s.settledBy n due w.count h := by
    rw [State.settleWindow_eq, s.taken_hose, s.taken_setHose]
    rfl
  rw [expires, window, pending, settled]

theorem State.nextWindow_set (m : MeterId) (due : Nat) (c : Meter) (meters : Vector Meter 5) (v : State)
    (e : v.meters = meters.set m c) :
    v.nextWindow m due = { v with
      meters := meters.set m { c with count := 0, sat := false, phaseErr := 0, due := some due } } := by
  have own : v.meters[m] = c := by rw [e]; exact Vector.getElem_set_self _
  unfold State.nextWindow State.setMeter
  rw [own, e, Vector.set_set]

/-- A channel whose window has ended at a due time, with the rate of that window and the next one started. -/
def Meter.nextFrom (rate due : Nat) (c : Meter) : Meter :=
  { c with lastRate := rate, count := 0, sat := false, phaseErr := 0, due := some due }

/-- The end of a window of a delivery that goes on. -/
theorem State.taken_expires (s : State) (n : HoseId) (due : Nat) (h : Hose) (delivering : h.state.delivering = true) :
    ((s.taken n due h).endWindow n).nextWindow (meterOf n) (due + 250000) =
      { s with
        now := max s.now due
        hoses := s.hoses.set n (h.windowEnded n (s.hoseComp n))
        meters := s.meters.set (meterOf n)
          (s.meters[meterOf n].nextFrom (s.windowOf (meterOf n)).rate (due + 250000)) } := by
  rw [State.endWindow_eq n _ (by rw [s.taken_hose]; exact delivering), s.taken_hose,
    State.nextWindow_set (meterOf n) (due + 250000) { s.meters[meterOf n] with
      lastRate := (s.windowOf (meterOf n)).rate } s.meters _ rfl]
  exact congrArg (fun hoses : Vector Hose 4 => { s with
    now := max s.now due, hoses
    meters := s.meters.set (meterOf n)
      (s.meters[meterOf n].nextFrom (s.windowOf (meterOf n)).rate (due + 250000)) }) (Vector.set_set ..)

/-- A context with its pending preset applied, after the arithmetic of a window, is the one before as to settling. -/
theorem State.windowContext_settling (s : State) (n : HoseId) (w : Window) :
    let h := (s.windowContext n w).applyPending
    h.state = s.hoses[n].state ∧ h.settleFresh = s.hoses[n].settleFresh ∧
    h.settleCount = s.hoses[n].settleCount ∧ h.quietRun = s.hoses[n].quietRun := by
  rw [Hose.applyPending_eq]
  exact ⟨rfl, rfl, rfl, rfl⟩

/-- The end of a window that counted as a settling one. -/
theorem Hose.quieted_windowEnded (n : HoseId) (k : CompId) (c : Int) (h : Hose) (fresh : h.settleFresh = false) :
    (h.quieted c).windowEnded n k = { h with
      settleCount := (h.quieted c).settleCount, quietRun := (h.quieted c).quietRun
      journal := some (h.toJournal n k) } := by
  cases h
  cases fresh
  rfl

/-- The context of a hose at rest is not rewritten at the end of the window. -/
theorem State.endWindow_rest (n : HoseId) (s : State) (h : s.hoses[n].state.delivering = false) :
    s.endWindow n = s := if_neg (ne_true_of_eq_false h)

/-- The close of a delivery at the end of a window, with the next window started. -/
theorem State.closed_expires (s : State) (n : HoseId) (due : Nat) (h : Hose) :
    let t := (((s.taken n due h).closeDelivery n).endWindow n).nextWindow (meterOf n) (due + 250000)
    let r := s.deliveryRecord (h.delivery n (s.hoseComp n))
    t.hoses = s.hoses.set n (Hose.bare (s.restState n) none) ∧
    t.meters = s.meters.set (meterOf n) { s.meters[meterOf n].nextFrom (s.windowOf (meterOf n)).rate (due + 250000) with
      attach := .stray } ∧
    t.log = (s.append r (some (holderOf n))).log ∧
    t.table = (s.credit h.identity.ring r.net).table ∧
    SameStock t ((((State.askListed h.identity.ring { s with now := max s.now due, free := s.free + 1 }).rebooked
      (s.hoseComp n) (s.stock.books[s.hoseComp n].value - r.net))).post .deliveryClosed (.hose n) s.log.seq.toNat) ∧
    t = { s with
      now := max s.now due, hoses := t.hoses, meters := t.meters, log := t.log, table := t.table, stock := t.stock
      link := t.link, port := t.port, free := t.free } := by
  intro t r
  obtain ⟨hoses, meters, log, table, stocks, frame⟩ := (s.taken n due h).closeDelivery_closes n
  have own := s.taken_hose n due h
  have record : (s.taken n due h).closing n = r := by
    unfold State.closing
    rw [own]
    rfl
  rw [record] at log
  rw [record, own] at table stocks
  have asked : SameStock (State.askListed h.identity.ring { s.taken n due h with free := s.free + 1 })
      (State.askListed h.identity.ring { s with now := max s.now due, free := s.free + 1 }) :=
    SameStock.askListed (u := { s.taken n due h with free := s.free + 1 })
      (v := { s with now := max s.now due, free := s.free + 1 }) ⟨⟨rfl, rfl, rfl, rfl⟩, rfl, rfl⟩ _ rfl
  have stocks := stocks.trans ((asked.rebooked (s.hoseComp n)
    (s.stock.books[s.hoseComp n].value - r.net)).post .deliveryClosed (.hose n) s.log.seq.toNat)
  have table := table.trans (State.credit_table_of h.identity.ring r.net s (s.taken n due h) rfl rfl)
  have hoses : ((s.taken n due h).closeDelivery n).hoses = s.hoses.set n (Hose.bare (s.restState n) none) :=
    hoses.trans (Vector.set_set ..)
  have meters : ((s.taken n due h).closeDelivery n).meters = s.meters.set (meterOf n) { s.meters[meterOf n] with
      lastRate := (s.windowOf (meterOf n)).rate, attach := .stray } := by
    have noted : (s.taken n due h).meters[meterOf n] = { s.meters[meterOf n] with
        lastRate := (s.windowOf (meterOf n)).rate } := Vector.getElem_set_self _
    rw [meters, noted]
    exact Vector.set_set ..
  have frame : (s.taken n due h).closeDelivery n = { s with
      now := max s.now due, hoses := ((s.taken n due h).closeDelivery n).hoses
      meters := ((s.taken n due h).closeDelivery n).meters, log := ((s.taken n due h).closeDelivery n).log
      table := ((s.taken n due h).closeDelivery n).table, stock := ((s.taken n due h).closeDelivery n).stock
      link := ((s.taken n due h).closeDelivery n).link, port := ((s.taken n due h).closeDelivery n).port
      free := ((s.taken n due h).closeDelivery n).free } := frame
  have log : ((s.taken n due h).closeDelivery n).log = (s.append r (some (holderOf n))).log := log
  generalize ht : t = t'
  unfold t at ht
  generalize (s.taken n due h).closeDelivery n = u at hoses meters log table stocks frame ht
  have rests : u.hoses[n].state.delivering = false := by
    rw [hoses, show (s.hoses.set n (Hose.bare (s.restState n) none))[n] = _ from Vector.getElem_set_self _]
    rcases s.restState_cases n with e | e <;> rw [e] <;> rfl
  rw [State.endWindow_rest n _ rests, State.nextWindow_set (meterOf n) (due + 250000) _ s.meters _ meters] at ht
  subst ht
  exact ⟨hoses, rfl, log, table, ⟨⟨stocks.link, stocks.port, stocks.now, stocks.config⟩, stocks.stock, stocks.free⟩,
    congrArg (fun v : State => { v with
      meters := s.meters.set (meterOf n) { s.meters[meterOf n].nextFrom (s.windowOf (meterOf n)).rate (due + 250000) with
        attach := .stray } }) frame⟩

/-! ## What the close can be read by (R31, R53, R117, R128, R175) -/

theorem State.askListed_keeps (ring : BitVec 24) (s : State) :
    (s.askListed ring).stock = s.stock ∧ (s.askListed ring).now = s.now ∧ (s.askListed ring).free = s.free := by
  unfold State.askListed
  split_ifs <;> simp

theorem State.rebooked_frame (k : CompId) (value : Int) (s : State) :
    (s.rebooked k value).now = s.now ∧ (s.rebooked k value).free = s.free := by
  simp [State.rebooked]

theorem State.post_keeps (kind : EventKind) (subject : EventSubject) (value : Int) (s : State) :
    (s.post kind subject value).stock = s.stock ∧ (s.post kind subject value).link = s.link ∧
      (s.post kind subject value).free = s.free := by
  simp

theorem State.askListed_grows (ring : BitVec 24) (s : State) : GrowsBy 1 s (s.askListed ring) := by
  unfold State.askListed
  split_ifs
  · exact s.ask_grows _
  · exact (GrowsBy.refl s).mono (by decide)

theorem State.askListed_mem (ring : BitVec 24) (s : State) (listed : (s.entryOfRing ring).isSome = true)
    (room : s.link.queue.length < Config.subjectRoom) : Subject.machine ring ∈ (s.askListed ring).link.queue := by
  unfold State.askListed
  rw [if_pos listed]
  exact s.ask_mem _ room

/-- The table after a credit: the entry of the ring has its tally raised, the others stay. -/
theorem State.credit_entryAt (ring : BitVec 24) (net : Int) (slot j : Nat) (e : Entry) (s t : State)
    (found : s.entryOfRing ring = some (slot, e)) (table : t.table = (s.credit ring net).table) :
    t.entryAt j = if j = slot then some (e.credited s.ownIndex net).withCrc else s.entryAt j := by
  rw [s.credit_some ring net slot e found, State.ask_table] at table
  have entry := s.entryAt_putEntry slot j (e.credited s.ownIndex net)
  unfold State.entryAt at entry ⊢
  rw [table]
  exact entry

/-- The events after a close end with its own, where its kind is not masked and the queue has room for what the close
can post. -/
theorem State.closed_posts (n : HoseId) (k : CompId) (ring : BitVec 24) (value seq : Int) (u : State)
    (shown : u.port.mask.getLsbD 3 = false) (room : u.port.events.length ≤ 27) :
    (((u.askListed ring).rebooked k value).post .deliveryClosed (.hose n) seq).port.events.getLast? =
      some { kind := .deliveryClosed, subject := .hose n, value := seq, postedAt := u.now / 1000000 } := by
  have grows := (u.askListed_grows ring).trans (State.rebooked_grows k value _)
  have now : ((u.askListed ring).rebooked k value).nowSec = u.now / 1000000 := by
    have now : ((u.askListed ring).rebooked k value).now = u.now :=
      (State.rebooked_frame _ _ _).1.trans (u.askListed_keeps ring).2.1
    unfold State.nowSec
    rw [now]
  have fits : ((u.askListed ring).rebooked k value).port.events.length < Config.eventRoom :=
    Nat.lt_of_le_of_lt (grows.events.trans (Nat.add_le_add_right room 4)) (by decide)
  rw [State.post_queued _ _ _ _ (by rw [grows.mask]; exact shown) fits, List.getLast?_concat, now]

/-- Settles O44: the window's work by `State.settledBy`, the close by `State.closed_expires`, and the figures and bytes of
the record by their own lemmas. -/
theorem settlingClosesWithRecord : Obligations.SettlingClosesWithRecord := by
  unfold Obligations.SettlingClosesWithRecord
  refine ⟨fun n due s timer attached settling fresh => ?_, fun n due s timer attached settling fresh => ?_,
    fun n s => ⟨s.windowOf_eq _, s.windowContext_eq n, Hose.applyPending_eq _⟩,
    fun d rate sur t rated low => d.record_figures rate sur t rated low,
    fun n i cause h s ident ended => s.deliveryRecord_eq n i cause h ident ended,
    fun seq day free r => r.bytes_eq seq day free,
    fun m v => ⟨beBytes_length m v, fun i => beBytes_digit m v i⟩, rfl⟩
  · intro c k w h quiet r
    obtain ⟨st, fresh', count, run⟩ := s.windowContext_settling n w
    have expires : exec (.windowExpiry (meterOf n)) s = .next
        (((s.settledBy n due w.count h).endWindow n).nextWindow (meterOf n) (due + 250000)) :=
      exec_windowExpiry_settling n due s timer attached settling
    have counted : (h.quieted w.count).quietRun = quiet ∧
        (h.quieted w.count).settleCount = s.hoses[n].settleCount + 1 := by
      constructor
      · show (if c.count = 0 then h.quietRun + 1 else 0) = _
        rw [run]
      · show h.settleCount + 1 = _
        rw [count]
    have going : s.settledBy n due w.count h =
        if s.settleQuiet ≤ quiet ∨ s.settleMax ≤ s.hoses[n].settleCount + 1 then
          (s.taken n due (h.quieted w.count)).closeDelivery n
        else s.taken n due (h.quieted w.count) := by
      unfold State.settledBy
      rw [counted.1, counted.2, fresh', fresh]
      rfl
    by_cases last : s.settleQuiet ≤ quiet ∨ s.settleMax ≤ s.hoses[n].settleCount + 1
    · rw [if_pos last] at going
      obtain ⟨hoses, meters, log, table, stocks, frame⟩ := s.closed_expires n due (h.quieted w.count)
      rw [← going] at hoses meters log table stocks frame
      change (_ : State).log = (s.append r (some (holderOf n))).log at log
      change (_ : State).table = (s.credit h.identity.ring r.net).table at table
      generalize ((s.settledBy n due w.count h).endWindow n).nextWindow (meterOf n) (due + 250000) = t
        at expires hoses meters log table stocks frame
      have now : t.now = max s.now due := by rw [frame]
      have pumps : t.pumps = s.pumps := by rw [frame]
      have own : t.meters[meterOf n] = { c.nextFrom w.rate (due + 250000) with attach := .stray } := by
        rw [meters]
        exact Vector.getElem_set_self _
      have rest : t.hoses[n] = Hose.bare (s.restState n) none := by
        rw [hoses]
        exact Vector.getElem_set_self _
      let u : State := { s with now := max s.now due, free := s.free + 1 }
      let v := (u.askListed h.identity.ring).rebooked k (s.stock.books[k].value - r.net)
      obtain ⟨stock, -, free⟩ := u.askListed_keeps h.identity.ring
      have stocks : SameStock t (v.post .deliveryClosed (.hose n) s.log.seq.toNat) := stocks
      obtain ⟨postStock, postLink, postFree⟩ := v.post_keeps .deliveryClosed (.hose n) s.log.seq.toNat
      have books : t.stock = v.stock := stocks.stock.trans postStock
      have link : t.link = v.link := stocks.link.trans postLink
      have spare : t.free = s.free + 1 := (stocks.free.trans postFree).trans ((State.rebooked_frame _ _ _).2.trans free)
      refine ⟨t, expires, now, by rw [own]; rfl, by rw [own]; rfl, by rw [own]; rfl, fun m ne => ?_, pumps,
        fun few short => ?_, fun _ => ⟨rest, by rw [own], ?_, fun i ne => ?_, by rw [log]; rfl,
          fun slot e found => ⟨?_, fun j ne => ?_, fun room => ?_⟩, fun none' => ?_, ?_, fun shown room => ?_,
          ⟨books, link, spare, stocks.port⟩⟩, fun m ne => ?_, ?_⟩
      · rw [hoses, getElem_set_fin, if_neg ne]
      · exact absurd last (by omega)
      · rw [log]
        exact (s.append_log r (some (holderOf n))).1
      · rw [log]
        exact (s.append_log r (some (holderOf n))).2.1 i ne
      · exact (s.credit_entryAt _ _ slot slot e t found table).trans (if_pos rfl)
      · exact (s.credit_entryAt _ _ slot j e t found table).trans (if_neg ne)
      · rw [link]
        have listed : (u.entryOfRing h.identity.ring).isSome = true :=
          Option.isSome_iff_exists.mpr ⟨_, found⟩
        exact (State.rebooked_grows _ _ _).kept _ (u.askListed_mem _ listed room)
      · exact table.trans (by rw [s.credit_none _ _ none'])
      · rw [books, State.rebooked_books, stock]
      · rw [stocks.port, u.closed_posts n k _ _ _ shown room, now]
      · rw [meters, getElem_set_fin, if_neg ne]
      · rw [now]
        exact frame
    · have delivering : (h.quieted w.count).state.delivering = true := by
        rw [show (h.quieted w.count).state = s.hoses[n].state from st, settling]
        rfl
      rw [going, if_neg last, s.taken_expires n due _ delivering] at expires
      have own : (s.meters.set (meterOf n) (c.nextFrom w.rate (due + 250000)))[meterOf n] =
          c.nextFrom w.rate (due + 250000) := Vector.getElem_set_self _
      refine ⟨_, expires, rfl, congrArg Meter.lastRate own, congrArg Meter.count own, congrArg Meter.due own,
        fun m ne => (getElem_set_fin ..).trans (if_neg ne), rfl,
        fun _ _ => ⟨?_, (congrArg Meter.attach own).trans attached, rfl, rfl, rfl, rfl, rfl⟩,
        fun ends => absurd ends last, fun m ne => (getElem_set_fin ..).trans (if_neg ne), rfl⟩
      refine (Vector.getElem_set_self _).trans ?_
      rw [Hose.quieted_windowEnded n (s.hoseComp n) w.count h (fresh'.trans fresh), counted.1, counted.2]
  · intro w h
    obtain ⟨st, fresh', count, run⟩ := s.windowContext_settling n w
    have expires : exec (.windowExpiry (meterOf n)) s = .next
        (((s.settledBy n due w.count h).endWindow n).nextWindow (meterOf n) (due + 250000)) :=
      exec_windowExpiry_settling n due s timer attached settling
    have going : s.settledBy n due w.count h = s.taken n due h := if_pos (fresh'.trans fresh)
    rw [going, s.taken_expires n due h (by rw [st, settling]; rfl)] at expires
    rw [expires, ← count, ← run]
    rfl

end Sys2Proof.Machine
end

section
/-! The evaluation of a FLOWING hose by its profile: the hard stop, the step test and the stage handed over (04, R64,
R66 to R70; 05, R82, R83). -/

namespace Sys2Proof.Machine

/-! ## The window counted (R67) -/

theorem Condition.stallAfter_stall (rate stall n r : Nat) :
    (Condition.stall n r).stallAfter rate stall = if rate < r then min 255 (stall + 1) else 0 := by
  rw [← hold_eq]
  rfl

/-! ## The stage handed over (R70, R82, R83) -/

/-- A pump asked for a grant, or given one back, by a hose that hands over the stage of its step. -/
def Pump.handed (st : StepState) (maxFull : Nat) (n : HoseId) (p : Pump) : Pump :=
  if st.handed ≠ .full ∧ st.stage = .full then p.request maxFull n
  else if st.handed = .full ∧ st.stage ≠ .full then p.giveUp n
  else p

/-- What a stage handed over leaves, from `s` to `t`. -/
structure HandsOver (n : HoseId) (st : StepState) (s t : State) : Prop where
  hoses : t.hoses = s.hoses.set n { s.hoses[n] with step := some { st with handed := st.stage } }
  pumps : t.pumps = s.pumps.set (s.hoseComp n)
    { Pump.handed st (s.maxFull (s.hoseComp n)) n (s.pumpOf n) with demand := t.selectedDemand (s.hoseComp n) }
  frame : t = { s with hoses := t.hoses, pumps := t.pumps }

theorem State.handOver_handsOver (n : HoseId) (st : StepState) (s : State) : HandsOver n st s (s.handOver n st) := by
  let v := s.setHose n { s.hoses[n] with step := some { st with handed := st.stage } }
  have shape : s.handOver n st = State.reselect (s.hoseComp n)
      { v with
        pumps := s.pumps.set (s.hoseComp n) ((s.pumpOf n).handed st (s.maxFull (s.hoseComp n)) n) } := by
    unfold State.handOver Pump.handed
    dsimp only
    split_ifs
    · rfl
    · rfl
    · exact congrArg (State.reselect (s.hoseComp n)) (v.setPump_self (s.hoseComp n)).symm
  rw [shape]
  exact ⟨rfl, State.reselect_pumps _ _ _ _ rfl, rfl⟩

/-! ## The hard stop and the step test (R68, R69) -/

theorem State.evaluateHose_tests (n : HoseId) (rate : Nat) (st : StepState) (v : State)
    (step : (v.applyPending n).hoses[n].step = some st) (left : 0 < (v.applyPending n).hoses[n].remaining) :
    v.evaluateHose n rate =
      (v.applyPending n).stepTest n (st.counted ((v.applyPending n).profileOf n) rate) := by
  unfold State.evaluateHose
  dsimp only
  rw [step]
  exact if_neg (not_le.mpr left)

/-- Where the step tests end, and what follows. -/
theorem State.stepTest_eq (n : HoseId) (st : StepState) (v : State) {e : ChainEnd}
    (h : chain (v.profileOf n) v.hoses[n].accum.delivered v.hoses[n].remaining maxTransitions st = e) :
    (e = .ended → v.stepTest n st = v.enterSettling n .profileEnd) ∧
    (e = .looped → v.stepTest n st = v.enterSettling n .profileLoop) ∧
    (∀ x, e = .stays x → v.stepTest n st = v.handOver n x) := by
  unfold State.stepTest
  dsimp only
  rw [h]
  exact ⟨fun e => by rw [e], fun e => by rw [e], fun x e => by rw [e]⟩

/-- Settles O39: the evaluation by where its chain ends, the pump's answers by `Pump.request_eq` and `Pump.giveUp_eq`,
and the chain by whether the condition of the step in force is met. -/
theorem evaluationFollowsProfile : Obligations.EvaluationFollowsProfile := by
  refine ⟨fun n rate st s step => ?_, fun maxFull n p => ?_, fun p delivered remaining st fuel => ?_,
    fun p i x e => ?_⟩
  · intro h u k p delivered remaining counted
    have applied : s.applyPending n = u :=
      congrArg (fun c => s.setHose n c) s.hoses[n].applyPending_eq
    have own : u.hoses[n] = h := Vector.getElem_set_self _
    have stepped : (s.applyPending n).hoses[n].step = some st := by rw [applied, own]; exact step
    have left : (s.applyPending n).hoses[n].remaining = remaining := by rw [applied, own]; rfl
    have tally : st.counted p rate = counted := by
      unfold StepState.counted
      rw [hold_eq]
      congr 1
      cases condOf p st.index with
      | stall m r => exact Condition.stallAfter_stall rate st.stall m r
      | deliveredAtLeast | remainingAtMost | elapsed | never => rfl
    refine ⟨fun spent => ?_, fun more => ?_⟩
    · rw [← applied]
      exact s.evaluateHose_ends n rate (Option.isSome_iff_exists.mpr ⟨st, stepped⟩) (left.trans_le spent)
    · have tests := s.evaluateHose_tests n rate st stepped (left.symm ▸ more)
      rw [applied] at tests
      have tests : s.evaluateHose n rate = u.stepTest n counted := tests.trans (congrArg (u.stepTest n) tally)
      have run : chain (u.profileOf n) u.hoses[n].accum.delivered u.hoses[n].remaining maxTransitions counted =
          chain p delivered remaining 8 counted := by rw [own]; rfl
      obtain ⟨ended, looped, stays⟩ := u.stepTest_eq n counted run
      rw [tests]
      cases chainEnd : chain p delivered remaining 8 counted with
      | ended => exact ended chainEnd
      | looped => exact looped chainEnd
      | stays x =>
        obtain ⟨hoses, pumps, frame⟩ := u.handOver_handsOver n x
        refine ⟨u.handOver n x, stays x chainEnd, frame, ?_, pumps⟩
        rw [hoses, own]
        exact Vector.set_set ..
  · intro held
    have count : p.grantCount = held := p.grantCount_eq
    obtain ⟨granted, waits⟩ := Pump.request_eq maxFull n p
    obtain ⟨alone, passed, placed⟩ := Pump.giveUp_eq n p
    rw [count] at granted waits
    exact ⟨granted, waits, placed, alone, passed⟩
  · intro met
    have met_iff : met ↔ (condOf p st.index).met delivered remaining st = true := by
      unfold met
      cases condOf p st.index with
      | never => exact Bool.false_eq_true.to_iff.symm
      | deliveredAtLeast | remainingAtMost | elapsed | stall => exact decide_eq_true_iff.symm
    rw [met_iff]
    refine ⟨fun unmet => chain_stays p delivered remaining fuel st (eq_false_of_ne_true unmet), fun h => ?_,
      fun h => ?_, fun i h => ?_⟩
    all_goals obtain ⟨looped, ended, enters⟩ := chain_next p delivered remaining fuel st h
    · exact looped
    · exact ended
    · exact enters i
  · unfold condOf stageOf nextOf
    rw [e]
    exact ⟨rfl, rfl, rfl⟩

end Sys2Proof.Machine
end

section
/-! The steps of a LOAD_PROFILE frame, and the profile replaced by a load or by its continuation (04, R62; 12, R171,
R174). -/

namespace Sys2Proof.Machine

/-! ## The fields of a step (R62, R174) -/

theorem stageOfCode_eq_some (c : Nat) (x : Stage) : stageOfCode c = some x ↔ c = x.code := by
  match c with
  | 0 | 1 | 2 | other + 3 => cases x <;> simp [stageOfCode, Stage.code]

theorem nextOfCode_eq_end (c : Nat) : nextOfCode c = some none ↔ c = 255 := by
  unfold nextOfCode
  split_ifs with isEnd <;> simp [isEnd]

theorem nextOfCode_eq_step (c i : Nat) : nextOfCode c = some (some i) ↔ c = i ∧ i ≤ 7 := by
  unfold nextOfCode
  split_ifs <;> simp <;> omega

/-- The kind and the parameters of each condition. -/
theorem conditionOf_eq_some (kind param : Nat) :
    (∀ v, conditionOf kind param = some (.deliveredAtLeast v) ↔ kind = 0 ∧ param = v ∧ v ≤ 30000000) ∧
    (∀ v, conditionOf kind param = some (.remainingAtMost v) ↔ kind = 1 ∧ param = v ∧ v ≤ 30000000) ∧
    (∀ n, conditionOf kind param = some (.elapsed n) ↔ kind = 2 ∧ param / 65536 = n ∧ 1 ≤ n) ∧
    (∀ n r, conditionOf kind param = some (.stall n r) ↔
      kind = 3 ∧ param / 65536 = n ∧ param % 65536 = r ∧ 1 ≤ n ∧ n ≤ 255) ∧
    (conditionOf kind param = some .never ↔ kind = 4) := by
  match kind with
  | 0 => grind [conditionOf, maxStepVolume]
  | 1 => grind [conditionOf, maxStepVolume]
  | 2 => grind [conditionOf]
  | 3 => grind [conditionOf]
  | 4 => simp [conditionOf]
  | other + 5 => simp [conditionOf]

/-- The bits of a step's first byte that no field uses are 0. -/
theorem unusedBits_eq_zero (b : Byte) : b &&& 0x8C = 0 ↔ b.toNat / 4 % 4 = 0 ∧ b.toNat < 128 := by
  have bits : b &&& 0x8C = 0 ↔ b.getLsbD 2 = false ∧ b.getLsbD 3 = false ∧ b.getLsbD 7 = false := by
    constructor
    · intro h
      have bit (i : Nat) : (b &&& 0x8C).getLsbD i = false := by rw [h]; simp
      exact ⟨by simpa using bit 2, by simpa using bit 3, by simpa using bit 7⟩
    · rintro ⟨two, three, seven⟩
      apply BitVec.eq_of_getLsbD_eq
      intro i small
      interval_cases i <;> simp_all
  rw [bits]
  simp only [BitVec.getLsbD, Nat.testBit_eq_decide_div_mod_eq, decide_eq_false_iff_not]
  omega

/-- A step of a frame, field by field. -/
theorem stepOf_eq_some (r : RawStep) (x : ProfileStep) :
    stepOf r = some x ↔
      r.head &&& 0x8C = 0 ∧ stageOfCode (r.head.toNat % 4) = some x.stage ∧
      nextOfCode r.next.toNat = some x.next ∧
      conditionOf (r.head.toNat / 16 % 8) r.param.toNat = some x.cond := by
  rw [unusedBits_eq_zero]
  unfold stepOf
  dsimp only
  split_ifs with unused
  · split
    case h_1 stage cond next isStage isCond isNext =>
      rw [isStage, isCond, isNext]
      cases x
      simp [unused, and_comm]
    case h_2 unread =>
      exact ⟨nofun, fun ⟨_, isStage, isNext, isCond⟩ => (unread _ _ _ isStage isCond isNext).elim⟩
  · exact ⟨nofun, fun ⟨used, _⟩ => absurd used unused⟩

/-! ## The steps of a frame (R174) -/

/-- A list mapped by a partial function, where every element has a value. -/
theorem mapM_option_eq_some {α β : Type} (f : α → Option β) (xs : List α) (ys : List β) :
    xs.mapM f = some ys ↔ xs.map f = ys.map some := by
  induction xs generalizing ys with
  | nil => cases ys <;> simp
  | cons x xs ih => cases ys <;> simp [List.mapM_cons, Option.bind_eq_some_iff, ih]

/-- The first steps of a frame, each in its place. -/
theorem stepsOf_eq_some (n : Nat) (steps : Vector RawStep 4) (l : List ProfileStep) (few : n ≤ 4) :
    stepsOf n steps = some l ↔ l.length = n ∧ ∀ i : Fin 4, i.val < n → stepOf steps[i] = l[i.val]? := by
  unfold stepsOf
  rw [mapM_option_eq_some, List.ext_getElem_iff]
  have long : ((steps.toList.take n).map stepOf).length = n := by simpa using few
  refine ⟨fun ⟨same, each⟩ => ?_, fun ⟨same, each⟩ => ?_⟩
  · rw [long, List.length_map] at same
    refine ⟨same.symm, fun i lt => ?_⟩
    have step := each i.val (by omega) (by simpa [← same] using lt)
    simpa [← same, lt] using step
  · refine ⟨by rw [long, List.length_map, same], fun i lt _ => ?_⟩
    rw [long] at lt
    have step := each ⟨i, by omega⟩ lt
    simpa [same, lt] using step

/-! ## The bodies (R62, R171, R174) -/

theorem State.putProfile_eq (p : Fin 8) (l : List ProfileStep) (s : State) :
    s.putProfile p.val l = { s with profiles := s.profiles.set p l } := dif_pos p.isLt

section
variable {profile count flag : Byte} {steps : Vector RawStep 4} {s : State} (off : s.isSealed = false)
include off

theorem loadProfileBody_refuses
    (h : 7 < profile.toNat ∨ 8 < count.toNat ∨ flag ≠ 0 ∨ stepsOf (min count.toNat 4) steps = none) :
    loadProfileBody profile count flag steps s = (s, Reply.refuse .badParam) := by
  rw [loadProfileBody, beforeSeal_unsealed _ s off]
  by_cases bad : 7 < profile.toNat ∨ 8 < count.toNat ∨ flag ≠ 0
  · exact if_pos bad
  · rw [if_neg bad]
    rcases h with h | h | h | h
    · exact absurd (.inl h) bad
    · exact absurd (.inr (.inl h)) bad
    · exact absurd (.inr (.inr h)) bad
    · rw [h]

theorem loadProfileBody_takes {l : List ProfileStep} (named : profile.toNat < 8) (few : count.toNat ≤ 8)
    (read : stepsOf (min count.toNat 4) steps = some l) :
    loadProfileBody profile count 0 steps s =
      if count.toNat ≤ 4 then (s.putProfile profile.toNat l, Reply.ok [])
      else ({ s with staged := some { profile := profile.toNat, count := count.toNat, steps := l } }, Reply.ok []) := by
  have good : ¬ (7 < profile.toNat ∨ 8 < count.toNat ∨ (0 : Byte) ≠ 0) := by simp; omega
  rw [loadProfileBody, beforeSeal_unsealed _ s off, if_neg good, read]

theorem continueLoad_refuses
    (h : 7 < profile.toNat ∨ 8 < count.toNat ∨ s.staged = none ∨
      ∃ x, s.staged = some x ∧ (x.profile ≠ profile.toNat ∨ stepsOf (x.count - 4) steps = none)) :
    continueLoad profile count steps s = (s, Reply.refuse .badParam) := by
  rw [continueLoad, beforeSeal_unsealed _ s off]
  by_cases bad : 7 < profile.toNat ∨ 8 < count.toNat
  · exact if_pos bad
  · rw [if_neg bad]
    rcases h with h | h | none' | ⟨x, staged, other | unread⟩
    · exact absurd (.inl h) bad
    · exact absurd (.inr h) bad
    · rw [none']
    · simp only [staged, if_neg other]
    · simp only [staged, unread, ite_self]

theorem continueLoad_replaces {x : StagedLoad} {l : List ProfileStep} (named : profile.toNat < 8)
    (few : count.toNat ≤ 8) (staged : s.staged = some x) (own : x.profile = profile.toNat)
    (read : stepsOf (x.count - 4) steps = some l) :
    continueLoad profile count steps s =
      (State.putProfile x.profile (x.steps ++ l) { s with staged := none }, Reply.ok []) := by
  have good : ¬ (7 < profile.toNat ∨ 8 < count.toNat) := by omega
  rw [continueLoad, beforeSeal_unsealed _ s off, if_neg good]
  simp only [staged, if_pos own, read]

end

/-! ## The exchange (R169, R171) -/

theorem exec_loadProfile_ok {tag profile count flag : Byte} {steps : Vector RawStep 4} {s t : State}
    (h : loadProfileBody profile count flag steps s.beginExchange = (t, Reply.ok [])) :
    exec (.loadProfile tag profile count flag steps) s = .next (t.holding (replyBytes 0x02 tag 0 [])) :=
  State.command_ok 0x02 tag (loadProfileBody profile count flag steps) [] t s h

theorem exec_loadProfileContinuation_ok {tag profile count : Byte} {steps : Vector RawStep 4} {s t : State}
    (h : continueLoad profile count steps { s.beginExchange with staged := s.staged } = (t, Reply.ok [])) :
    exec (.loadProfileContinuation tag profile count steps) s = .next (t.holding (replyBytes 0x02 tag 0 [])) :=
  State.command_ok 0x02 tag (continuationBody s.staged profile count steps) [] t s h

/-- Settles O18: each load by its body, the continuation on the load staged before the exchange, and the steps of a
frame by `stepsOf_eq_some` and `stepOf_eq_some`. -/
theorem loadProfileReplacesOrStages : Obligations.LoadProfileReplacesOrStages := by
  intro tag profile count steps s off
  have refuses (flag : Byte)
      (h : 7 < profile.toNat ∨ 8 < count.toNat ∨ flag ≠ 0 ∨ stepsOf (min count.toNat 4) steps = none) :
      exec (.loadProfile tag profile count flag steps) s = .next (s.refusing 0x02 tag .badParam) :=
    State.command_refuse _ _ _ _ _ (loadProfileBody_refuses (s := s.beginExchange) off h)
  refine ⟨fun l p named few read => ?_, fun l named many few read => ?_, fun x l p named few staged own read => ?_,
    fun h => refuses 0 ?_, fun flag set => refuses flag (.inr (.inr (.inl set))), fun h => ?_,
    fun n l few => stepsOf_eq_some n steps l few, fun r x => ?_⟩
  · refine exec_loadProfile_ok ?_
    rw [loadProfileBody_takes (s := s.beginExchange) off (by omega) (by omega) (by rwa [min_eq_left few]), if_pos few,
      named, State.putProfile_eq]
    rfl
  · refine exec_loadProfile_ok ?_
    rw [loadProfileBody_takes (s := s.beginExchange) off named few (by rwa [min_eq_right many.le]),
      if_neg (not_le.mpr many)]
  · refine exec_loadProfileContinuation_ok ?_
    rw [continueLoad_replaces (s := { s.beginExchange with staged := s.staged }) off (by omega) few
      staged (own.trans named.symm) read, own, State.putProfile_eq]
    rfl
  · rcases h with h | h | h
    · exact .inl h
    · exact .inr (.inl h)
    · exact .inr (.inr (.inr h))
  · show s.command 0x02 tag (continuationBody s.staged profile count steps) = _
    rw [State.command_eq, continuationBody,
      continueLoad_refuses (s := { s.beginExchange with staged := s.staged }) off h]
    rfl
  · intro kind v high low
    have kindCode : r.head.toNat / 16 % 8 = kind := by simp [kind, Nat.shiftRight_eq_div_pow]
    have highHalf : v / 65536 = high := by simp [high, v, Nat.shiftRight_eq_div_pow]; omega
    have lowHalf : v % 65536 = low := by simp [low, v]
    have stageCode : r.head.toNat % 4 = (r.head.extractLsb' 0 2).toNat := by simp
    obtain ⟨delivered, remaining, elapsed, stall, never⟩ := conditionOf_eq_some kind v
    rw [stepOf_eq_some, stageOfCode_eq_some, stageCode, kindCode]
    refine and_congr_right fun _ => and_congr_right fun _ => and_congr ?_ ?_
    · cases x.next with
      | none =>
        rw [nextOfCode_eq_end]
        exact ⟨fun h => BitVec.eq_of_toNat_eq h, fun h => by rw [h]; rfl⟩
      | some i => exact nextOfCode_eq_step _ i
    · simp only [highHalf, lowHalf] at elapsed stall
      cases x.cond with
      | deliveredAtLeast w => exact delivered w
      | remainingAtMost w => exact remaining w
      | elapsed n => exact elapsed n
      | stall n q => exact stall n q
      | never => exact never

end Sys2Proof.Machine
end

section
/-! The grants and the wait queue of a pump: what a request and a giving up leave, and the grants within their limit
(05, R82, R83). -/

namespace Sys2Proof.Machine

/-! ## The grants counted (R82) -/

theorem countP_toList_set_true (v : Vector Bool 4) (n : HoseId) (free : v[n] = false) :
    (v.set n true).toList.countP id = v.toList.countP id + 1 := by
  have free : v.toList[n.val]'(by simp) = false := by simpa using free
  simp [Vector.toList_set, List.countP_set, free]

theorem countP_toList_set_false (v : Vector Bool 4) (n : HoseId) (held : v[n] = true) :
    (v.set n false).toList.countP id + 1 = v.toList.countP id := by
  have back : (v.set n false).set n true = v := by
    rw [Vector.set_set, ← held]
    exact Vector.set_getElem_self _
  rw [← countP_toList_set_true _ n (Vector.getElem_set_self _), back]

/-! ## Grants and queue in order (R82) -/

/-- A hose holds a grant of the pump or waits for one. -/
def Pump.Serves (p : Pump) (n : HoseId) : Prop := p.grants[n] = true ∨ n ∈ p.queue

/-- Grants within their limit, and a queue without repeats of hoses that hold none (R82). -/
structure Pump.Fair (maxFull : Nat) (p : Pump) : Prop where
  limit : p.grantCount ≤ maxFull
  once : p.queue.Nodup
  apart : ∀ n : HoseId, n ∈ p.queue → p.grants[n] = false

/-- A pump without grants and queue. -/
structure Pump.Unasked (p : Pump) : Prop where
  grants : p.grants = Vector.replicate 4 false
  queue : p.queue = []

theorem Pump.halted_unasked (st : PumpState) (p : Pump) : (p.halted st).Unasked := ⟨rfl, rfl⟩

theorem Pump.Unasked.serves {p : Pump} (h : p.Unasked) (n : HoseId) : ¬ p.Serves n := by
  simp [Pump.Serves, h.grants, h.queue]

theorem Pump.Unasked.fair {p : Pump} (h : p.Unasked) (maxFull : Nat) : p.Fair maxFull := by
  refine ⟨?_, by simp [h.queue], by simp [h.queue]⟩
  have none' : p.grantCount = 0 := by
    unfold Pump.grantCount
    rw [h.grants]
    rfl
  omega

/-- A pump's order is that of its grants and its queue. -/
theorem Pump.Fair.of_same {maxFull : Nat} {p q : Pump} (fair : p.Fair maxFull) (grants : q.grants = p.grants)
    (queue : q.queue = p.queue) : q.Fair maxFull := by
  obtain ⟨limit, once, apart⟩ := fair
  refine ⟨?_, by rw [queue]; exact once, fun n mem => ?_⟩
  · unfold Pump.grantCount at limit ⊢
    rw [grants]
    exact limit
  · rw [queue] at mem
    rw [grants]
    exact apart n mem

theorem Pump.serves_of_same {p q : Pump} (grants : q.grants = p.grants) (queue : q.queue = p.queue) (n : HoseId) :
    q.Serves n ↔ p.Serves n := by
  simp only [Pump.Serves, grants, queue]

/-! ## A request (R82) -/

/-- A hose that holds neither grant nor place joins the grants within the limit, or the queue's tail. -/
theorem Pump.Fair.request {maxFull : Nat} {p : Pump} (fair : p.Fair maxFull) (n : HoseId) (new : ¬ p.Serves n) :
    (p.request maxFull n).Fair maxFull := by
  obtain ⟨limit, once, apart⟩ := fair
  obtain ⟨unheld, absent⟩ := not_or.mp new
  obtain ⟨granted, waits⟩ := Pump.request_eq maxFull n p
  by_cases free : p.grantCount < maxFull ∧ p.queue = []
  · rw [granted free.1 free.2]
    refine ⟨?_, once, fun m mem => ?_⟩
    · have grown : ({ p with grants := p.grants.set n true } : Pump).grantCount = p.grantCount + 1 :=
        countP_toList_set_true p.grants n (by simpa using unheld)
      omega
    · exact absurd mem (by simp [free.2])
  · rw [waits (by
      rw [not_and_or, not_lt] at free
      exact free)]
    refine ⟨limit, List.nodup_append.mpr ⟨once, by simp, ?_⟩, fun m mem => ?_⟩
    · intro a mem b same e
      rw [List.mem_singleton.mp same] at e
      exact absent (e ▸ mem)
    · rcases List.mem_append.mp mem with mem | same
      · exact apart m mem
      · rw [List.mem_singleton.mp same]
        simpa using unheld

theorem Pump.request_serves (maxFull : Nat) (n m : HoseId) (p : Pump) :
    (p.request maxFull n).Serves m → p.Serves m ∨ m = n := by
  obtain ⟨granted, waits⟩ := Pump.request_eq maxFull n p
  unfold Pump.Serves
  by_cases free : p.grantCount < maxFull ∧ p.queue = []
  · rw [granted free.1 free.2, getElem_set_fin]
    by_cases e : m = n <;> simp [e]
  · rw [waits (by
      rw [not_and_or, not_lt] at free
      exact free)]
    simp only [List.mem_append, List.mem_singleton]
    tauto

/-! ## A giving up (R83) -/

/-- A giving up keeps the order: a grant goes to the head of the queue, who held none, or frees. -/
theorem Pump.Fair.giveUp {maxFull : Nat} {p : Pump} (fair : p.Fair maxFull) (n : HoseId) :
    (p.giveUp n).Fair maxFull := by
  obtain ⟨limit, once, apart⟩ := fair
  obtain ⟨alone, passed, placed⟩ := Pump.giveUp_eq n p
  cases held : p.grants[n] with
  | false =>
    rw [placed held]
    exact ⟨limit, once.filter _, fun m mem => apart m (List.mem_of_mem_filter mem)⟩
  | true =>
    have fewer := countP_toList_set_false p.grants n held
    cases waiting : p.queue with
    | nil =>
      rw [alone held waiting]
      refine ⟨?_, once, fun m mem => absurd mem (by simp [waiting])⟩
      show (p.grants.set n false).toList.countP id ≤ maxFull
      have limit : p.grants.toList.countP id ≤ maxFull := limit
      omega
    | cons m rest =>
      rw [passed m rest held waiting]
      rw [waiting] at once apart
      obtain ⟨notin, once⟩ := List.nodup_cons.mp once
      have free : (p.grants.set n false)[m] = false := by
        rw [getElem_set_fin]
        split_ifs
        · rfl
        · exact apart m List.mem_cons_self
      refine ⟨?_, once, fun a mem => ?_⟩
      · show ((p.grants.set n false).set m true).toList.countP id ≤ maxFull
        rw [countP_toList_set_true _ m free, fewer]
        exact limit
      · have ne : a ≠ m := fun e => notin (e ▸ mem)
        rw [getElem_set_fin, if_neg ne, getElem_set_fin]
        split_ifs
        · rfl
        · exact apart a (List.mem_cons_of_mem m mem)

/-- Whoever is served after a giving up was served before it, and is not the hose that gave up. -/
theorem Pump.Fair.giveUp_serves {maxFull : Nat} {p : Pump} (fair : p.Fair maxFull) (n m : HoseId)
    (h : (p.giveUp n).Serves m) : p.Serves m ∧ m ≠ n := by
  obtain ⟨unheld, absent⟩ := Pump.giveUp_gone n p (fair.apart n)
  refine ⟨?_, ?_⟩
  · obtain ⟨alone, passed, placed⟩ := Pump.giveUp_eq n p
    unfold Pump.Serves at h ⊢
    cases held : p.grants[n] with
    | false =>
      rw [placed held] at h
      exact h.imp_right List.mem_of_mem_filter
    | true =>
      cases waiting : p.queue with
      | nil =>
        rw [alone held waiting, getElem_set_fin, waiting] at h
        split_ifs at h with e
        · simp at h
        · exact h
      | cons a rest =>
        rw [passed a rest held waiting, getElem_set_fin, getElem_set_fin] at h
        split_ifs at h with e
        · exact Or.inr (e ▸ List.mem_cons_self)
        · exact Or.inr (List.mem_cons_of_mem a (h.resolve_left nofun))
        · exact h.imp_right (List.mem_cons_of_mem a)
  · rintro rfl
    exact h.elim (ne_true_of_eq_false unheld) absent

/-! ## A release (R78) -/

theorem State.runDown_cases (p : Pump) (s : State) :
    ((s.runDown p).grants = p.grants ∧ (s.runDown p).queue = p.queue) ∨ (s.runDown p).Unasked := by
  unfold State.runDown
  split_ifs
  · exact Or.inl ⟨rfl, rfl⟩
  · exact Or.inr (Pump.halted_unasked _ _)

/-- A released claim leaves the grants and the queue of a giving up, or none. -/
theorem State.released_grants (n : HoseId) (p : Pump) (s : State) :
    ((s.released n p).grants = (p.giveUp n).grants ∧ (s.released n p).queue = (p.giveUp n).queue) ∨
      (s.released n p).Unasked := by
  rcases s.released_cases n p with e | ⟨-, -, e⟩ <;> rw [e]
  · exact Or.inl ⟨rfl, rfl⟩
  · exact s.runDown_cases (p.without n)

theorem Pump.Fair.released {maxFull : Nat} {p : Pump} (fair : p.Fair maxFull) (n : HoseId) (s : State) :
    (s.released n p).Fair maxFull ∧ ∀ m : HoseId, (s.released n p).Serves m → p.Serves m ∧ m ≠ n := by
  rcases s.released_grants n p with ⟨grants, queue⟩ | none'
  · refine ⟨(fair.giveUp n).of_same grants queue, fun m h => ?_⟩
    exact fair.giveUp_serves n m ((Pump.serves_of_same grants queue m).mp h)
  · exact ⟨none'.fair maxFull, fun m h => absurd h (none'.serves m)⟩

theorem State.claimed_grants (n : HoseId) (p : Pump) (s : State) :
    (s.claimed n p).grants = p.grants ∧ (s.claimed n p).queue = p.queue := by
  unfold State.claimed
  dsimp only
  split <;> exact ⟨rfl, rfl⟩

end Sys2Proof.Machine
end

section
/-! What GrantInv reads of the part beside what FlowInv reads, and the moves of a hose, a reader, a channel or a pump
that keep GrantInv (03, R36, R54; 05, R75, R82, R83). -/

namespace Sys2Proof.Machine

/-! ## GrantInv by its pumps -/

theorem HoseInv.sealed {s : State} (inv : HoseInv s) (n : HoseId) (h : s.hoses[n].state ≠ .offline) :
    s.isSealed = true := by
  by_contra off
  exact h (inv.offline (by simpa using off) n)

theorem HoseInv.not_reading {s : State} (inv : HoseInv s) (n : HoseId) (h : s.hoses[n].state ≠ .reading) :
    s.readers[n].state ≠ .reading := fun r => h (inv.reading n r)

theorem HoseInv.not_attached {s : State} (inv : HoseInv s) (n : HoseId)
    (h : s.hoses[n].state.delivering = false) : s.meters[meterOf n].attach ≠ .delivery := fun a => by
  rw [inv.attached n a] at h
  cases h

/-- HoseInv depends on what FlowInv reads. -/
theorem HoseInv.of_flow {s t : State} (inv : HoseInv s) (h : t.flow = s.flow) : HoseInv t := by
  refine ⟨fun off n => ?_, fun n r => ?_, fun n a => ?_⟩ <;> rw [hoseState_of_flow h]
  · exact inv.offline ((isSealed_of_flow h).symm.trans off) n
  · exact inv.reading n ((readerState_of_flow h n).symm.trans r)
  · exact inv.attached n ((attach_of_flow h n).symm.trans a)

/-- A hose with FULL handed over is FLOWING. -/
theorem Hose.flowing_of_wantsFull {h : Hose} (wants : h.wantsFull = true) : h.state = .flowing := by
  unfold Hose.wantsFull at wants
  split at wants
  · assumption
  · cases wants

theorem Hose.not_wantsFull {h : Hose} (still : h.state ≠ .flowing) : h.wantsFull = false := by
  by_contra wants
  exact still (Hose.flowing_of_wantsFull (by simpa using wants))

/-- A FLOWING hose wants FULL where its step has handed it over. -/
theorem Hose.wantsFull_flowing {h : Hose} {st : StepState} (flowing : h.state = .flowing)
    (step : h.step = some st) : h.wantsFull = (st.handed == .full) := by
  simp only [Hose.wantsFull, flowing, step]

theorem GrantInv.fair {s : State} (inv : GrantInv s) (k : CompId) : s.pumps[k].Fair (s.maxFull k) :=
  ⟨inv.limit k, inv.once k, inv.apart k⟩

/-- Before the seal no hose has FULL handed over, so that no pump has a grant or a queue. -/
theorem GrantInv.of_pumps {s : State} (hoses : HoseInv s) (fair : ∀ k : CompId, s.pumps[k].Fair (s.maxFull k))
    (serves : ∀ (k : CompId) (n : HoseId), s.pumps[k].Serves n → s.hoseComp n = k ∧ s.hoses[n].wantsFull = true) :
    GrantInv s := by
  refine ⟨hoses, fun off k n => ?_, fun k => (fair k).limit, fun k => (fair k).once, fun k => (fair k).apart,
    serves⟩
  have none' (m : HoseId) : ¬ s.pumps[k].Serves m := fun h => by
    have flowing := Hose.flowing_of_wantsFull (serves k m h).2
    rw [hoses.offline off m] at flowing
    cases flowing
  exact ⟨by simpa using (not_or.mp (none' n)).1,
    List.eq_nil_iff_forall_not_mem.mpr fun m => (not_or.mp (none' m)).2⟩

theorem GrantInv.not_served {s : State} (inv : GrantInv s) (k : CompId) (n : HoseId)
    (still : s.hoses[n].wantsFull = false) : ¬ s.pumps[k].Serves n := fun h => by
  rw [(inv.holders k n h).2] at still
  cases still

/-! ## What GrantInv reads -/

/-- Who has FULL handed over, and the grants and the queue of each pump. -/
structure ServingView where
  wants : HoseId → Bool
  grants : CompId → Vector Bool 4
  queue : CompId → List HoseId

def State.serving (s : State) : ServingView :=
  { wants := fun n => s.hoses[n].wantsFull, grants := fun k => s.pumps[k].grants, queue := fun k => s.pumps[k].queue }

/-- GrantInv depends on what FlowInv reads and on these items. -/
theorem GrantInv.of_views {s t : State} (inv : GrantInv s) (flow : t.flow = s.flow) (serving : t.serving = s.serving) :
    GrantInv t := by
  have config : t.config = s.config := congrArg FlowView.config flow
  have wants (n : HoseId) : t.hoses[n].wantsFull = s.hoses[n].wantsFull := congrArg (fun v => v.wants n) serving
  have grants (k : CompId) : t.pumps[k].grants = s.pumps[k].grants := congrArg (fun v => v.grants k) serving
  have queue (k : CompId) : t.pumps[k].queue = s.pumps[k].queue := congrArg (fun v => v.queue k) serving
  have maxFull (k : CompId) : t.maxFull k = s.maxFull k := by
    simp only [State.maxFull, State.itemNat, State.item, config]
  refine .of_pumps (inv.hoses.of_flow flow) (fun k => ?_) (fun k n h => ?_)
  · rw [maxFull]
    exact (inv.fair k).of_same (grants k) (queue k)
  · rw [s.hoseComp_of_config n t config, wants]
    exact inv.holders k n ((Pump.serves_of_same (grants k) (queue k) n).mp h)

theorem State.serving_of_same {s t : State} (hoses : t.hoses = s.hoses) (pumps : t.pumps = s.pumps) :
    t.serving = s.serving := by
  unfold State.serving
  rw [hoses, pumps]

theorem State.setHose_serving (n : HoseId) (h : Hose) (s : State) (same : h.wantsFull = s.hoses[n].wantsFull) :
    (s.setHose n h).serving = s.serving := by
  have wants : (fun m : HoseId => (s.setHose n h).hoses[m].wantsFull) = fun m => s.hoses[m].wantsFull :=
    funext fun m => by
      rw [show (s.setHose n h).hoses[m] = _ from s.setHose_get n m h]
      split_ifs with e
      · rw [e]; exact same
      · rfl
  show ServingView.mk .. = ServingView.mk ..
  rw [wants]
  rfl

theorem State.setPump_serving (k : CompId) (p : Pump) (s : State) (grants : p.grants = s.pumps[k].grants)
    (queue : p.queue = s.pumps[k].queue) : (s.setPump k p).serving = s.serving := by
  have each {β : Type} (f : Pump → β) (same : f p = f s.pumps[k]) :
      (fun j : CompId => f (s.setPump k p).pumps[j]) = fun j => f s.pumps[j] :=
    funext fun j => by
      rw [show (s.setPump k p).pumps[j] = _ from s.setPump_get k j p]
      split_ifs with e
      · rw [e]; exact same
      · rfl
  show ServingView.mk .. = ServingView.mk ..
  rw [each Pump.grants grants, each Pump.queue queue]
  rfl

/-! ## Moves of a hose and its pump -/

/-- From `s` to `t` nothing that GrantInv speaks of has moved but hose `n`, its channel and its pump. -/
structure MovesHose (n : HoseId) (s t : State) : Prop where
  isSealed : t.isSealed = s.isSealed
  config : t.config = s.config
  others : ∀ m : HoseId, m ≠ n → t.hoses[m] = s.hoses[m]
  readers : t.readers = s.readers
  attach : ∀ m : HoseId, m ≠ n → t.meters[meterOf m].attach = s.meters[meterOf m].attach
  pump : ∀ k : CompId, k ≠ s.hoseComp n → t.pumps[k] = s.pumps[k]

theorem HoseInv.move {n : HoseId} {s t : State} (inv : HoseInv s) (moves : MovesHose n s t) (on : s.isSealed = true)
    (reading : s.readers[n].state = .reading → t.hoses[n].state = .reading)
    (attached : t.meters[meterOf n].attach = .delivery → t.hoses[n].state.delivering = true) : HoseInv t := by
  refine ⟨fun off => absurd off (by simp [moves.isSealed, on]), fun m => ?_, fun m => ?_⟩ <;> by_cases e : m = n
  · rw [e, moves.readers]; exact reading
  · rw [moves.readers, moves.others m e]; exact inv.reading m
  · rw [e]; exact attached
  · rw [moves.attach m e, moves.others m e]; exact inv.attached m

/-- A move of one hose of a sealed part keeps GrantInv where its pump stays fair and serves nobody else anew, and
the hose itself only with FULL handed over. -/
theorem GrantInv.move {n : HoseId} {s t : State} (inv : GrantInv s) (moves : MovesHose n s t)
    (on : s.isSealed = true)
    (reading : s.readers[n].state = .reading → t.hoses[n].state = .reading)
    (attached : t.meters[meterOf n].attach = .delivery → t.hoses[n].state.delivering = true)
    (fair : (t.pumpOf n).Fair (s.maxFull (s.hoseComp n)))
    (others : ∀ m : HoseId, m ≠ n → (t.pumpOf n).Serves m → (s.pumpOf n).Serves m)
    (own : (t.pumpOf n).Serves n → t.hoses[n].wantsFull = true) : GrantInv t := by
  have comp (m : HoseId) : t.hoseComp m = s.hoseComp m := s.hoseComp_of_config m t moves.config
  have maxFull (k : CompId) : t.maxFull k = s.maxFull k := by
    simp only [State.maxFull, State.itemNat, State.item, moves.config]
  have pump : t.pumpOf n = t.pumps[s.hoseComp n] := t.pumpOf_of_comp n _ (comp n)
  rw [pump] at fair others own
  refine .of_pumps (inv.hoses.move moves on reading attached) (fun k => ?_) (fun k m h => ?_)
  · rw [maxFull]
    by_cases e : k = s.hoseComp n
    · rw [e]; exact fair
    · rw [moves.pump k e]; exact inv.fair k
  · rw [comp]
    by_cases same : m = n
    · subst same
      by_cases e : k = s.hoseComp m
      · subst e
        exact ⟨rfl, own h⟩
      · rw [moves.pump k e] at h
        exact absurd (inv.holders k m h).1 (Ne.symm e)
    · rw [moves.others m same]
      by_cases e : k = s.hoseComp n
      · subst e
        exact inv.holders _ m (others m same h)
      · rw [moves.pump k e] at h
        exact inv.holders k m h

/-- A hose moved alone, its grant or place kept only with FULL handed over. -/
theorem GrantInv.setHose {s : State} (inv : GrantInv s) (n : HoseId) (h : Hose) (on : s.isSealed = true)
    (reading : s.readers[n].state = .reading → h.state = .reading)
    (attached : s.meters[meterOf n].attach = .delivery → h.state.delivering = true)
    (wants : s.hoses[n].wantsFull = true → h.wantsFull = true) : GrantInv (s.setHose n h) := by
  have own : (s.setHose n h).hoses[n] = h := s.setHose_same n h
  refine inv.move (n := n) ⟨rfl, rfl, fun m e => s.setHose_other n m h e, rfl, fun _ _ => rfl, fun _ _ => rfl⟩ on
    (fun r => ?_) (fun a => ?_) (inv.fair (s.hoseComp n)) (fun _ _ => id) (fun served => ?_) <;> rw [own]
  · exact reading r
  · exact attached a
  · exact wants (inv.holders (s.hoseComp n) n served).2

/-! ## Moves of one block -/

theorem GrantInv.setReader {s : State} (inv : GrantInv s) (n : HoseId) (r : Reader)
    (reading : r.state = .reading → s.hoses[n].state = .reading) : GrantInv (s.setReader n r) := by
  refine .of_pumps ⟨inv.hoses.offline, fun m => ?_, inv.hoses.attached⟩ inv.fair inv.holders
  rw [show (s.setReader n r).readers[m] = _ from s.setReader_get n m r]
  split_ifs with e
  · rw [e]; exact reading
  · exact inv.hoses.reading m

/-- A channel that is not attached to a delivery any more. -/
theorem GrantInv.detach {s : State} (inv : GrantInv s) (m : MeterId) : GrantInv (s.detach m) := by
  refine .of_pumps ⟨inv.hoses.offline, inv.hoses.reading, fun n => ?_⟩ inv.fair inv.holders
  rw [show (s.detach m).meters[meterOf n] = _ from s.setMeter_get m (meterOf n) _]
  split_ifs
  · intro e; cases e
  · exact inv.hoses.attached n

/-- A pump moved alone, with the grants and the queue it had or with none. -/
theorem GrantInv.setPump {s : State} (inv : GrantInv s) (k : CompId) (p : Pump)
    (same : (p.grants = s.pumps[k].grants ∧ p.queue = s.pumps[k].queue) ∨ p.Unasked) :
    GrantInv (s.setPump k p) := by
  have get (j : CompId) : (s.setPump k p).pumps[j] = if j = k then p else s.pumps[j] := s.setPump_get k j p
  refine .of_pumps ⟨inv.hoses.offline, inv.hoses.reading, inv.hoses.attached⟩ (fun j => ?_) (fun j n h => ?_)
  · rw [get]
    split_ifs with e
    · subst e
      exact same.elim (fun ⟨grants, queue⟩ => (inv.fair j).of_same grants queue) fun none' => none'.fair _
    · exact inv.fair j
  · rw [get] at h
    split_ifs at h with e
    · subst e
      exact same.elim (fun ⟨grants, queue⟩ => inv.holders j n ((Pump.serves_of_same grants queue n).mp h))
        fun none' => absurd h (none'.serves n)
    · exact inv.holders j n h

end Sys2Proof.Machine
end

section
/-! The commands and events that leave what GrantInv reads of the part as it is. -/

namespace Sys2Proof.Machine

/-! ## Operations -/

theorem State.writeJournal_serving (n : HoseId) (s : State) : (s.writeJournal n).serving = s.serving :=
  s.setHose_serving n _ rfl

theorem State.applyPending_serving (n : HoseId) (s : State) : (s.applyPending n).serving = s.serving :=
  s.setHose_serving n _ (by rw [Hose.applyPending_eq]; rfl)

theorem State.applyArmed_serving (m : MeterId) (s : State) : (s.applyArmed m).serving = s.serving := by
  unfold State.applyArmed
  split
  · rfl
  · split_ifs
    · exact s.applyPending_serving _
    · rfl

theorem State.endWindow_serving (n : HoseId) (s : State) : (s.endWindow n).serving = s.serving := by
  unfold State.endWindow
  split_ifs
  · exact (State.writeJournal_serving n _).trans (s.setHose_serving n _ rfl)
  · rfl

theorem State.reselect_serving (k : CompId) (s : State) : (s.reselect k).serving = s.serving :=
  s.setPump_serving k _ rfl rfl

theorem State.post_serving (kind : EventKind) (subject : EventSubject) (value : Int) (s : State) :
    (s.post kind subject value).serving = s.serving := State.serving_of_same (by simp) (by simp)

theorem State.ask_serving (sub : Subject) (s : State) : (s.ask sub).serving = s.serving :=
  State.serving_of_same (by simp) (by simp)

theorem State.accountStray_serving (m : MeterId) (w : Window) (s : State) :
    (s.accountStray m w).serving = s.serving := State.serving_of_same (by simp) (by simp)

theorem State.receiptWindow_serving (w : Window) (s : State) : (s.receiptWindow w).serving = s.serving :=
  State.serving_of_same (by simp) (by simp)

/-- The charges of a closing delivery reach neither the hoses' steps nor the pumps. -/
theorem State.accounted_serving (n : HoseId) (s : State) : (s.accounted n).serving = s.serving :=
  calc (s.accounted n).serving
    _ = (s.charged n).serving := (s.charged n).setHose_serving n _ rfl
    _ = s.serving := State.serving_of_same (by simp [State.charged]) (by simp [State.charged])

theorem State.eraseJournal_serving (n : HoseId) (s : State) :
    (s.setHose n { s.hoses[n] with journal := none }).serving = s.serving := s.setHose_serving n _ rfl

theorem State.closeJournal_serving (n : HoseId) (s : State) : (s.closeJournal n).serving = s.serving := by
  unfold State.closeJournal
  split
  · rfl
  · refine (State.post_serving ..).trans ((State.eraseJournal_serving n _).trans ?_)
    exact State.serving_of_same (by simp) (by simp)

theorem State.closeReceiptJournal_serving (s : State) : s.closeReceiptJournal.serving = s.serving := by
  unfold State.closeReceiptJournal
  split
  · rfl
  · exact State.serving_of_same (by simp) (by simp)

theorem State.startRestock_serving (s : State) : s.startRestock.serving = s.serving := by
  unfold State.startRestock
  dsimp only
  split_ifs <;> exact State.serving_of_same (by simp) (by simp)

theorem State.postLosses_serving (s : State) : s.postLosses.serving = s.serving :=
  (State.forEach_keep State.serving State.postLoss (fun _ u => u.post_serving _ _ _) s.losses _).trans rfl

/-! ## Commands -/

/-- A body that leaves who is served and who asks. -/
def KeepsServing (body : Body) : Prop := ∀ s : State, (body s).1.serving = s.serving

theorem KeepsServing.afterSeal {body : Body} (h : KeepsServing body) : KeepsServing (afterSeal body) := by
  intro s
  unfold Machine.afterSeal
  split_ifs
  · exact h s
  · rfl

theorem KeepsServing.beforeSeal {body : Body} (h : KeepsServing body) : KeepsServing (beforeSeal body) := by
  intro s
  unfold Machine.beforeSeal
  split_ifs
  · rfl
  · exact h s

theorem KeepsServing.of_state {body : Body} (h : ∀ s, (body s).1 = s) : KeepsServing body :=
  fun s => congrArg State.serving (h s)

theorem State.command_serving (code tag : Byte) {body : Body} (h : KeepsServing body) (s : State) :
    ∃ t, s.command code tag body = .next t ∧ t.serving = s.serving := ⟨_, rfl, h s.beginExchange⟩

theorem loadProfileBody_serving (profile count flag : Byte) (steps : Vector RawStep 4) :
    KeepsServing (loadProfileBody profile count flag steps) :=
  .beforeSeal fun s => by (repeat' split) <;> simp [State.serving]

theorem continuationBody_serving (staged : Option StagedLoad) (profile count : Byte)
    (steps : Vector RawStep 4) : KeepsServing (continuationBody staged profile count steps) := fun s =>
  have continued : KeepsServing (continueLoad profile count steps) :=
    .beforeSeal fun u => by (repeat' split) <;> simp [State.serving]
  continued { s with staged }

theorem loadMetrologyBody_serving (sect : MetroSection) : KeepsServing (loadMetrologyBody sect) := by
  refine KeepsServing.beforeSeal fun s => ?_
  split <;> rfl

theorem setDayBody_serving (day : BitVec 16) : KeepsServing (setDayBody day) :=
  .afterSeal fun s => by
    split
    · rfl
    · exact State.forEach_keep State.serving _ (fun p u => u.ask_serving _) _ _

theorem setPresetBody_serving (hose : Byte) (preset : BitVec 32) : KeepsServing (setPresetBody hose preset) :=
  .afterSeal fun s => by
    dsimp only
    split
    · rfl
    · split_ifs
      · split
        · rfl
        · exact (State.ask_serving ..).trans (s.setHose_serving _ _ rfl)
      · rfl

/-- A command that writes neither hoses nor pumps, case by case of its body. -/
theorem tableAndStockBodies_serving :
    (∀ ring number costCentre permitted state allowance cap,
      KeepsServing (putMachineBody ring number costCentre permitted state allowance cap)) ∧
    (∀ st selector key, KeepsServing (setEntryStateBody st selector key)) ∧
    (∀ selector key, KeepsServing (removeMachineBody selector key)) ∧
    (∀ comp book, KeepsServing (setStockBody comp book)) ∧
    (∀ comp, KeepsServing (receiptBeginBody comp)) ∧
    KeepsServing receiptEndBody ∧
    (∀ value, KeepsServing (setParkedBody value)) := by
  refine ⟨fun _ _ _ _ _ _ _ => .afterSeal fun s => ?_, fun _ _ _ => .afterSeal fun s => ?_,
    fun _ _ => .afterSeal fun s => ?_, fun _ _ => .afterSeal fun s => ?_, fun _ => .afterSeal fun s => ?_,
    .afterSeal fun s => ?_, fun _ => .afterSeal fun s => ?_⟩
  · unfold putMachineChecked
    (repeat' split) <;> simp [State.serving]
  all_goals (repeat' split) <;> simp [State.serving]

/-- A body that reads a record or an event, or sets the mask. -/
theorem readingBodies_serving :
    (∀ k part drain, KeepsServing (readRecordBody k part drain)) ∧
    (∀ k part, KeepsServing (readRecordDrainBody k part)) ∧
    KeepsServing readEventBody ∧
    (∀ mask, KeepsServing (setEventMaskBody mask)) := by
  refine ⟨fun _ _ _ s => ?_, fun _ _ s => ?_, fun s => ?_, fun _ s => ?_⟩
  · unfold readRecordBody; split_ifs <;> rfl
  · unfold readRecordDrainBody; dsimp only; split_ifs <;> rfl
  · unfold readEventBody; dsimp only; split <;> rfl
  · unfold setEventMaskBody; split_ifs <;> rfl

/-! ## Commands and events -/

theorem exec_serving (i : Instr) (s : State) (h : movesFlow i = false) :
    ∃ t, exec i s = .next t ∧ t.serving = s.serving := by
  obtain ⟨put, setEntry, remove, setStock, receiptBegin, receiptEnd, setParked⟩ := tableAndStockBodies_serving
  obtain ⟨readRecord, readRecordDrain, readEvent, setEventMask⟩ := readingBodies_serving
  cases i
  case setConfig | sealPart | restart | powerUp | resetnAssertion | authorise | stop | estopClear | seatEvent
    | unseatEvent | deadmanHeld | deadmanRelease | estopAssertion | pfltAssertion | pfltRelease | periodExpiry
    | padMeasurement | armExpiry | pauseExpiry | windowExpiry | spinUpExpiry | runOnExpiry | scanExpiry => cases h
  case loadProfile => exact State.command_serving _ _ (loadProfileBody_serving _ _ _ _) s
  case loadProfileContinuation => exact State.command_serving _ _ (continuationBody_serving _ _ _ _) s
  case loadMetrology => exact State.command_serving _ _ (loadMetrologyBody_serving _) s
  case putMachine => exact State.command_serving _ _ (put _ _ _ _ _ _ _) s
  case barMachine => exact State.command_serving _ _ (setEntry _ _ _) s
  case unbarMachine => exact State.command_serving _ _ (setEntry _ _ _) s
  case removeMachine => exact State.command_serving _ _ (remove _ _) s
  case getMachine => exact State.command_serving _ _ (.of_state (getMachineBody_state _ _ _ _)) s
  case setDay => exact State.command_serving _ _ (setDayBody_serving _) s
  case setPreset => exact State.command_serving _ _ (setPresetBody_serving _ _) s
  case getHose =>
    exact State.command_serving _ _
      (.of_state fun u => by unfold getHoseBody; split <;> simp only [viewPage_state]) s
  case readRecord => exact State.command_serving _ _ (readRecord _ _ _) s
  case readRecordDrain => exact State.command_serving _ _ (readRecordDrain _ _) s
  case release => exact State.command_serving _ _ (fun _ => rfl) s
  case setStock => exact State.command_serving _ _ (setStock _ _) s
  case receiptBegin => exact State.command_serving _ _ (receiptBegin _) s
  case receiptEnd => exact State.command_serving _ _ receiptEnd s
  case setParked => exact State.command_serving _ _ (setParked _) s
  case getStock => exact State.command_serving _ _ (.of_state fun u => viewPage_state _ u.stockRows u) s
  case getLink =>
    exact State.command_serving _ _
      (.of_state fun u => by unfold getLinkBody; split_ifs <;> simp only [viewPage_state]) s
  case readEvent => exact State.command_serving _ _ readEvent s
  case setEventMask => exact State.command_serving _ _ (setEventMask _) s
  case nop | unknownCommand | exchangeCutShort | estopRelease => exact ⟨_, rfl, rfl⟩
  case pwmPeriodStart k =>
    refine ⟨_, rfl, ?_⟩
    split
    · rfl
    · exact State.setPump_serving k _ (s.reach _) rfl rfl
  all_goals
    refine ⟨_, rfl, ?_⟩
    dsimp only
    (repeat' split) <;> simp [State.serving]

/-- Such a command or event keeps GrantInv. -/
theorem GrantInv.exec_still {i : Instr} {s t : State} (inv : GrantInv s) (still : movesFlow i = false)
    (h : exec i s = .next t) : GrantInv t := by
  obtain ⟨u, step, flow⟩ := exec_flow i s still
  obtain ⟨v, step', serving⟩ := exec_serving i s still
  cases step.symm.trans h
  cases step'.symm.trans h
  exact inv.of_views flow serving

end Sys2Proof.Machine
end

section
/-! The operations on a hose and its pump keep GrantInv (03, R42, R44, R45, R47, R48, R51, R55 to R58; 04, R70, R72; 05,
R76 to R83). -/

namespace Sys2Proof.Machine

/-! ## A hose at rest, and the cancellation (R42) -/

/-- A hose that is neither read nor attached to a delivery moves freely while it is not FLOWING. -/
theorem GrantInv.moveFree {s : State} (inv : GrantInv s) (n : HoseId) (h : Hose) (on : s.isSealed = true)
    (idle : s.hoses[n].state ≠ .flowing) (still : s.readers[n].state ≠ .reading)
    (apart : s.meters[meterOf n].attach ≠ .delivery) : GrantInv (s.setHose n h) :=
  inv.setHose n h on (fun r => absurd r still) (fun a => absurd a apart)
    (fun wants => absurd (Hose.flowing_of_wantsFull wants) idle)

theorem GrantInv.toRest {s : State} (inv : GrantInv s) (n : HoseId) (on : s.isSealed = true)
    (idle : s.hoses[n].state ≠ .flowing) (still : s.readers[n].state ≠ .reading)
    (apart : s.meters[meterOf n].attach ≠ .delivery) : GrantInv (s.toRest n) :=
  inv.moveFree n _ on idle still apart

theorem State.disarm_serving (n : HoseId) (s : State) : (s.disarm n).serving = s.serving :=
  State.serving_of_same (by simp [State.disarm]) (by simp [State.disarm])

theorem GrantInv.cancel {s : State} (inv : GrantInv s) (n : HoseId)
    (h : s.hoses[n].state = .identified ∨ s.hoses[n].state = .unidentified ∨ s.hoses[n].state = .armed) :
    GrantInv (s.cancel n) := by
  have on := inv.hoses.sealed n (by rcases h with e | e | e <;> rw [e] <;> nofun)
  have idle : s.hoses[n].state ≠ .flowing := by rcases h with e | e | e <;> rw [e] <;> nofun
  have still := inv.hoses.not_reading n (by rcases h with e | e | e <;> rw [e] <;> nofun)
  have apart := inv.hoses.not_attached n (by rcases h with e | e | e <;> rw [e] <;> rfl)
  unfold State.cancel
  split_ifs
  · have disarmed : GrantInv (s.disarm n) := inv.of_views (s.disarm_flow n) (s.disarm_serving n)
    exact disarmed.toRest n (by simpa [State.disarm] using on) (by simpa [State.disarm] using idle)
      (by simpa [State.disarm] using still) (by simpa [State.disarm] using apart)
  · exact inv.toRest n on idle still apart

theorem GrantInv.abandonRead {s : State} (inv : GrantInv s) (n : HoseId) : GrantInv (s.abandonRead n) :=
  inv.setReader n _ nofun

/-! ## The entry to SETTLING (R51, R83) -/

theorem HoseState.ne_offline_of_active {st : HoseState} (active : st.isActive = true) : st ≠ .offline := by
  rintro rfl
  cases active

theorem HoseState.ne_reading_of_active {st : HoseState} (active : st.isActive = true) : st ≠ .reading := by
  rintro rfl
  cases active

theorem GrantInv.enterSettling {s : State} (inv : GrantInv s) (n : HoseId) (cause : EndCause)
    (active : s.hoses[n].state.isActive = true) : GrantInv (s.enterSettling n cause) := by
  have on := inv.hoses.sealed n (HoseState.ne_offline_of_active active)
  have still := inv.hoses.not_reading n (HoseState.ne_reading_of_active active)
  have pump := s.enterSettling_pumpOf n cause
  obtain ⟨context, others⟩ := s.enterSettling_hose n cause
  obtain ⟨fair, served⟩ := (inv.fair (s.hoseComp n)).released n s
  have settling : (s.enterSettling n cause).hoses[n].state = .settling := by rw [context]; rfl
  refine inv.move (n := n) ⟨rfl, rfl, others, rfl, fun _ _ => rfl, fun k => s.enterSettling_pump_other n cause k⟩ on
    (fun r => absurd r still) (fun _ => by rw [settling]; rfl) ?_ (fun m _ h => ?_) (fun h => ?_)
  · rw [pump]
    exact fair.of_same rfl rfl
  · rw [pump] at h
    exact (served m h).1
  · rw [pump] at h
    exact absurd rfl (served n h).2

/-! ## A hose of a delivery moved with its pump -/

/-- A PRIMING, FLOWING or PAUSED hose stays in its delivery as its pump's grants and queue change for it. -/
theorem GrantInv.moveWithPump {n : HoseId} {s t : State} {h : Hose} {q : Pump} {d : Option Demand} (inv : GrantInv s)
    (hoses : t.hoses = s.hoses.set n h) (pumps : t.pumps = s.pumps.set (s.hoseComp n) { q with demand := d })
    (frame : t = { s with hoses := t.hoses, pumps := t.pumps }) (active : s.hoses[n].state.isActive = true)
    (delivering : h.state.delivering = true) (fair : q.Fair (s.maxFull (s.hoseComp n)))
    (others : ∀ m : HoseId, m ≠ n → q.Serves m → (s.pumpOf n).Serves m)
    (own : q.Serves n → h.wantsFull = true) : GrantInv t := by
  have on := inv.hoses.sealed n (HoseState.ne_offline_of_active active)
  have still := inv.hoses.not_reading n (HoseState.ne_reading_of_active active)
  have hose : t.hoses[n] = h := by rw [hoses, getElem_set_fin, if_pos rfl]
  have pump := pumpOf_of_set n t _ _ pumps (by rw [frame]; rfl)
  have serves (m : HoseId) (h : (t.pumpOf n).Serves m) : q.Serves m := by
    rw [pump] at h
    exact h
  refine inv.move (n := n) ⟨by rw [frame], by rw [frame], fun m ne => ?_, by rw [frame], fun _ _ => by rw [frame],
    fun k ne => ?_⟩ on (fun r => absurd r still) (fun _ => by rw [hose]; exact delivering) ?_
    (fun m ne h => others m ne (serves m h)) (fun h => by rw [hose]; exact own (serves n h))
  · rw [hoses, getElem_set_fin, if_neg ne]
  · rw [pumps, getElem_set_fin, if_neg ne]
  · rw [pump]
    exact fair.of_same rfl rfl

/-! ## PRIMING, FLOWING and PAUSED (R45, R47, R48, R72) -/

theorem Hose.flowingStep_handed (p : List ProfileStep) (h : Hose) :
    (h.flowingStep p).handed = (h.flowingStep p).stage := by
  unfold Hose.flowingStep
  split <;> rfl

/-- A pump asked by a hose that enters a step serves nobody else anew, and the hose only at FULL. -/
theorem Pump.Fair.entered {maxFull : Nat} {p : Pump} (fair : p.Fair maxFull) (st : StepState) (n : HoseId)
    (new : ¬ p.Serves n) :
    (p.entered st maxFull n).Fair maxFull ∧
    (∀ m : HoseId, m ≠ n → (p.entered st maxFull n).Serves m → p.Serves m) ∧
    ((p.entered st maxFull n).Serves n → st.stage = .full) := by
  unfold Pump.entered
  split_ifs with full
  · exact ⟨fair.request n new, fun m ne h => (Pump.request_serves _ n m _ h).resolve_right ne, fun _ => full⟩
  · exact ⟨fair, fun _ _ => id, fun h => absurd h new⟩

/-- A PRIMING hose asks for a grant as it enters FLOWING at a step whose stage is FULL. -/
theorem GrantInv.enterFlowing {s : State} (inv : GrantInv s) (n : HoseId) (priming : s.hoses[n].state = .priming) :
    GrantInv (s.enterFlowing n) := by
  let st := s.hoses[n].flowingStep (s.profileOf n)
  have handed : st.handed = st.stage := Hose.flowingStep_handed (s.profileOf n) s.hoses[n]
  have new : ¬ (s.pumpOf n).Serves n := inv.not_served _ n (Hose.not_wantsFull (by rw [priming]; nofun))
  obtain ⟨hoses, pumps, frame⟩ := s.enterFlowing_enters n
  obtain ⟨fair, others, own⟩ := (inv.fair (s.hoseComp n)).entered st n new
  refine inv.moveWithPump hoses pumps frame (by rw [priming]; rfl) rfl fair others fun served => ?_
  rw [Hose.wantsFull_flowing rfl rfl]
  show (st.handed == .full) = true
  rw [handed, own served]
  rfl

theorem GrantInv.flowOrWait {s : State} (inv : GrantInv s) (n : HoseId) (priming : s.hoses[n].state = .priming) :
    GrantInv (s.flowOrWait n) := by
  by_cases running : (s.pumpOf n).state = .running
  · rw [s.flowOrWait_flows n running]
    exact inv.enterFlowing n priming
  · rw [s.flowOrWait_waits n running]
    exact inv.of_views (State.reselect_flow _ s) (State.reselect_serving _ s)

/-- A hose that pauses gives up its grant or its place. -/
theorem GrantInv.pause {s : State} (inv : GrantInv s) (n : HoseId) (active : s.hoses[n].state.isActive = true) :
    GrantInv (s.pause n) := by
  have fair : (s.pumpOf n).Fair (s.maxFull (s.hoseComp n)) := inv.fair (s.hoseComp n)
  obtain ⟨hoses, pumps, frame⟩ := s.pause_pauses n
  exact inv.moveWithPump hoses pumps frame active rfl (fair.giveUp n) (fun m _ h => (fair.giveUp_serves n m h).1)
    (fun h => absurd rfl (fair.giveUp_serves n n h).2)

theorem GrantInv.resume {s : State} (inv : GrantInv s) (n : HoseId) (paused : s.hoses[n].state = .paused) :
    GrantInv (s.resume n) := by
  have on := inv.hoses.sealed n (by rw [paused]; nofun)
  have still := inv.hoses.not_reading n (by rw [paused]; nofun)
  have primed : GrantInv (s.reprimed n) := by
    refine inv.setHose n _ on (fun r => absurd r still) (fun _ => rfl) fun wants => ?_
    rw [Hose.flowing_of_wantsFull wants] at paused
    cases paused
  rw [State.resume_eq]
  exact primed.flowOrWait n (congrArg Hose.state (s.setHose_same n _))

theorem GrantInv.startDelivery {s : State} (inv : GrantInv s) (n : HoseId) (armed : s.hoses[n].state = .armed) :
    GrantInv (s.startDelivery n) := by
  have on := inv.hoses.sealed n (by rw [armed]; nofun)
  have still := inv.hoses.not_reading n (by rw [armed]; nofun)
  have new : ¬ (s.pumpOf n).Serves n := inv.not_served _ n (Hose.not_wantsFull (by rw [armed]; nofun))
  obtain ⟨grants, queue⟩ := s.claimed_grants n (s.pumpOf n)
  obtain ⟨d, ⟨-, meters, frame⟩, shape⟩ := s.startDelivery_starts n
  rw [shape]
  have hose (m : HoseId) : d.hoses[m] = if m = n then s.hoses[n].started n (s.hoseComp n) else s.hoses[m] := by
    rw [frame, getElem_set_fin]
  have own : d.hoses[n].state = .priming := by rw [hose, if_pos rfl]; rfl
  have pump : d.pumpOf n = s.claimed n (s.pumpOf n) :=
    pumpOf_of_set n d _ s.pumps (k := s.hoseComp n) (by rw [frame]) (by rw [frame]; rfl)
  refine GrantInv.flowOrWait ?_ n own
  refine inv.move (n := n) ⟨by rw [frame], by rw [frame], fun m ne => ?_, by rw [frame], fun m ne => ?_,
    fun k ne => ?_⟩ on (fun r => absurd r still) (fun _ => by rw [own]; rfl) ?_ (fun m _ h => ?_) (fun h => ?_)
  · rw [hose, if_neg ne]
  · rw [meters, getElem_set_fin, if_neg (fun e => ne (meterOf_inj e))]
  · rw [frame, getElem_set_fin, if_neg ne]
  · rw [pump]
    exact (inv.fair (s.hoseComp n)).of_same grants queue
  · rw [pump] at h
    exact (Pump.serves_of_same grants queue m).mp h
  · rw [pump] at h
    exact absurd ((Pump.serves_of_same grants queue n).mp h) new

/-! ## The stage handed over (R70) -/

/-- A pump asked, or given back to, as a stage is handed over serves nobody else anew, and the hose only at FULL. -/
theorem Pump.Fair.handed {maxFull : Nat} {p : Pump} (fair : p.Fair maxFull) (st : StepState) (n : HoseId)
    (asked : p.Serves n → st.handed = .full) :
    (p.handed st maxFull n).Fair maxFull ∧
    (∀ m : HoseId, m ≠ n → (p.handed st maxFull n).Serves m → p.Serves m) ∧
    ((p.handed st maxFull n).Serves n → st.stage = .full) := by
  unfold Pump.handed
  split_ifs with asks gives
  · obtain ⟨before, after⟩ := asks
    exact ⟨fair.request n fun h => before (asked h),
      fun m ne h => (Pump.request_serves _ n m _ h).resolve_right ne, fun _ => after⟩
  · exact ⟨fair.giveUp n, fun m _ h => (fair.giveUp_serves n m h).1,
      fun h => absurd rfl (fair.giveUp_serves n n h).2⟩
  · exact ⟨fair, fun _ _ => id, fun h => by_contra fun ne => gives ⟨asked h, ne⟩⟩

/-- A FLOWING hose asks as its stage passes to FULL, and gives up as it passes from FULL. -/
theorem GrantInv.handOver {s : State} (inv : GrantInv s) (n : HoseId) (st before : StepState)
    (flowing : s.hoses[n].state = .flowing) (step : s.hoses[n].step = some before) (same : st.handed = before.handed) :
    GrantInv (s.handOver n st) := by
  have asked (h : (s.pumpOf n).Serves n) : st.handed = .full := by
    obtain ⟨-, wants⟩ := inv.holders _ n h
    rw [Hose.wantsFull_flowing flowing step] at wants
    rw [same]
    simpa using wants
  obtain ⟨hoses, pumps, frame⟩ := s.handOver_handsOver n st
  obtain ⟨fair, others, own⟩ := (inv.fair (s.hoseComp n)).handed st n asked
  refine inv.moveWithPump hoses pumps frame (by rw [flowing]; rfl) ?_ fair others fun served => ?_
  · show s.hoses[n].state.delivering = true
    rw [flowing]
    rfl
  · rw [Hose.wantsFull_flowing (h := { s.hoses[n] with step := some { st with handed := st.stage } }) flowing rfl,
      own served]
    rfl

/-! ## The pumps (R58, R77 to R81) -/

/-- PRIMING hoses enter FLOWING one after another. -/
theorem GrantInv.forEach_enterFlowing (l : List HoseId) {s : State} (inv : GrantInv s) (once : l.Nodup)
    (priming : ∀ n ∈ l, s.hoses[n].state = .priming) : GrantInv (s.forEach l State.enterFlowing) := by
  induction l generalizing s with
  | nil => exact inv
  | cons a rest ih =>
    obtain ⟨notin, once⟩ := List.nodup_cons.mp once
    refine ih (inv.enterFlowing a (priming a List.mem_cons_self)) once fun n mem => ?_
    rw [(s.enterFlowing_enters a).keeps.others n fun e => notin (e ▸ mem)]
    exact priming n (List.mem_cons_of_mem a mem)

theorem State.mem_primingClaimants (k : CompId) (n : HoseId) (s : State) :
    n ∈ s.primingClaimants k ↔ s.pumps[k].claims[n] = true ∧ s.hoses[n].state = .priming := by
  simp [State.primingClaimants, mem_allHoses]

theorem GrantInv.spunUp {s : State} (inv : GrantInv s) (k : CompId) : GrantInv (s.spunUp k) := by
  unfold State.spunUp
  dsimp only
  split_ifs
  · have runs := inv.setPump k { s.pumps[k] with spinUp := none, state := .running } (Or.inl ⟨rfl, rfl⟩)
    exact runs.forEach_enterFlowing _ (allHoses_nodup.filter _) fun n mem => ((s.mem_primingClaimants k n).mp mem).2
  · exact inv.setPump k _ (s.runDown_cases { s.pumps[k] with spinUp := none })

/-! ## What stops hoses and pumps together (R55, R57, R58) -/

theorem HoseInv.of_stops {cause : EndCause} {s t : State} (inv : HoseInv s) (stops : StopsEverything cause s t) :
    HoseInv t := by
  have still : t.isSealed = s.isSealed := by rw [stops.frame]
  refine ⟨fun off n => ?_, fun n r => ?_, fun n a => ?_⟩ <;>
    obtain ⟨-, -, reading, delivering⟩ := stops.hose_state n
  · have offline := inv.offline (still.symm.trans off) n
    rw [stops.others n (by rw [offline]; rfl) (by rw [offline]; nofun) (by rw [offline]; nofun)]
    exact offline
  · rw [stops.frame] at r
    exact reading (inv.reading n r)
  · rw [stops.frame] at a
    exact delivering (inv.attached n a)

/-- Halted pumps serve nobody. -/
theorem GrantInv.of_stops {cause : EndCause} {s t : State} (hoses : HoseInv s) (stops : StopsEverything cause s t) :
    GrantInv t := by
  have none' (k : CompId) : t.pumps[k].Unasked := by
    rw [stops.pumps k]
    exact ⟨rfl, rfl⟩
  exact .of_pumps (hoses.of_stops stops) (fun k => (none' k).fair _) (fun k n h => absurd h ((none' k).serves n))

theorem GrantInv.emergencyStop {s : State} (inv : GrantInv s) : GrantInv s.emergencyStop := by
  let v : State := { s with estopLatch := true }
  have stopped : GrantInv (v.stopAll .estop) :=
    .of_stops (s := v) ⟨inv.hoses.offline, inv.hoses.reading, inv.hoses.attached⟩ (v.stopAll_stops .estop)
  exact stopped.of_views (State.post_flow ..) (State.post_serving ..)

theorem GrantInv.metrologyFault {s : State} (inv : GrantInv s) : GrantInv s.metrologyFault := by
  let v : State := { s with metroFault := true, scanDue := none }
  have moved : HoseInv v := ⟨inv.hoses.offline, inv.hoses.reading, inv.hoses.attached⟩
  exact .of_stops (moved.of_flow (State.post_flow .metrologyFault .part s.metro.crc.toNat v))
    (State.stopAll_stops .metrology _)

theorem HoseInv.of_faults {k : CompId} {s t : State} (inv : HoseInv s) (on : s.isSealed = true)
    (faults : FaultsPump k s t) : HoseInv t := by
  have sealed : t.isSealed = true := by rw [faults.frame]; exact on
  refine ⟨fun off => absurd off (by simp [sealed]), fun n r => ?_, fun n a => ?_⟩
  · rw [faults.frame] at r
    have reading := inv.reading n r
    rcases faults.hose_state n with ⟨-, active, -⟩ | ⟨st, -⟩
    · exact absurd reading (HoseState.ne_reading_of_active active)
    · rw [st, reading]
  · rw [faults.frame] at a
    rcases faults.hose_state n with ⟨st, -, -⟩ | ⟨st, -⟩ <;> rw [st]
    · rfl
    · exact inv.attached n a

theorem GrantInv.pumpFault {s : State} (inv : GrantInv s) (k : CompId) (on : s.isSealed = true) :
    GrantInv (s.pumpFault k) := by
  have faults := s.pumpFault_faults k
  generalize s.pumpFault k = t at faults ⊢
  have pump (j : CompId) : t.pumps[j] = if j = k then s.pumps[k].halted .fault else s.pumps[j] := by
    rw [faults.frame, getElem_set_fin]
  have maxFull (j : CompId) : t.maxFull j = s.maxFull j := by rw [faults.frame]; rfl
  have none' := Pump.halted_unasked .fault s.pumps[k]
  refine .of_pumps (inv.hoses.of_faults on faults) (fun j => ?_) (fun j n h => ?_)
  · rw [pump, maxFull]
    split_ifs
    · exact none'.fair _
    · exact inv.fair j
  · rw [pump] at h
    split_ifs at h with e
    · exact absurd h (none'.serves n)
    · obtain ⟨comp, wants⟩ := inv.holders j n h
      rw [State.hoseComp_of_config n s t (by rw [faults.frame]), faults.others n (Or.inr (comp ▸ e))]
      exact ⟨comp, wants⟩

end Sys2Proof.Machine
end

section
/-! The readers, the windows and the hose commands keep GrantInv (01, R2, R3, R7 to R12; 03, R37, R40, R41, R46, R50,
R52, R53; 04, R68; 06, R90). -/

namespace Sys2Proof.Machine

/-! ## The readers (R2, R7, R10 to R12) -/

section
variable {s : State} (inv : GrantInv s) (n : HoseId)
include inv

/-- A read ends: the reader waits, and the hose was neither FLOWING nor attached to a delivery. -/
theorem GrantInv.endRead (r : Reader) (h : Hose) (on : s.isSealed = true) (waits : r.state ≠ .reading)
    (inactive : s.hoses[n].state.delivering = false) : GrantInv ((s.setReader n r).setHose n h) := by
  have stopped : GrantInv (s.setReader n r) := inv.setReader n r fun e => absurd e waits
  refine stopped.moveFree n h on (fun flowing => ?_) ?_ (inv.hoses.not_attached n inactive)
  · rw [show s.hoses[n].state = .flowing from flowing] at inactive
    cases inactive
  · rw [show (s.setReader n r).readers[n] = r from s.setReader_same n r]
    exact waits

theorem GrantInv.post (kind : EventKind) (subject : EventSubject) (value : Int) :
    GrantInv (s.post kind subject value) :=
  inv.of_views (s.post_flow kind subject value) (s.post_serving kind subject value)

theorem GrantInv.readFailed (reason : UnidReason) (on : s.isSealed = true)
    (inactive : s.hoses[n].state.delivering = false) : GrantInv (s.readFailed n reason) :=
  (inv.endRead n _ _ on (by nofun) inactive).post _ _ _

theorem GrantInv.readSucceeded (ring : BitVec 24) (orientation : Nat) (reading : s.hoses[n].state = .reading) :
    GrantInv (s.readSucceeded n ring orientation) := by
  have on := inv.hoses.sealed n (by rw [reading]; nofun)
  have inactive : s.hoses[n].state.delivering = false := by rw [reading]; rfl
  unfold State.readSucceeded
  dsimp only
  split
  · exact (inv.endRead n _ _ on (by nofun) inactive).post _ _ _
  · exact (inv.endRead n _ _ on (by nofun) inactive).post _ _ _

theorem GrantInv.endTry (counts : List Nat) (reading : s.hoses[n].state = .reading) :
    GrantInv (s.endTry n counts) := by
  unfold State.endTry
  dsimp only
  split
  · exact inv.readSucceeded n _ _ reading
  · split_ifs
    · exact inv.setReader n _ fun _ => reading
    · exact inv.readFailed n _ (inv.hoses.sealed n (by rw [reading]; nofun)) (by rw [reading]; rfl)

theorem GrantInv.tryMeasured (due count : Nat) (st : s.readers[n].state = .reading) :
    GrantInv (s.tryMeasured n due count) := by
  have reading := inv.hoses.reading n st
  unfold State.tryMeasured
  dsimp only
  split_ifs
  · exact inv.endTry n _ reading
  · exact inv.setReader n _ fun _ => reading

theorem GrantInv.passMeasured (due count : Nat) : GrantInv (s.passMeasured n due count) := by
  refine inv.setReader n _ fun e => ?_
  by_cases last : 23 ≤ s.readers[n].pad
  · rw [if_pos last] at e
    cases e
  · rw [if_neg last] at e
    exact inv.hoses.reading n e

theorem GrantInv.readerPeriodAt (due : Nat) : GrantInv (s.readerPeriodAt due n) := by
  refine inv.setReader n _ fun e => ?_
  split_ifs at e
  · cases e
  · exact inv.hoses.reading n e

/-- A read starts at an IDLE hose, and fails at once without a baseline. -/
theorem GrantInv.startRead (idle : s.hoses[n].state = .idle) : GrantInv (s.startRead n) := by
  have on := inv.hoses.sealed n (by rw [idle]; nofun)
  have inactive : s.hoses[n].state.delivering = false := by rw [idle]; rfl
  by_cases none' : none ∈ s.readers[n].baseline.toList
  · rw [s.startRead_fails n none']
    exact (inv.endRead n (s.readers[n].starting.ended (.failed .noBaseline 1)) _ on (by nofun) inactive).post _ _ _
  · rw [s.startRead_measures n fun p mem => Option.isSome_iff_ne_none.mpr fun e => none' (e ▸ mem)]
    have moved : GrantInv (s.setHose n { s.hoses[n] with state := .reading }) := by
      refine inv.setHose n _ on (fun _ => rfl) (fun a => absurd a (inv.hoses.not_attached n inactive)) fun wants => ?_
      rw [Hose.flowing_of_wantsFull wants] at idle
      cases idle
    exact moved.setReader n _ fun _ => congrArg Hose.state (s.setHose_same n _)

end

theorem GrantInv.padMeasurement {s t : State} (inv : GrantInv s) (n : HoseId) (count : BitVec 16)
    (h : execPadMeasurement n count s = .next t) : GrantInv t := by
  cases h
  split
  · exact inv
  · rename_i due _
    have reached : GrantInv (s.reach due) := inv.of_views rfl rfl
    dsimp only
    split
    · exact reached.passMeasured n due _
    · rename_i st
      exact reached.tryMeasured n due _ st
    · exact reached
    · exact reached

/-! ## The close of a delivery (R52, R53) -/

theorem GrantInv.closeDelivery {s : State} (inv : GrantInv s) (n : HoseId) (settling : s.hoses[n].state = .settling) :
    GrantInv (s.closeDelivery n) := by
  have flow := s.accounted_flow n
  have accounted : GrantInv (s.accounted n) := inv.of_views flow (s.accounted_serving n)
  have settling : (s.accounted n).hoses[n].state = .settling := (hoseState_of_flow flow n).trans settling
  have on := accounted.hoses.sealed n (by rw [settling]; nofun)
  have still := accounted.hoses.not_reading n (by rw [settling]; nofun)
  have apart : ((s.accounted n).detach (meterOf n)).meters[meterOf n].attach ≠ .delivery := by
    rw [show ((s.accounted n).detach (meterOf n)).meters[meterOf n] = _ from State.setMeter_same (meterOf n) _ _]
    nofun
  have posted := State.post_flow .deliveryClosed (.hose n) s.log.seq.toNat ((s.accounted n).detach (meterOf n))
  rw [State.closeDelivery_eq]
  refine ((accounted.detach (meterOf n)).post _ _ _).toRest n ((isSealed_of_flow posted).trans on) ?_ ?_ ?_
  · rw [hoseState_of_flow posted, show ((s.accounted n).detach (meterOf n)).hoses[n].state = _ from settling]
    nofun
  · rw [readerState_of_flow posted]
    exact still
  · rw [attach_of_flow posted]
    exact apart

theorem GrantInv.settleWindow {s : State} (inv : GrantInv s) (n : HoseId) (c : Int)
    (settling : s.hoses[n].state = .settling) : GrantInv (s.settleWindow n c) := by
  have counted : GrantInv (s.setHose n (s.hoses[n].quieted c)) :=
    inv.of_views (s.setHose_flow n _ rfl) (s.setHose_serving n _ rfl)
  rw [State.settleWindow_eq]
  split_ifs
  · exact inv
  · exact counted.closeDelivery n ((congrArg Hose.state (s.setHose_same n _)).trans settling)
  · exact counted

/-! ## The window of a delivery (R46, R68) -/

section
variable {s : State} (inv : GrantInv s) (n : HoseId)
include inv

theorem GrantInv.applyPending : GrantInv (s.applyPending n) :=
  inv.of_views (s.applyPending_flow n) (s.applyPending_serving n)

/-- The step that an evaluation hands over has the stage handed before it, whatever its transitions (R66, R70). -/
theorem GrantInv.evaluateHose (rate : Nat) (flowing : s.hoses[n].state = .flowing) :
    GrantInv (s.evaluateHose n rate) := by
  have applied := inv.applyPending n
  have flowing : (s.applyPending n).hoses[n].state = .flowing :=
    (hoseState_of_flow (s.applyPending_flow n) n).trans flowing
  have active : (s.applyPending n).hoses[n].state.isActive = true := by rw [flowing]; rfl
  unfold State.evaluateHose State.stepTest
  dsimp only
  split
  · exact applied
  · rename_i before step
    split_ifs
    · exact applied.enterSettling n _ active
    · split
      · exact applied.enterSettling n _ active
      · exact applied.enterSettling n _ active
      · rename_i x run
        have kept := chain_handed _ _ _ _ _ _ run
        exact applied.handOver n x before flowing step kept

theorem GrantInv.waitingWork (active : s.hoses[n].state.isActive = true) : GrantInv (s.waitingWork n) := by
  unfold State.waitingWork
  dsimp only
  split_ifs
  · exact (inv.applyPending n).enterSettling n _ (by rw [hoseState_of_flow (s.applyPending_flow n)]; exact active)
  · exact inv.applyPending n

theorem GrantInv.stateWork (w : Window) (st : HoseState) (h : s.hoses[n].state = st) :
    GrantInv (s.stateWork n w st) := by
  unfold State.stateWork
  split
  case h_1 => exact inv.evaluateHose n _ h
  case h_2 => exact inv.waitingWork n (by rw [h]; rfl)
  case h_3 => exact inv.waitingWork n (by rw [h]; rfl)
  case h_4 => exact (inv.applyPending n).settleWindow n _ ((hoseState_of_flow (s.applyPending_flow n) n).trans h)
  all_goals exact inv

theorem GrantInv.deliveryWindow (w : Window) (delivering : s.hoses[n].state.delivering = true) :
    GrantInv (s.deliveryWindow n w) := by
  have counted : GrantInv (s.setHose n (s.windowContext n w)) :=
    inv.of_views (s.setHose_flow n _ rfl) (s.setHose_serving n _ rfl)
  have same : (s.setHose n (s.windowContext n w)).hoses[n].state = s.hoses[n].state :=
    hoseState_of_flow (s.setHose_flow n (s.windowContext n w) rfl) n
  unfold State.deliveryWindow
  dsimp only
  refine GrantInv.of_views ?_ (State.endWindow_flow n _) (State.endWindow_serving n _)
  split
  · exact counted.stateWork n w _ same
  · rename_i unsettled
    refine counted.enterSettling n _ ?_
    rw [same]
    exact HoseState.isActive_of_delivering delivering unsettled
  · exact counted.stateWork n w _ same

end

theorem GrantInv.account {s : State} (inv : GrantInv s) (m : MeterId) (w : Window) : GrantInv (s.account m w) := by
  unfold State.account
  split
  · exact inv.of_views (s.accountStray_flow m w) (s.accountStray_serving m w)
  · rename_i n attached hose
    rw [hoseOfMeter_eq_some hose] at attached
    exact inv.deliveryWindow n w (inv.hoses.attached n attached)
  · exact inv
  · exact inv.of_views (s.receiptWindow_flow w) (s.receiptWindow_serving w)

theorem GrantInv.windowExpiry {s t : State} (inv : GrantInv s) (m : MeterId)
    (h : execWindowExpiry m s = .next t) : GrantInv t := by
  cases h
  split
  · exact inv
  · rename_i due _
    have armed : GrantInv ((s.reach due).applyArmed m) :=
      inv.of_views (State.applyArmed_flow m (s.reach due)) (State.applyArmed_serving m (s.reach due))
    have noted := armed.of_views (State.noteRate_flow m (((s.reach due).applyArmed m).windowOf m).rate _) rfl
    exact (noted.account m _).of_views (State.nextWindow_flow ..) rfl

/-! ## The seat line, STOP and AUTHORISE (R37, R40, R41, R50) -/

theorem GrantInv.unseat {s : State} (inv : GrantInv s) (n : HoseId) : GrantInv (s.unseat n) := by
  unfold State.unseat
  cases st : s.hoses[n].state
  case offline | idle | settling => exact inv
  case identified => exact inv.cancel n (Or.inl st)
  case unidentified => exact inv.cancel n (Or.inr (Or.inl st))
  case armed => exact inv.cancel n (Or.inr (Or.inr st))
  case priming | flowing | paused => exact inv.enterSettling n _ (by rw [st]; rfl)
  case reading =>
    exact (inv.abandonRead n).toRest n (inv.hoses.sealed n (by rw [st]; nofun))
      (by rw [show (s.abandonRead n).hoses[n].state = _ from st]; nofun) (s.abandonRead_still n)
      (inv.hoses.not_attached n (by rw [st]; rfl))
  case finished =>
    exact inv.toRest n (inv.hoses.sealed n (by rw [st]; nofun)) (by rw [st]; nofun)
      (inv.hoses.not_reading n (by rw [st]; nofun)) (inv.hoses.not_attached n (by rw [st]; rfl))

theorem GrantInv.stopHose {s : State} (inv : GrantInv s) (n : HoseId) : GrantInv (s.stopHose n) := by
  unfold State.stopHose
  cases st : s.hoses[n].state
  case offline | idle | settling | finished => exact inv
  case identified => exact inv.cancel n (Or.inl st)
  case unidentified => exact inv.cancel n (Or.inr (Or.inl st))
  case armed => exact inv.cancel n (Or.inr (Or.inr st))
  case priming | flowing | paused => exact inv.enterSettling n _ (by rw [st]; rfl)
  case reading =>
    exact inv.endRead n _ _ (inv.hoses.sealed n (by rw [st]; nofun)) (by nofun) (by rw [st]; rfl)

theorem GrantInv.stopBody {s : State} (inv : GrantInv s) (hose : Byte) : GrantInv (stopBody hose s).1 := by
  unfold Machine.stopBody Machine.afterSeal
  split_ifs
  · split
    · exact inv
    · exact inv.stopHose _
  · exact inv

theorem GrantInv.arm {s : State} (inv : GrantInv s) (n : HoseId) (i : Ident) (granted : Nat)
    (st : s.hoses[n].state = .identified ∨ s.hoses[n].state = .unidentified) : GrantInv (s.arm n i granted) := by
  have reserved : GrantInv (s.setReserved (holderOf n) true) := inv.of_views rfl rfl
  have on := inv.hoses.sealed n (by rcases st with e | e <;> rw [e] <;> nofun)
  have idle : s.hoses[n].state ≠ .flowing := by rcases st with e | e <;> rw [e] <;> nofun
  have still := inv.hoses.not_reading n (by rcases st with e | e <;> rw [e] <;> nofun)
  have apart := inv.hoses.not_attached n (by rcases st with e | e <;> rw [e] <;> rfl)
  exact (reserved.moveFree n _ on idle still apart).of_views (State.ask_flow _ _) (State.ask_serving _ _)

/-- Past the checks of AUTHORISE the lookups refuse, or the hose is armed (R27, R30). -/
theorem GrantInv.authoriseLookups {s : State} (inv : GrantInv s) (n : HoseId) (requested : Nat) (number : BitVec 16)
    (st : s.hoses[n].state = .identified ∨ s.hoses[n].state = .unidentified) :
    GrantInv (authoriseIdentified n requested s).1 ∧ GrantInv (authoriseKeyed n requested number s).1 := by
  have arms (i : Ident) (granted : Nat) := inv.arm n i granted st
  constructor
  · unfold authoriseIdentified
    dsimp only
    split
    · exact inv
    · split
      · exact inv
      · exact arms _ _
  · unfold authoriseKeyed
    split_ifs
    · exact inv
    · split
      · exact inv
      · split
        · exact inv
        · exact arms _ _

theorem GrantInv.authoriseBody {s : State} (inv : GrantInv s) (hose : Byte) (preset : BitVec 32)
    (number : BitVec 16) : GrantInv (authoriseBody hose preset number s).1 := by
  unfold Machine.authoriseBody Machine.afterSeal
  split_ifs
  · split
    · exact inv
    · rename_i n _
      dsimp only
      split
      · exact inv
      · rename_i passed
        obtain ⟨st, -, -⟩ := authoriseRefusal_passed passed
        obtain ⟨identified, keyed⟩ := inv.authoriseLookups n preset.toNat number st
        split_ifs
        · exact identified
        · exact keyed
  · exact inv

theorem GrantInv.estopClearBody {s : State} (inv : GrantInv s) : GrantInv (estopClearBody s).1 := by
  unfold Machine.estopClearBody Machine.afterSeal
  dsimp only
  split_ifs
  · exact inv
  · exact inv
  · exact .of_pumps ⟨inv.hoses.offline, inv.hoses.reading, inv.hoses.attached⟩ inv.fair inv.holders
  · exact inv

end Sys2Proof.Machine
end

section
/-! Every step keeps GrantInv: the seal, the restarts and the events (03, R38, R43, R48, R55, R57, R60; 05, R75, R77 to
R83; 11, R162, R164, R167, R168). -/

namespace Sys2Proof.Machine

/-! ## Before the seal (R162, R164) -/

/-- Before the seal the configuration is free: no pump serves anybody. -/
theorem GrantInv.withConfig {s : State} (inv : GrantInv s) (off : s.isSealed = false) (config : ConfigBlock) :
    GrantInv { s with config } := by
  have none' (k : CompId) : s.pumps[k].Unasked :=
    ⟨Vector.ext fun i hi => ((inv.empty off k ⟨i, hi⟩).1).trans (by simp), (inv.empty off k 0).2⟩
  exact .of_pumps ⟨inv.hoses.offline, inv.hoses.reading, inv.hoses.attached⟩ (fun k => (none' k).fair _)
    (fun k n h => absurd h ((none' k).serves n))

theorem GrantInv.setConfigBody {s : State} (inv : GrantInv s) (item element : Byte) (value : BitVec 32) :
    GrantInv (setConfigBody item element value s).1 := by
  unfold Machine.setConfigBody
  cases on : s.isSealed
  case true =>
    rw [beforeSeal_sealed _ s on]
    exact inv
  case false =>
    have config := inv.withConfig on
    rw [beforeSeal_unsealed _ s on]
    dsimp only
    split_ifs
    · exact inv
    · exact inv
    · exact config _
    · exact inv
    · exact config _
    · exact config _

theorem GrantInv.restart (cause : Byte) (s : State) : GrantInv (s.restart cause) := by
  have none' (k : CompId) : (s.restart cause).pumps[k].Unasked := by
    rw [show (s.restart cause).pumps[k] = Pump.restarted by simp [State.restart]]
    exact ⟨rfl, rfl⟩
  exact .of_pumps (FlowInv.restart cause s).hoses (fun k => (none' k).fair _)
    (fun k n h => absurd h ((none' k).serves n))

/-! ## The seal (R60, R87, R167) -/

/-- A sealed part with every hose at rest or still OFFLINE, as the completion of the seal finds it. -/
structure GrantResting (s : State) : Prop where
  grants : GrantInv s
  on : s.isSealed = true
  rests : ∀ n : HoseId, s.hoses[n].state = .offline ∨ s.hoses[n].state = .idle ∨ s.hoses[n].state = .finished

theorem GrantResting.toRest {s : State} (r : GrantResting s) (n : HoseId) : GrantResting (s.toRest n) := by
  refine ⟨r.grants.toRest n r.on ?_ (r.grants.hoses.not_reading n ?_) (r.grants.hoses.not_attached n ?_), r.on,
    fun m => ?_⟩
  · rcases r.rests n with e | e | e <;> rw [e] <;> nofun
  · rcases r.rests n with e | e | e <;> rw [e] <;> nofun
  · rcases r.rests n with e | e | e <;> rw [e] <;> rfl
  · rw [show (s.toRest n).hoses[m] = _ from s.setHose_get n m _]
    split_ifs
    · exact Or.inr (s.restState_cases n)
    · exact r.rests m

theorem GrantInv.begins {s : State} (inv : GrantInv s) (off : s.isSealed = false) :
    GrantResting { s with isSealed := true, now := 0 } :=
  ⟨.of_pumps ⟨nofun, inv.hoses.reading, inv.hoses.attached⟩ inv.fair inv.holders, rfl,
    fun n => Or.inl (inv.hoses.offline off n)⟩

theorem GrantInv.startReader {s : State} (inv : GrantInv s) (n : HoseId) : GrantInv (s.startReader n) :=
  (inv.setReader n { s.readers[n] with state := .waiting } nofun).readerPeriodAt n 0

/-- GrantInv of a sealed part. -/
structure SealedGrants (s : State) : Prop where
  grants : GrantInv s
  on : s.isSealed = true

theorem SealedGrants.startPump {s : State} (inv : SealedGrants s) (k : CompId) : SealedGrants (s.startPump k) := by
  have started := inv.grants.setPump k { s.pumps[k] with pwmStart := 0, pwmDue := some s.pwmPeriod }
    (Or.inl ⟨rfl, rfl⟩)
  unfold State.startPump
  dsimp only
  split_ifs
  · exact ⟨started.pumpFault k inv.on, by rw [(State.pumpFault_faults k _).frame]; exact inv.on⟩
  · exact ⟨started, inv.on⟩

/-- Every channel starts its windows attached to no delivery. -/
theorem GrantInv.startMeters {s : State} (inv : GrantInv s) : GrantInv s.startMeters := by
  have stray (n : HoseId) : s.startMeters.meters[meterOf n].attach = .stray := by simp [State.startMeters]
  exact .of_pumps ⟨inv.hoses.offline, inv.hoses.reading, fun n a => by rw [stray n] at a; cases a⟩ inv.fair
    inv.holders

theorem GrantInv.complete {s : State} (inv : GrantInv s) (off : s.isSealed = false) : GrantInv s.complete := by
  unfold State.complete
  extract_lets closed sealed resting reading pumping stopped metered sampler sampling linked log due
  have flow : closed.flow = s.flow := (State.closeReceiptJournal_flow _).trans
    (State.forEach_keep State.flow State.closeJournal State.closeJournal_flow allHoses s)
  have serving : closed.serving = s.serving := (State.closeReceiptJournal_serving _).trans
    (State.forEach_keep State.serving State.closeJournal State.closeJournal_serving allHoses s)
  have began : GrantResting sealed := (inv.of_views flow serving).begins ((isSealed_of_flow flow).trans off)
  clear_value closed sealed
  have rest : GrantResting resting := State.forEach_keeps GrantResting allHoses _ sealed
    (fun n _ u r => r.toRest n) began
  clear_value resting
  have read : SealedGrants reading := State.forEach_keeps SealedGrants allHoses _ resting
    (fun n _ u r => ⟨r.grants.startReader n, r.on⟩) ⟨rest.grants, rest.on⟩
  clear_value reading
  have pump : SealedGrants pumping := State.forEach_keeps SealedGrants allComps _ reading
    (fun k _ u r => r.startPump k) read
  clear_value pumping
  have stop : GrantInv stopped := by
    unfold stopped
    split_ifs
    · exact pump.grants.emergencyStop
    · exact pump.grants
  clear_value stopped
  have meter : GrantInv sampling := stop.startMeters.of_views rfl rfl
  clear_value sampling
  have link : GrantInv linked := meter.of_views sampling.startRestock_flow sampling.startRestock_serving
  clear_value linked
  have timed : GrantInv due := link.of_views rfl rfl
  exact timed.of_views due.postLosses_flow due.postLosses_serving

theorem GrantInv.sealBody {s : State} (inv : GrantInv s) : GrantInv (sealBody s).1 := by
  cases on : s.isSealed
  case true =>
    rw [Machine.sealBody, beforeSeal_sealed _ s on]
    exact inv
  case false =>
    rcases sealBody_state s with e | e <;> rw [e]
    · exact inv
    · exact inv.complete on

/-! ## The lines and the expiries (R38, R43, R48, R55, R57, R77, R79, R80) -/

section
variable {s t : State} (inv : GrantInv s) (n : HoseId) (k : CompId)
include inv

theorem GrantInv.setSeat (b : Bool) : GrantInv (s.setSeat n b) := inv.of_views rfl rfl

theorem GrantInv.seatEvent (h : exec (.seatEvent n) s = .next t) : GrantInv t := by
  by_cases idle : s.hoses[n].state = .idle
  · cases (exec_seatEvent_idle n s idle).symm.trans h
    exact (inv.setSeat n true).startRead n idle
  · cases (exec_seatEvent_other n s idle).symm.trans h
    exact inv.setSeat n true

theorem GrantInv.deadmanHeld (h : exec (.deadmanHeld n) s = .next t) : GrantInv t := by
  have moved : GrantInv (s.setDeadman n true) := inv.of_views rfl rfl
  by_cases armed : s.hoses[n].state = .armed
  · by_cases fault : (s.pumpOf n).state = .fault
    · cases (exec_deadmanHeld_faulted n s armed fault).symm.trans h
      exact moved
    · cases (exec_deadmanHeld_starts n s armed fault).symm.trans h
      exact moved.startDelivery n armed
  · by_cases paused : s.hoses[n].state = .paused
    · cases (exec_deadmanHeld_resumes n s paused).symm.trans h
      exact moved.resume n paused
    · cases (exec_deadmanHeld_stays n s armed paused).symm.trans h
      exact moved

theorem GrantInv.deadmanRelease (h : exec (.deadmanRelease n) s = .next t) : GrantInv t := by
  have moved : GrantInv (s.setDeadman n false) := inv.of_views rfl rfl
  by_cases st : s.hoses[n].state = .priming ∨ s.hoses[n].state = .flowing
  · cases (exec_deadmanRelease_pauses n s st).symm.trans h
    refine moved.pause n ?_
    show s.hoses[n].state.isActive = true
    rcases st with e | e <;> rw [e] <;> rfl
  · rw [not_or] at st
    cases (exec_deadmanRelease_stays n s st.1 st.2).symm.trans h
    exact moved

theorem GrantInv.armExpiry (h : exec (.armExpiry n) s = .next t) : GrantInv t := by
  have h : execArmExpiry n s = .next t := h
  unfold execArmExpiry at h
  cases h
  split
  · exact inv
  · rename_i due _
    have reached : GrantInv (s.reachSec due) := inv.of_views rfl rfl
    dsimp only
    split_ifs with st
    · exact (reached.cancel n (st.imp_right Or.inr)).post _ _ _
    · exact inv

theorem GrantInv.pauseExpiry (h : exec (.pauseExpiry n) s = .next t) : GrantInv t := by
  have h : execPauseExpiry n s = .next t := h
  unfold execPauseExpiry at h
  cases h
  split
  · exact inv
  · rename_i due _
    have reached : GrantInv (s.reachSec due) := inv.of_views rfl rfl
    split_ifs with st
    · exact reached.enterSettling n _ (by rw [show (s.reachSec due).hoses[n].state = _ from st]; rfl)
    · exact inv

theorem GrantInv.estopAssertion (h : exec .estopAssertion s = .next t) : GrantInv t := by
  have moved : GrantInv { s with pins := { s.pins with estop := true } } := inv.of_views rfl rfl
  cases on : s.isSealed
  case false =>
    cases (exec_estopAssertion_unsealed s on).symm.trans h
    exact moved
  case true =>
    cases (exec_estopAssertion_sealed s on).symm.trans h
    exact moved.emergencyStop

theorem GrantInv.pfltAssertion (h : exec (.pfltAssertion k) s = .next t) : GrantInv t := by
  have moved : GrantInv { s with pins := { s.pins with pflt := s.pins.pflt.set k true } } := inv.of_views rfl rfl
  cases on : s.isSealed
  case false =>
    cases (exec_pfltAssertion_unsealed k s on).symm.trans h
    exact moved
  case true =>
    cases (exec_pfltAssertion_sealed k s on).symm.trans h
    exact moved.pumpFault k on

theorem GrantInv.pfltRelease (h : exec (.pfltRelease k) s = .next t) : GrantInv t := by
  have moved : GrantInv { s with pins := { s.pins with pflt := s.pins.pflt.set k false } } := inv.of_views rfl rfl
  by_cases fault : s.isSealed = true ∧ s.pumps[k].state = .fault
  · cases (exec_pfltRelease_faulted k s fault.1 fault.2).symm.trans h
    exact moved.setPump k _ (Or.inr (Pump.halted_unasked .off s.pumps[k]))
  · cases (exec_pfltRelease_stays k s fault).symm.trans h
    exact moved

theorem GrantInv.spinUpExpiry (h : exec (.spinUpExpiry k) s = .next t) : GrantInv t := by
  have h : execSpinUpExpiry k s = .next t := h
  unfold execSpinUpExpiry at h
  cases h
  split
  · exact inv
  · rename_i due _
    have reached : GrantInv (s.reachMs due) := inv.of_views rfl rfl
    exact (reached.spunUp k).of_views (State.reselect_flow ..) (State.reselect_serving ..)

theorem GrantInv.runOnExpiry (h : exec (.runOnExpiry k) s = .next t) : GrantInv t := by
  have h : execRunOnExpiry k s = .next t := h
  unfold execRunOnExpiry at h
  cases h
  split
  · exact inv
  · rename_i due _
    have reached : GrantInv (s.reachSec due) := inv.of_views rfl rfl
    exact reached.setPump k _ (Or.inr (Pump.halted_unasked .off _))

theorem GrantInv.scanExpiry (h : exec .scanExpiry s = .next t) : GrantInv t := by
  have h : execScanExpiry s = .next t := h
  unfold execScanExpiry at h
  cases h
  split
  · exact inv
  · rename_i due _
    have reached : GrantInv (s.reach due) := inv.of_views rfl rfl
    dsimp only
    split_ifs
    · exact reached.of_views rfl rfl
    · exact reached.metrologyFault

theorem GrantInv.periodExpiry (h : exec (.periodExpiry n) s = .next t) : GrantInv t := by
  have h : execPeriodExpiry n s = .next t := h
  unfold execPeriodExpiry at h
  cases h
  split
  · exact inv
  · rename_i due _
    have reached : GrantInv (s.reach due) := inv.of_views rfl rfl
    exact reached.readerPeriodAt n due

end

/-! ## Every step -/

/-- A command keeps GrantInv if its body does. -/
theorem GrantInv.command {s t : State} (inv : GrantInv s) {code tag : Byte} {body : Body}
    (keeps : ∀ u : State, GrantInv u → GrantInv (body u).1) (h : s.command code tag body = .next t) :
    GrantInv t := by
  cases h
  exact (keeps s.beginExchange (inv.of_views rfl rfl)).of_views rfl rfl

theorem GrantInv.exec {i : Instr} {s t : State} (inv : GrantInv s) (h : exec i s = .next t) : GrantInv t := by
  cases moves : movesFlow i with
  | false => exact inv.exec_still moves h
  | true =>
    cases i
    case setConfig => exact inv.command (fun _ inv => inv.setConfigBody _ _ _) h
    case sealPart => exact inv.command (fun _ inv => inv.sealBody) h
    case authorise => exact inv.command (fun _ inv => inv.authoriseBody _ _ _) h
    case stop => exact inv.command (fun _ inv => inv.stopBody _) h
    case estopClear => exact inv.command (fun _ inv => inv.estopClearBody) h
    case restart => cases h; exact GrantInv.restart 2 _
    case powerUp => cases h; exact GrantInv.restart 0 _
    case resetnAssertion => cases h; exact GrantInv.restart 1 _
    case seatEvent n => exact inv.seatEvent n h
    case unseatEvent n => cases h; exact (inv.setSeat n false).unseat n
    case deadmanHeld n => exact inv.deadmanHeld n h
    case deadmanRelease n => exact inv.deadmanRelease n h
    case estopAssertion => exact inv.estopAssertion h
    case pfltAssertion k => exact inv.pfltAssertion k h
    case pfltRelease k => exact inv.pfltRelease k h
    case periodExpiry n => exact inv.periodExpiry n h
    case padMeasurement n count => exact inv.padMeasurement n count h
    case armExpiry n => exact inv.armExpiry n h
    case pauseExpiry n => exact inv.pauseExpiry n h
    case windowExpiry m => exact inv.windowExpiry m h
    case spinUpExpiry k => exact inv.spinUpExpiry k h
    case runOnExpiry k => exact inv.runOnExpiry k h
    case scanExpiry => exact inv.scanExpiry h
    all_goals cases moves

/-- Settles O7: a step is idle or executes the front of the queue, which keeps GrantInv. -/
theorem grantInvKept : Obligations.GrantInvKept := by
  unfold Obligations.GrantInvKept
  intro s t inv h
  unfold step at h
  split at h
  · cases h
    exact inv.of_views (by unfold State.idle; split_ifs <;> rfl) (by unfold State.idle; split_ifs <;> rfl)
  · rename_i c rest _
    exact GrantInv.exec (s := { s with pending := rest }) (inv.of_views rfl rfl) h

end Sys2Proof.Machine
end

section
/-! The spin-up and run-on expiries, the PWM period and the selection of the demand (04, R72; 05, R75, R77, R79, R82,
R84, R85). -/

namespace Sys2Proof.Machine

/-! ## The selection of the demand (R84) -/

theorem State.asksSlow_iff (n : HoseId) (s : State) :
    s.asksSlow n = true ↔
      s.hoses[n].state = .priming ∨ s.hoses[n].state = .flowing ∧ s.drivenStage n = .slow := by
  simp [State.asksSlow]

theorem State.selectedDemand_running (k : CompId) (s : State) (running : s.pumps[k].state = .running) :
    s.selectedDemand k =
      if s.pumps[k].grants.toList.any id then some .full
      else if allHoses.any fun n => s.pumps[k].claims[n] && s.asksSlow n then some .slow
      else some .idle := by
  unfold State.selectedDemand
  rw [running]

/-- A claimant of the pump asks for flow at SLOW. -/
def State.SlowAsked (s : State) (k : CompId) : Prop :=
  ∃ n : HoseId, s.pumps[k].claims[n] = true ∧
    (s.hoses[n].state = .priming ∨ s.hoses[n].state = .flowing ∧ s.drivenStage n = .slow)

theorem State.any_asksSlow_iff (k : CompId) (s : State) :
    (allHoses.any fun n => s.pumps[k].claims[n] && s.asksSlow n) = true ↔ s.SlowAsked k := by
  simp only [List.any_eq_true, Bool.and_eq_true, State.asksSlow_iff, mem_allHoses, true_and, State.SlowAsked]

/-- The demand of a RUNNING pump: FULL with a grant held, else SLOW where a claimant asks for it, else IDLE. -/
theorem State.selectedDemand_cases (k : CompId) (s : State) (running : s.pumps[k].state = .running) :
    ((∃ n : HoseId, s.pumps[k].grants[n] = true) → s.selectedDemand k = some .full) ∧
    ((¬ ∃ n : HoseId, s.pumps[k].grants[n] = true) → s.SlowAsked k → s.selectedDemand k = some .slow) ∧
    ((¬ ∃ n : HoseId, s.pumps[k].grants[n] = true) → ¬ s.SlowAsked k → s.selectedDemand k = some .idle) := by
  rw [s.selectedDemand_running k running, ← any_toList_iff, ← s.any_asksSlow_iff k]
  exact ⟨fun granted => if_pos granted, fun free slow => (if_neg free).trans (if_pos slow),
    fun free idle => (if_neg free).trans (if_neg idle)⟩

/-! ## Requests one after another (R77, R82) -/

/-- The requests of the hoses of a list, in its order. -/
def Pump.requests (maxFull : Nat) (l : List HoseId) (p : Pump) : Pump :=
  l.foldl (fun p n => p.request maxFull n) p

theorem Pump.requests_keeps (maxFull : Nat) (l : List HoseId) (p : Pump) :
    (p.requests maxFull l).state = p.state ∧ (p.requests maxFull l).claims = p.claims ∧
      (p.requests maxFull l).runOn = p.runOn ∧ (p.requests maxFull l).spinUp = p.spinUp := by
  induction l generalizing p with
  | nil => exact ⟨rfl, rfl, rfl, rfl⟩
  | cons n rest ih =>
    obtain ⟨state, claims, runOn, spinUp⟩ := Pump.request_keeps maxFull n p
    rw [← state, ← claims, ← runOn, ← spinUp]
    exact ih (p.request maxFull n)

/-- A request neither reads nor writes the demand. -/
theorem Pump.request_demand (maxFull : Nat) (n : HoseId) (d : Option Demand) (p : Pump) :
    Pump.request maxFull n { p with demand := d } = { p.request maxFull n with demand := d } := by
  unfold Pump.request
  show (if p.grantCount < maxFull ∧ p.queue = [] then _ else _) = _
  split_ifs <;> rfl

theorem Pump.requests_demand (maxFull : Nat) (l : List HoseId) (d : Option Demand) (p : Pump) :
    Pump.requests maxFull l { p with demand := d } = { p.requests maxFull l with demand := d } := by
  induction l generalizing p with
  | nil => rfl
  | cons n rest ih =>
    show Pump.requests maxFull rest (Pump.request maxFull n { p with demand := d }) = _
    rw [Pump.request_demand]
    exact ih (p.request maxFull n)

/-! ## Entries to FLOWING one after another (R77) -/

/-- The hoses of a list whose step stage is FULL at their entry to FLOWING. -/
def State.asking (s : State) (l : List HoseId) : List HoseId :=
  l.filter fun n => decide ((s.hoses[n].flowingStep (s.profileOf n)).stage = .full)

/-- What the entries to FLOWING of the hoses of a list of one compartment leave, from `s` to `t`. -/
structure EntersAll (k : CompId) (l : List HoseId) (s t : State) : Prop where
  frame : t = { s with hoses := t.hoses, pumps := t.pumps }
  entered : ∀ n ∈ l, t.hoses[n] = s.hoses[n].flowing (s.hoses[n].flowingStep (s.profileOf n))
  others : ∀ n : HoseId, n ∉ l → t.hoses[n] = s.hoses[n]
  pump : t.pumps[k] = { s.pumps[k].requests (s.maxFull k) (s.asking l) with demand := t.pumps[k].demand }
  pumps : ∀ j : CompId, j ≠ k → t.pumps[j] = s.pumps[j]

/-- The first entry of a list asks before those of the rest. -/
theorem State.requests_asking_cons (k : CompId) (n : HoseId) (rest : List HoseId) (p : Pump) (s : State) :
    p.requests (s.maxFull k) (s.asking (n :: rest)) =
      (p.entered (s.hoses[n].flowingStep (s.profileOf n)) (s.maxFull k) n).requests (s.maxFull k) (s.asking rest) := by
  unfold State.asking Pump.entered
  by_cases full : (s.hoses[n].flowingStep (s.profileOf n)).stage = .full
  · rw [if_pos full, List.filter_cons_of_pos (by simpa using full)]
    rfl
  · rw [if_neg full, List.filter_cons_of_neg (by simpa using full)]

theorem State.forEach_enterFlowing (k : CompId) (l : List HoseId) (s : State) (once : l.Nodup)
    (own : ∀ n ∈ l, s.hoseComp n = k) : EntersAll k l s (s.forEach l State.enterFlowing) := by
  induction l generalizing s with
  | nil => exact ⟨rfl, nofun, fun _ _ => rfl, rfl, fun _ _ => rfl⟩
  | cons a rest ih =>
    obtain ⟨notin, once⟩ := List.nodup_cons.mp once
    have comp := own a List.mem_cons_self
    show EntersAll k (a :: rest) s ((s.enterFlowing a).forEach rest State.enterFlowing)
    obtain ⟨hoses, pumps, frame⟩ := s.enterFlowing_enters a
    generalize s.enterFlowing a = u at hoses pumps frame ⊢
    have hose (n : HoseId) (ne : n ≠ a) : u.hoses[n] = s.hoses[n] := by rw [hoses, getElem_set_fin, if_neg ne]
    have profile (n : HoseId) : u.profileOf n = s.profileOf n := by rw [frame]; rfl
    have limit : u.maxFull k = s.maxFull k := by rw [frame]; rfl
    have away (n : HoseId) (mem : n ∈ rest) : n ≠ a := fun e => notin (e ▸ mem)
    obtain ⟨frame', entered, others, pump, still⟩ :=
      ih u once fun n mem => by rw [frame]; exact own n (List.mem_cons_of_mem a mem)
    generalize u.forEach rest State.enterFlowing = t at frame' entered others pump still
    have asks : u.asking rest = s.asking rest := List.filter_congr fun n mem => by
      rw [hose n (away n mem), profile]
    subst comp
    have first : u.pumps[s.hoseComp a] =
        { Pump.entered (s.hoses[a].flowingStep (s.profileOf a)) (s.maxFull (s.hoseComp a)) a (s.pumpOf a) with
          demand := u.selectedDemand (s.hoseComp a) } := by
      rw [pumps, getElem_set_fin, if_pos rfl]
    refine ⟨by rw [frame', frame], fun n mem => ?_, fun n out => ?_, ?_, fun j ne => ?_⟩
    · rcases List.mem_cons.mp mem with rfl | mem
      · rw [others n notin, hoses, getElem_set_fin, if_pos rfl]
      · rw [entered n mem, hose n (away n mem), profile]
    · rw [List.mem_cons, not_or] at out
      rw [others n out.2, hose n out.1]
    · rw [pump, s.requests_asking_cons, asks, limit, first, Pump.requests_demand]
      rfl
    · rw [still j ne, pumps, getElem_set_fin, if_neg ne]

/-! ## The spin-up expiry (R77) -/

theorem exec_spinUpExpiry_due (k : CompId) (due : Nat) (s : State) (h : s.pumps[k].spinUp = some due) :
    exec (.spinUpExpiry k) s = .next (((s.reachMs due).spunUp k).reselect k) := by
  show execSpinUpExpiry k s = _
  unfold execSpinUpExpiry
  rw [h]

/-- What a pump's spin-up expiry with claimants leaves, from `s` to `t`. -/
structure SpinsUp (k : CompId) (s t : State) : Prop where
  frame : t = { s with hoses := t.hoses, pumps := t.pumps }
  entered : ∀ n : HoseId, s.pumps[k].claims[n] = true → s.hoses[n].state = .priming →
    t.hoses[n] = s.hoses[n].flowing (s.hoses[n].flowingStep (s.profileOf n))
  others : ∀ n : HoseId, s.pumps[k].claims[n] = false ∨ s.hoses[n].state ≠ .priming → t.hoses[n] = s.hoses[n]
  pump : t.pumps[k] =
    { Pump.requests (s.maxFull k) (s.asking (s.primingClaimants k))
        { s.pumps[k] with spinUp := none, state := .running } with
      demand := t.selectedDemand k }
  pumps : ∀ j : CompId, j ≠ k → t.pumps[j] = s.pumps[j]

theorem State.spunUp_claimed (k : CompId) (s : State) (claimed : s.pumps[k].claims.toList.any id = true)
    (own : ∀ n : HoseId, s.pumps[k].claims[n] = true → s.hoseComp n = k) :
    SpinsUp k s ((s.spunUp k).reselect k) := by
  let running : Pump := { s.pumps[k] with spinUp := none, state := .running }
  have spun : s.spunUp k = (s.setPump k running).forEach (s.primingClaimants k) State.enterFlowing := if_pos claimed
  obtain ⟨frame, entered, others, pump, pumps⟩ := (s.setPump k running).forEach_enterFlowing k
    (s.primingClaimants k) (allHoses_nodup.filter _) fun n mem => own n ((s.mem_primingClaimants k n).mp mem).1
  rw [spun]
  generalize (s.setPump k running).forEach (s.primingClaimants k) State.enterFlowing = u
    at frame entered others pump pumps
  refine ⟨?_, fun n claim priming => ?_, fun n out => ?_, ?_, fun j ne => ?_⟩
  · show State.reselect k u = _
    rw [frame]
    rfl
  · exact entered n ((s.mem_primingClaimants k n).mpr ⟨claim, priming⟩)
  · refine others n fun mem => ?_
    obtain ⟨claim, priming⟩ := (s.mem_primingClaimants k n).mp mem
    exact out.elim (fun unclaimed => ne_true_of_eq_false unclaimed claim) (fun other => other priming)
  · have base : (s.setPump k running).pumps[k] = running := s.setPump_same k running
    rw [State.selectedDemand_reselect, State.reselect_pump, if_pos rfl, pump, base]
    rfl
  · rw [State.reselect_pump, if_neg ne, pumps j ne]
    exact s.setPump_other k j running ne

/-- What a pump's spin-up expiry without claimants leaves, from `s` to `t`. -/
structure SpinsDown (k : CompId) (s t : State) : Prop where
  frame : t = { s with pumps := t.pumps }
  pump : t.pumps[k] = { s.runDown { s.pumps[k] with spinUp := none } with demand := t.selectedDemand k }
  pumps : ∀ j : CompId, j ≠ k → t.pumps[j] = s.pumps[j]

theorem State.spunUp_unclaimed (k : CompId) (s : State) (idle : s.pumps[k].claims.toList.any id = false) :
    SpinsDown k s ((s.spunUp k).reselect k) := by
  let down := s.setPump k (s.runDown { s.pumps[k] with spinUp := none })
  have spun : s.spunUp k = down := if_neg (ne_true_of_eq_false idle)
  have own : down.pumps[k] = s.runDown { s.pumps[k] with spinUp := none } := s.setPump_same k _
  rw [spun]
  refine ⟨rfl, ?_, fun j ne => ?_⟩
  · rw [State.selectedDemand_reselect, State.reselect_pump, if_pos rfl, own]
  · rw [State.reselect_pump, if_neg ne]
    exact s.setPump_other k j _ ne

/-- A pump that runs down from its spin-up is in RUN_ON with an expiry, or OFF without one (R77). -/
theorem State.runDown_eq (p : Pump) (s : State) :
    (0 < s.pumpRunon → s.runDown p =
      { p with state := .runOn, spinUp := none, runOn := some (s.now / 1000000 + s.pumpRunon) }) ∧
    (s.pumpRunon = 0 → s.runDown p = p.halted .off) :=
  ⟨fun long => if_pos long, fun none' => if_neg (by omega)⟩

theorem State.runDown_spinUp (p : Pump) (s : State) : (s.runDown p).spinUp = none := by
  unfold State.runDown
  split_ifs <;> rfl

/-! ## The run-on expiry and the PWM period (R79, R85) -/

theorem exec_runOnExpiry_due (k : CompId) (due : Nat) (s : State) (h : s.pumps[k].runOn = some due) :
    exec (.runOnExpiry k) s = .next ((s.reachSec due).setPump k (s.pumps[k].halted .off)) := by
  show execRunOnExpiry k s = _
  unfold execRunOnExpiry
  rw [h]
  rfl

/-- Both lines of a pump that is OFF with duty 0 are low (R75). -/
theorem State.lines_low (k : CompId) (s : State) (off : s.pumps[k].state = .off) (duty : s.pumps[k].duty = 0) :
    s.prun k = false ∧ s.ppwm k = false := by
  unfold State.prun State.ppwm
  rw [off, duty]
  refine ⟨rfl, ?_⟩
  simp only [Bool.and_eq_false_iff, decide_eq_false_iff_not]
  omega

theorem exec_pwmPeriodStart_due (k : CompId) (due : Nat) (s : State) (h : s.pumps[k].pwmDue = some due) :
    exec (.pwmPeriodStart k) s = .next ((s.reach due).setPump k
      { s.pumps[k] with
        duty := s.dutyOf s.pumps[k].demand, pwmStart := due, pwmDue := some (due + s.pwmPeriod) }) := by
  show execPwmPeriodStart k s = _
  unfold execPwmPeriodStart
  rw [h]
  rfl

/-- Settles O38: the spin-up by whether the pump has claimants, the run-on and the period by their equations, and the
demand by `State.selectedDemand_cases`. -/
theorem pumpExpiriesMovePump : Obligations.PumpExpiriesMovePump := by
  unfold Obligations.PumpExpiriesMovePump
  refine ⟨fun k due s timer own => ?_, fun k due s => ⟨fun timer => ?_, fun timer => ?_⟩, fun k s => ?_⟩
  · intro now claimed entered asking
    let u := s.reachMs due
    have asks : u.asking (u.primingClaimants k) = asking := by
      show (allHoses.filter _).filter _ = _
      rw [List.filter_filter]
      refine List.filter_congr fun n _ => ?_
      rw [Bool.and_comm]
      rfl
    refine ⟨_, exec_spinUpExpiry_due k due s timer, ?_⟩
    cases any : claimed with
    | true =>
      obtain ⟨frame, flows, others, pump, pumps⟩ := u.spunUp_claimed k any own
      obtain ⟨state, claims, -, spinUp⟩ := Pump.requests_keeps (s.maxFull k) asking
        { s.pumps[k] with spinUp := none, state := .running }
      rw [asks] at pump
      refine ⟨?_, ?_, fun _ => ⟨?_, ?_, flows, pump⟩, nofun, nofun, others, pumps, frame⟩
      · rw [pump]; exact spinUp
      · rw [pump]
      · rw [pump]; exact state
      · rw [pump]; exact claims
    | false =>
      obtain ⟨frame, pump, pumps⟩ := u.spunUp_unclaimed k any
      obtain ⟨runsOn, stops⟩ := u.runDown_eq { u.pumps[k] with spinUp := none }
      generalize (u.spunUp k).reselect k = t at frame pump pumps ⊢
      refine ⟨?_, ?_, nofun, fun _ long => ?_, fun _ none' => ?_, fun n _ => ?_, pumps, ?_⟩
      · rw [pump]
        exact u.runDown_spinUp _
      · rw [pump]
      · rw [pump, runsOn long]
        exact ⟨rfl, rfl⟩
      · rw [pump, stops none']
        exact ⟨rfl, rfl, rfl⟩
      · rw [frame]
        rfl
      · rw [frame]
        rfl
  · have own : ((s.reachSec due).setPump k (s.pumps[k].halted .off)).pumps[k] = s.pumps[k].halted .off :=
      State.setPump_same k _ _
    refine ⟨_, exec_runOnExpiry_due k due s timer, ?_, own, State.lines_low k _ ?_ ?_⟩
    · rw [own]
      rfl
    · rw [own]; rfl
    · rw [own]; rfl
  · intro duty
    have same : s.dutyOf s.pumps[k].demand = duty := by
      unfold duty
      rcases s.pumps[k].demand with _ | _ | _ | _ <;> rfl
    rw [exec_pwmPeriodStart_due k due s timer, same]
    rfl
  · obtain ⟨still, starting, runOn⟩ := s.selectedDemand_still k
    refine ⟨still, starting, runOn, fun running => ?_, fun running => ?_, fun running => ?_⟩
    all_goals obtain ⟨full, slow, idle⟩ := s.selectedDemand_cases k running
    · exact full
    · exact slow
    · exact idle

end Sys2Proof.Machine
end

section
/-! An observation of the phase lines counts, or counts a phase error (06, R88, R89). -/

namespace Sys2Proof.Machine

/-! ## The cycle of the phase lines (R88) -/

/-- The pair of levels after a pair in the cycle low-low, A high, both high, B high (R88). -/
def phaseNext (p : Bool × Bool) : Bool × Bool := (!p.2, p.1)

theorem phaseChange_same (p : Bool × Bool) : phaseChange p p = .none := by
  rcases p with ⟨_ | _, _ | _⟩ <;> rfl

theorem phaseChange_next (p : Bool × Bool) : phaseChange p (phaseNext p) = .forward := by
  rcases p with ⟨_ | _, _ | _⟩ <;> rfl

theorem phaseChange_back (p : Bool × Bool) : phaseChange (phaseNext p) p = .backward := by
  rcases p with ⟨_ | _, _ | _⟩ <;> rfl

theorem phaseChange_both (p : Bool × Bool) : phaseChange p (!p.1, !p.2) = .both := by
  rcases p with ⟨_ | _, _ | _⟩ <;> rfl

/-! ## The effect on the window in flight (R88, R89) -/

/-- A transition counts alike whatever the levels held. -/
theorem Meter.countBy_levels (d : Int) (levels : Option (Bool × Bool)) (m : Meter) :
    Meter.countBy d { m with levels } = { m.countBy d with levels } := by
  cases full : m.sat <;> simp [Meter.countBy, full]

theorem Meter.observe_first {m : Meter} (new : Bool × Bool) (held : m.levels = none) :
    m.observe new = { m with levels := some new } := by
  simp only [Meter.observe, held]

section
variable {m : Meter} {old new : Bool × Bool} (held : m.levels = some old)
include held

theorem Meter.observe_same (shows : phaseChange old new = .none) : m.observe new = m := by
  simp only [Meter.observe, held, shows]

theorem Meter.observe_forward (shows : phaseChange old new = .forward) :
    m.observe new = { m.countBy 1 with levels := some new } := by
  simp only [Meter.observe, held, shows, Meter.countBy_levels]

theorem Meter.observe_backward (shows : phaseChange old new = .backward) :
    m.observe new = { m.countBy (-1) with levels := some new } := by
  simp only [Meter.observe, held, shows, Meter.countBy_levels]

theorem Meter.observe_both (shows : phaseChange old new = .both) :
    m.observe new = { m with levels := some new, phaseErr := min 65535 (m.phaseErr + 1) } := by
  simp only [Meter.observe, held, shows, count16, hold_eq]

end

/-! ## The event -/

/-- What an observation that is due does (R88). -/
theorem exec_phaseLineObservation_due (m : MeterId) (due : Nat) (a b : Bool) (s : State)
    (timer : s.meters[m].obsDue = some due) :
    exec (.phaseLineObservation m a b) s = .next
      { s with
        now := max s.now due
        pins := { s.pins with phase := s.pins.phase.set m (a, b) }
        meters := s.meters.set m { s.meters[m].observe (a, b) with obsDue := some (due + 2) } } := by
  show execPhaseLineObservation m a b s = _
  unfold execPhaseLineObservation
  dsimp only
  rw [timer]
  rfl

/-- Settles O40, by the change the observation shows. -/
theorem observationCounts : Obligations.ObservationCounts := by
  unfold Obligations.ObservationCounts
  intro m due a b s timer c next u by_
  have counts (x : Meter) (h : c.observe (a, b) = { x with levels := some (a, b) }) : u x := by
    unfold u
    rw [exec_phaseLineObservation_due m due a b s timer, h]
  refine ⟨fun held => counts c (Meter.observe_first _ held), fun old held => ?_⟩
  refine ⟨fun same => ?_, fun forward => ?_, fun backward => ?_, fun both => ?_⟩
  · refine counts c ((Meter.observe_same held (same ▸ phaseChange_same (a, b))).trans ?_)
    rw [same, ← held]
  · exact counts (by_ 1) (Meter.observe_forward held (forward ▸ phaseChange_next old))
  · exact counts (by_ (-1)) (Meter.observe_backward held (backward ▸ phaseChange_back (a, b)))
  · exact counts _ (Meter.observe_both held (both ▸ phaseChange_both old))

end Sys2Proof.Machine
end

section
/-! The meter factor of a window is taken from the curve of its channel (06, R93, R94). -/

namespace Sys2Proof.Machine

/-! ## The rate of a window (R93) -/

theorem rateOf_eq (c : Int) (nf : Nat) : rateOf c nf = min 65535 (c.natAbs * nf * 240 / 100000) :=
  hold_eq _ _

theorem rateOf_zero (nf : Nat) : rateOf 0 nf = 0 := by
  simp [rateOf_eq]

/-! ## The interpolation between two points (R94) -/

/-- A part of a rise, truncated, lies between nothing and the rise. -/
theorem truncDiv_part_rise {a y d : Int} (rise : 0 ≤ a) (low : 0 ≤ y) (high : y ≤ d) (pos : 0 < d) :
    0 ≤ truncDiv (a * y) d ∧ truncDiv (a * y) d ≤ a := by
  have part : 0 ≤ a * y := Int.mul_nonneg rise low
  unfold truncDiv
  rw [Int.tdiv_eq_ediv_of_nonneg part]
  exact ⟨Int.ediv_nonneg part pos.le, Int.ediv_le_of_le_mul pos (Int.mul_le_mul_of_nonneg_left high rise)⟩

/-- A figure interpolated between two points lies between theirs, both ends included. -/
theorem interpolate_between {h v h' v' x : Int} (low : h ≤ x) (high : x ≤ h') (apart : h < h') :
    min v v' ≤ interpolate h v h' v' x ∧ interpolate h v h' v' x ≤ max v v' := by
  have part (a : Int) (rise : 0 ≤ a) := truncDiv_part_rise (y := x - h) (d := h' - h) rise (by omega) (by omega)
    (by omega)
  unfold interpolate
  rcases le_total v v' with rise | fall
  · obtain ⟨least, most⟩ := part (v' - v) (by omega)
    omega
  · have mirror : truncDiv ((v' - v) * (x - h)) (h' - h) = -truncDiv ((v - v') * (x - h)) (h' - h) := by
      unfold truncDiv
      rw [← Int.neg_tdiv, ← Int.neg_mul, Int.neg_sub]
    obtain ⟨least, most⟩ := part (v - v') (by omega)
    omega

theorem interpolate_left (h v h' v' : Int) : interpolate h v h' v' h = v := by
  simp [interpolate, truncDiv]

/-! ## The figure of a curve (R94) -/

theorem curveAt_first (p : Nat × Nat) (l : List (Nat × Nat)) (x : Nat) (below : x ≤ p.1) :
    curveAt (p :: l) x = p.2 := by
  cases l with
  | nil => rfl
  | cons q rest => exact if_pos below

/-- At the first point and up to the second the figure is interpolated. -/
theorem curveAt_between (p q : Nat × Nat) (rest : List (Nat × Nat)) (x : Nat) (low : p.1 ≤ x) (high : x < q.1) :
    curveAt (p :: q :: rest) x = interpolate p.1 p.2 q.1 q.2 x := by
  rcases Nat.eq_or_lt_of_le low with at' | above
  · rw [curveAt_first p _ x at'.ge, ← at', interpolate_left]
  · rw [curveAt, if_neg (by omega), if_pos high]

/-- A curve at a point or beyond it is the curve from that point on. -/
theorem curveAt_drop (l r : List (Nat × Nat)) (p : Nat × Nat) (x : Nat) (earlier : ∀ q ∈ l, q.1 < p.1)
    (low : p.1 ≤ x) : curveAt (l ++ p :: r) x = curveAt (p :: r) x := by
  have skip (a b : Nat × Nat) (rest : List (Nat × Nat)) (ha : a.1 < p.1) (hb : b.1 ≤ p.1) :
      curveAt (a :: b :: rest) x = curveAt (b :: rest) x := by
    rw [curveAt, if_neg (by omega), if_neg (by omega)]
  induction l with
  | nil => rfl
  | cons a l ih =>
    have rest := ih fun q h => earlier q (List.mem_cons_of_mem _ h)
    have first := earlier a List.mem_cons_self
    cases l with
    | nil => exact skip a p r first le_rfl
    | cons b l =>
      have second := earlier b (List.mem_cons_of_mem _ List.mem_cons_self)
      exact (skip a b (l ++ p :: r) first second.le).trans rest

theorem curveAt_last (l : List (Nat × Nat)) (p : Nat × Nat) (x : Nat) (earlier : ∀ q ∈ l, q.1 < p.1)
    (low : p.1 ≤ x) : curveAt (l ++ [p]) x = p.2 :=
  curveAt_drop l [] p x earlier low

theorem ascending_earlier (l r : List (Nat × Nat)) (p : Nat × Nat)
    (rises : ascending ((l ++ p :: r).map Prod.fst) = true) : ∀ q ∈ l, q.1 < p.1 := by
  rw [ascending_iff, List.pairwise_map, List.pairwise_append] at rises
  obtain ⟨-, -, across⟩ := rises
  exact fun q h => across q h p List.mem_cons_self

theorem curveAt_inner (l r : List (Nat × Nat)) (p q : Nat × Nat) (x : Nat)
    (rises : ascending ((l ++ p :: q :: r).map Prod.fst) = true) (low : p.1 ≤ x) (high : x < q.1) :
    curveAt (l ++ p :: q :: r) x = interpolate p.1 p.2 q.1 q.2 x := by
  rw [curveAt_drop l _ p x (ascending_earlier l _ p rises) low, curveAt_between p q r x low high]

/-- The figure of a curve stays in the range of its points' figures. -/
theorem curveAt_range (lo hi : Int) (l : List (Nat × Nat)) (x : Nat) (some_point : l ≠ [])
    (ranged : ∀ p ∈ l, lo ≤ (p.2 : Int) ∧ (p.2 : Int) ≤ hi) : lo ≤ curveAt l x ∧ curveAt l x ≤ hi := by
  induction l with
  | nil => exact absurd rfl some_point
  | cons p l ih =>
    have first := ranged p List.mem_cons_self
    cases l with
    | nil => exact first
    | cons q rest =>
      have second := ranged q (List.mem_cons_of_mem _ List.mem_cons_self)
      rw [curveAt]
      split_ifs with at' inside
      · exact first
      · have between := interpolate_between (h := p.1) (v := p.2) (h' := q.1) (v' := q.2) (x := x) (by omega)
          (by omega) (by omega)
        omega
      · exact ih (List.cons_ne_nil _ _) fun r h => ranged r (List.mem_cons_of_mem _ h)

/-! ## The curve of a channel (R94) -/

theorem MeterCal.curve_length (c : MeterCal) (bound : c.count ≤ 6) : c.curve.length = c.count := by
  simp [MeterCal.curve, bound]

/-- A curve from one of its points on. -/
theorem MeterCal.curve_drop (c : MeterCal) (p : Fin 6) (inside : p.val < c.count) :
    c.curve.drop p.val = c.points[p] :: c.curve.drop (p.val + 1) := by
  have short : p.val < c.curve.length := by
    simp [MeterCal.curve, inside]
  rw [List.drop_eq_getElem_cons short]
  simp [MeterCal.curve]

/-- A curve split at one of its points. -/
theorem MeterCal.curve_split (c : MeterCal) (p : Fin 6) (inside : p.val < c.count) :
    c.curve = c.curve.take p.val ++ c.points[p] :: c.curve.drop (p.val + 1) := by
  rw [← c.curve_drop p inside, List.take_append_drop]

theorem MeterCal.mem_curve {c : MeterCal} {x : Nat × Nat} (mem : x ∈ c.curve) :
    ∃ p : Fin 6, p.val < c.count ∧ c.points[p] = x := by
  obtain ⟨i, short, rfl⟩ := List.getElem_of_mem mem
  simp only [MeterCal.curve, List.length_take, Vector.length_toList] at short
  exact ⟨⟨i, by omega⟩, by dsimp only; omega, by simp [MeterCal.curve]⟩

theorem MeterCal.factor_first (c : MeterCal) (r : Nat) (some_point : 0 < c.count)
    (below : r ≤ c.points[(0 : Fin 6)].1) : c.factor r = c.points[(0 : Fin 6)].2 := by
  unfold MeterCal.factor
  rw [c.curve_split 0 some_point]
  exact curveAt_first _ _ r below

theorem MeterCal.factor_last (c : MeterCal) (r : Nat) (p : Fin 6) (last : p.val + 1 = c.count)
    (rises : ascending (c.curve.map Prod.fst) = true) (above : c.points[p].1 ≤ r) : c.factor r = c.points[p].2 := by
  have split := c.curve_split p (by omega)
  have none_after : c.curve.drop (p.val + 1) = [] :=
    List.drop_eq_nil_of_le (by rw [c.curve_length (by omega)]; omega)
  rw [none_after] at split
  unfold MeterCal.factor
  rw [split] at rises ⊢
  exact curveAt_last _ _ r (ascending_earlier _ _ _ rises) above

theorem MeterCal.factor_inner (c : MeterCal) (r : Nat) (p q : Fin 6) (adjacent : q.val = p.val + 1)
    (inside : q.val < c.count) (rises : ascending (c.curve.map Prod.fst) = true) (low : c.points[p].1 ≤ r)
    (high : r < c.points[q].1) :
    c.factor r = interpolate c.points[p].1 c.points[p].2 c.points[q].1 c.points[q].2 r := by
  have split := c.curve_split p (by omega)
  rw [← adjacent, c.curve_drop q inside] at split
  unfold MeterCal.factor
  rw [split] at rises ⊢
  exact curveAt_inner _ _ _ _ r rises low high

theorem MeterCal.factor_range (c : MeterCal) (r : Nat) (some_point : 0 < c.count)
    (ranged : ∀ p : Fin 6, p.val < c.count → 1 ≤ c.points[p].2 ∧ c.points[p].2 ≤ 16777215) :
    1 ≤ c.factor r ∧ c.factor r ≤ 16777215 := by
  refine curveAt_range 1 16777215 c.curve r ?_ fun x mem => ?_
  · rw [c.curve_split 0 some_point]
    exact List.cons_ne_nil _ _
  · obtain ⟨p, inside, rfl⟩ := MeterCal.mem_curve mem
    have := ranged p inside
    omega

/-- Settles O41: the channel's curve is the list of its points in use, split at the point the rate has reached. -/
theorem meterFactorFollowsCurve : Obligations.MeterFactorFollowsCurve := by
  unfold Obligations.MeterFactorFollowsCurve
  refine ⟨fun m s => ⟨rfl, fun still => ?_⟩, fun c r two six apart => ?_, fun p l x => curveAt_first p l x,
    fun l p x => curveAt_last l p x, fun l r p q x => curveAt_inner l r p q x⟩
  · rw [State.windowOf_eq, still]
    exact rateOf_zero _
  · have rises : ascending (c.curve.map Prod.fst) = true := (ascending_points c.points c.count).mpr apart
    refine ⟨c.factor_first r (by omega), fun p last => c.factor_last r p last rises,
      fun p q adjacent inside low high => ?_, c.factor_range r (by omega)⟩
    have factor := c.factor_inner r p q adjacent inside rises low high
    have between := interpolate_between (h := c.points[p].1) (v := c.points[p].2) (h' := c.points[q].1)
      (v' := c.points[q].2) (x := r) (by omega) (by omega) (by omega)
    rw [factor]
    refine ⟨rfl, between.1, between.2, fun at' => ?_⟩
    rw [at', interpolate_left]

end Sys2Proof.Machine
end

section
/-! The expiry of a stray window of a hose meter and of MR (06, R90, R96 to R99), and the steps of a window's arithmetic
(06, R95; 07, R105, R106). -/

namespace Sys2Proof.Machine

/-! ## Net and gross steps and the volume correction (R95, R105, R106) -/

theorem floor_step (g d : Int) (pos : 0 < d) :
    d * floorDiv g d + floorRem g d = g ∧ 0 ≤ floorRem g d ∧ floorRem g d < d :=
  ⟨Int.mul_ediv_add_emod g d, Int.emod_nonneg g pos.ne', Int.emod_lt_of_pos g pos⟩

/-- A multiple of 100 with less than a half beside it rounds to the multiple. -/
theorem roundAway_near (a e : Int) (low : 100 * e - 50 < a) (high : a < 100 * e + 50) : roundAway a 100 = e := by
  unfold roundAway
  split_ifs <;> omega

/-- A half above 0 rounds up, and its negative down. -/
theorem roundAway_half (a e : Int) (pos : 0 < e) (half : a = 100 * e - 50) :
    roundAway a 100 = e ∧ roundAway (-a) 100 = -e := by
  unfold roundAway
  rw [if_pos (by omega), if_neg (by omega)]
  omega

/-! ## The expiry of a stray window of a hose meter (R49, R90) -/

theorem State.applyArmed_eq (n : HoseId) (s : State) :
    s.applyArmed (meterOf n) = { s with
      hoses := if s.hoses[n].state = .armed then
        s.hoses.set n { s.hoses[n] with
          preset := (s.hoses[n].pendingPreset).or s.hoses[n].preset, pendingPreset := none }
        else s.hoses } := by
  unfold State.applyArmed State.applyPending
  rw [hoseOfMeter_meterOf]
  dsimp only
  rw [Hose.applyPending_eq]
  split_ifs <;> rfl

theorem State.nextWindow_nextWindow (m : MeterId) (due next : Nat) (s : State) :
    (s.nextWindow m due).nextWindow m next = s.nextWindow m next := by
  rw [State.nextWindow_set m next _ s.meters (s.nextWindow m due) rfl]
  rfl

theorem State.setMeter_attach (s : State) (m : MeterId) {owner : Attachment} (own : s.meters[m].attach = owner) :
    s.setMeter m { s.meters[m] with attach := owner } = s := by
  subst own
  unfold State.setMeter
  exact congrArg (fun meters : Vector Meter 5 => { s with meters }) (Vector.set_getElem_self _)

/-- The expiry of a STRAY window is a window restart that leaves the channel so, with the next window
counted from the due time. -/
theorem exec_windowExpiry_stray (n : HoseId) (due : Nat) (s : State) (timer : s.meters[meterOf n].due = some due)
    (attached : s.meters[meterOf n].attach = .stray) :
    exec (.windowExpiry (meterOf n)) s = .next
      ((((s.reach due).applyArmed (meterOf n)).windowRestart (meterOf n) .stray).nextWindow (meterOf n)
        (due + 250000)) := by
  let v := (s.reach due).applyArmed (meterOf n)
  let w := v.windowOf (meterOf n)
  let strayed := (v.noteRate (meterOf n) w.rate).strayWindow n w
  have own : v.meters[meterOf n].attach = .stray := by
    unfold v
    rw [State.applyArmed_eq]
    exact attached
  have expires : exec (.windowExpiry (meterOf n)) s = .next (strayed.nextWindow (meterOf n) (due + 250000)) := by
    have noted : (v.noteRate (meterOf n) w.rate).meters[meterOf n].attach = .stray :=
      (congrArg Meter.attach (Vector.getElem_set_self _)).trans own
    have owner : (v.noteRate (meterOf n) w.rate).account (meterOf n) w = strayed := by
      unfold State.account State.accountStray
      rw [noted, hoseOfMeter_meterOf]
    show execWindowExpiry (meterOf n) s = _
    unfold execWindowExpiry
    rw [timer]
    exact congrArg (fun u : State => Host.Outcome.next (u.nextWindow (meterOf n) (due + 250000))) owner
  have restart : v.windowRestart (meterOf n) .stray = strayed.nextWindow (meterOf n) (strayed.now + 250000) := by
    obtain ⟨meters, -⟩ := v.strayWindow_noted n w
    have detached : strayed.meters[meterOf n].attach = .stray := by
      unfold strayed
      rw [meters]
      exact (congrArg Meter.attach (Vector.getElem_set_self _)).trans own
    unfold State.windowRestart State.accountStray
    rw [hoseOfMeter_meterOf]
    exact congrArg (fun u : State => u.nextWindow (meterOf n) (u.now + 250000))
      (strayed.setMeter_attach (meterOf n) detached)
  rw [expires, restart, State.nextWindow_nextWindow]

theorem AccountsStray.nextWindow {n : HoseId} {s t : State} (h : AccountsStray n s t) (due : Nat) :
    AccountsStray n s (t.nextWindow (meterOf n) due) := by
  have own : (t.nextWindow (meterOf n) due).meters[meterOf n] =
      { t.meters[meterOf n] with count := 0, sat := false, phaseErr := 0, due := some due } :=
    Vector.getElem_set_self _
  obtain ⟨stray, rate, rest⟩ := h
  exact ⟨(congrArg Meter.stray own).trans stray, (congrArg Meter.lastRate own).trans rate, rest⟩

/-- What the expiry of a stray window of hose `n`'s channel leaves, from `s` to `t`, with the hoses as given (R49,
R90). -/
structure StrayExpires (n : HoseId) (due : Nat) (hoses : Vector Hose 4) (s t : State) : Prop where
  accounts : AccountsStray n { s with now := max s.now due } t
  meters : t.meters = s.meters.set (meterOf n) { s.meters[meterOf n] with
    count := 0, sat := false, phaseErr := 0, due := some (due + 250000)
    lastRate := t.meters[meterOf n].lastRate, stray := t.meters[meterOf n].stray }
  frame : t = { s with
    now := max s.now due, hoses, meters := t.meters, stock := t.stock, link := t.link, port := t.port }

/-- A restart that leaves the channel STRAY, with the next window counted from the due time, is an expiry. -/
theorem Restarts.expires {n : HoseId} {due : Nat} {hoses : Vector Hose 4} {s r : State}
    (attached : s.meters[meterOf n].attach = .stray)
    (h : Restarts n .stray { s with now := max s.now due, hoses } r) :
    StrayExpires n due hoses s (r.nextWindow (meterOf n) (due + 250000)) := by
  obtain ⟨accounts, meters, frame⟩ := h
  have own : (r.nextWindow (meterOf n) (due + 250000)).meters[meterOf n] =
      { r.meters[meterOf n] with count := 0, sat := false, phaseErr := 0, due := some (due + 250000) } :=
    Vector.getElem_set_self _
  refine ⟨?_, ?_, ?_⟩
  · exact (accounts.nextWindow (due + 250000)).of_moved (s := { s with now := max s.now due }) (pins := s.pins)
      (pumps := s.pumps) rfl rfl rfl rfl
  · rw [own, State.nextWindow_set (meterOf n) (due + 250000) _ _ r meters, ← attached]
  · exact congrArg (fun u : State => u.nextWindow (meterOf n) (due + 250000)) frame

/-- A window that opens an episode posts STRAY_FLOW last, where its kind is not masked and the queue has room for what
the change of the book can post. -/
theorem AccountsStray.posts {n : HoseId} {s t : State} (h : AccountsStray n s t)
    (flows : s.meters[meterOf n].count ≠ 0) (quiet : s.meters[meterOf n].stray.episode = false)
    (shown : s.port.mask.getLsbD 4 = false) (room : s.port.events.length ≤ 28) :
    t.port.events.getLast? = some
      { kind := .strayFlow, subject := .hose n, value := s.meters[meterOf n].count
        postedAt := s.now / 1000000 } := by
  obtain ⟨-, -, -, -, -, port⟩ := h
  rw [if_pos ⟨flows, quiet⟩] at port
  have last (u : State) (grows : GrowsBy 3 s u) (now : u.now = s.now) :
      (u.post .strayFlow (.hose n) s.meters[meterOf n].count).port.events.getLast? = some
        { kind := .strayFlow, subject := .hose n, value := s.meters[meterOf n].count
          postedAt := s.now / 1000000 } := by
    have fits : u.port.events.length < Config.eventRoom :=
      Nat.lt_of_le_of_lt (grows.events.trans (Nat.add_le_add_right room 3)) (by decide)
    rw [State.post_queued _ _ _ _ (by rw [grows.mask]; exact shown) fits, List.getLast?_concat]
    unfold State.nowSec
    rw [now]
  rw [port]
  split_ifs
  · exact last s ((GrowsBy.refl s).mono (by decide)) rfl
  · exact last _ (State.rebooked_grows _ _ _) (State.rebooked_frame _ _ _).1

/-! ## The expiry of a stray window of MR (R99) -/

/-- An episode after a window of a count, by whether the count is 0 (R98). -/
theorem StrayAcc.episodeAfter_by_count (quietMax : Nat) (c : Int) (a : StrayAcc) :
    let quiet := if a.episode = true ∧ c = 0 then a.quiet + 1 else if c = 0 then a.quiet else 0
    a.episodeAfter quietMax c =
      { a with episode := if c = 0 then a.episode && decide (quiet < quietMax) else true, quiet } := by
  rw [StrayAcc.episodeAfter_eq]
  by_cases flows : c = 0 <;> simp [flows]

/-- A posting does not see a window start. -/
theorem State.post_nextWindow (kind : EventKind) (subject : EventSubject) (value : Int) (m : MeterId) (due : Nat)
    (s : State) :
    (s.post kind subject value).nextWindow m due = (s.nextWindow m due).post kind subject value := by
  unfold State.post State.nextWindow State.setMeter
  dsimp only
  split_ifs <;> rfl

theorem exec_windowExpiry_strayMR (due : Nat) (s : State) (timer : s.meters[meterMR].due = some due)
    (attached : s.meters[meterMR].attach = .stray) :
    let c := s.meters[meterMR]
    let u : State := { s with
      now := max s.now due
      meters := s.meters.set meterMR { c with
        count := 0, sat := false, phaseErr := 0, due := some (due + 250000)
        lastRate := rateOf c.count s.metro.meters[meterMR].nf
        stray := c.stray.episodeAfter s.settleQuiet c.count } }
    exec (.windowExpiry meterMR) s =
      .next (if c.stray.opens c.count then u.post .receiptStray .none c.count else u) := by
  intro c u
  let rate := rateOf c.count s.metro.meters[meterMR].nf
  let noted := (s.reach due).noteRate meterMR rate
  let ended := noted.setMeter meterMR { c with lastRate := rate, stray := c.stray.episodeAfter s.settleQuiet c.count }
  have own : noted.meters[meterMR] = { c with lastRate := rate } := Vector.getElem_set_self _
  have owner : noted.account meterMR ((s.reach due).windowOf meterMR) =
      if c.stray.opens c.count then ended.post .receiptStray .none c.count else ended := by
    have attach : noted.meters[meterMR].attach = .stray := by rw [own]; exact attached
    unfold State.account
    rw [attach]
    show noted.strayEpisode meterMR .receiptStray .none c.count = _
    unfold State.strayEpisode
    rw [own]
    rfl
  have next : ended.nextWindow meterMR (due + 250000) = u := by
    rw [State.nextWindow_set meterMR (due + 250000) _ noted.meters _ rfl]
    exact congrArg (fun meters : Vector Meter 5 => { s with now := max s.now due, meters }) (Vector.set_set ..)
  have expires : exec (.windowExpiry meterMR) s =
      .next ((noted.account meterMR ((s.reach due).windowOf meterMR)).nextWindow meterMR (due + 250000)) := by
    show execWindowExpiry meterMR s = _
    unfold execWindowExpiry
    rw [timer]
    rfl
  rw [expires, owner]
  split_ifs
  · rw [State.post_nextWindow, next]
  · rw [next]

theorem exec_windowExpiry_absent (m : MeterId) (s : State) (absent : s.meters[m].due = none) :
    exec (.windowExpiry m) s = .next s := by
  show execWindowExpiry m s = _
  unfold execWindowExpiry
  rw [absent]

/-- Settles O42: the expiry of a hose's stray window as a window restart, that of MR by its episode, and the steps
by floor division and rounding. -/
theorem strayWindowMovesToBook : Obligations.StrayWindowMovesToBook := by
  unfold Obligations.StrayWindowMovesToBook
  refine ⟨fun n due s timer attached => ?_, fun due s timer attached => ?_, exec_windowExpiry_absent, rateOf_eq,
    fun c mf gRem => floor_step _ 256 (by decide), fun dg vcf nRem => floor_step _ 1000000 (by decide), fun _ => rfl,
    fun alpha t e low high => ?_, fun alpha t e pos half => ?_⟩
  · intro c
    have expires := exec_windowExpiry_stray n due s timer attached
    have restarts := ((s.reach due).applyArmed (meterOf n)).windowRestart_restarts n .stray
    rw [State.applyArmed_eq] at expires restarts
    obtain ⟨accounts, meters, frame⟩ := restarts.expires (due := due) (s := s) attached
    generalize State.nextWindow _ _ _ = t at expires accounts meters frame
    have now : t.now = max s.now due := congrArg State.now frame
    have hoses := congrArg State.hoses frame
    refine ⟨t, expires, now, accounts, fun flows quiet shown room => ?_, meters, hoses, ?_⟩
    · rw [now]
      exact accounts.posts flows quiet shown room
    · rw [now, hoses]
      exact frame
  · intro c opens now quiet episode u
    have expires := exec_windowExpiry_strayMR due s timer attached
    simp only [StrayAcc.episodeAfter_by_count] at expires
    exact expires
  · have near := roundAway_near _ e low high
    exact ⟨congrArg (1000000 - ·) near, congrArg (1000000 - ·) near⟩
  · obtain ⟨up, down⟩ := roundAway_half _ e pos half
    have mirror : (alpha : Int) * (3000 - t - 1500) = -(alpha * (t - 1500)) := by ring
    refine ⟨congrArg (1000000 - ·) up, ?_⟩
    show 1000000 - roundAway (alpha * (3000 - t - 1500)) 100 = _
    rw [mirror, down, Int.sub_neg]

end Sys2Proof.Machine
end

section
/-! The analog sampler and the level block (07, R101 to R103; 09, R131 to R133, R138). -/

namespace Sys2Proof.Machine

/-! ## The blocks of an input (R100 to R102) -/

theorem SamplerInput.setFilling_eq (l : List Nat) (x : SamplerInput) :
    (x.setFilling l).filling = l ∧ (x.setFilling l).fillSecond = x.fillSecond ∧
      (x.setFilling l).value = x.value := by
  unfold SamplerInput.setFilling SamplerInput.filling
  cases x.fillSecond <;> simp

/-- The block that is not being filled: the last complete one (R102). -/
def SamplerInput.resting (x : SamplerInput) : List Nat := if x.fillSecond then x.first else x.second

/-- A sample enters the filling block alone (R101). -/
theorem SamplerInput.take_eq (v : Nat) (x : SamplerInput) :
    (x.take v).filling = x.filling ++ [v] ∧ (x.take v).fillSecond = x.fillSecond ∧ (x.take v).value = x.value :=
  SamplerInput.setFilling_eq _ x

/-- A complete block rests with its mean as the input's value, and the other is filled from its start (R102). -/
theorem SamplerInput.complete_eq (x : SamplerInput) :
    x.complete.value = some (x.filling.sum / 16) ∧ x.complete.fillSecond = !x.fillSecond ∧
      x.complete.filling = [] ∧ x.complete.resting = x.filling := by
  unfold SamplerInput.complete SamplerInput.setFilling SamplerInput.filling SamplerInput.resting
  cases x.fillSecond <;> exact ⟨rfl, rfl, rfl, rfl⟩

/-! ## The conversion of a temperature (R103) -/

theorem Temperature.convert_eq (cal : Nat × Int) (m : Nat) (old : Temperature) :
    Temperature.convert (some cal) m old =
      if 16 ≤ m ∧ m ≤ 4079 then .good (max (-4000) (min 7000 (((m : Int) * cal.1) / 4096 + cal.2)))
      else old.faulted := by
  rw [← clampInt_eq _ _ _ (by decide)]
  rfl

/-! ## A sample (R101, R102) -/

theorem probeAt_level (pos : Fin 5) (k : CompId) (at' : pos.val = k.val) : probeAt pos = .level k := by
  revert pos k
  decide

theorem probeAt_temp (pos : Fin 5) (i : Fin 3) (at' : pos.val = i.val + 2) : probeAt pos = .temp i := by
  revert pos i
  decide

/-- The part after a sample that was due, with the input at the scan position as given: the clock at the due time,
the scan moved on, the next sample due 2 ms later (R101). -/
def State.sampled (due : Nat) (y : SamplerInput) (s : State) : State :=
  { s with
    now := max s.now due
    sampler := { s.sampler with
      due := some (due + 2000), pos := s.sampler.pos + 1, inputs := s.sampler.inputs.set s.sampler.pos y } }

/-- A sample enters the filling block of the input at the scan position, and the sixteenth completes the block, which
goes on to its use (R101, R102). -/
theorem exec_analogSample (v : BitVec 12) (due : Nat) (s : State) (timer : s.sampler.due = some due)
    (x : SamplerInput) (taken : s.sampler.inputs[s.sampler.pos].take v.toNat = x) :
    exec (.analogSample v) s = .next
      (if 16 ≤ x.filling.length then
        (s.sampled due x.complete).useBlock (probeAt s.sampler.pos) (x.filling.sum / 16)
      else s.sampled due x) := by
  have samples : exec (.analogSample v) s = .next (State.takeSample v.toNat
      { s with now := max s.now due, sampler := { s.sampler with due := some (due + 2000) } }) := by
    show execAnalogSample v s = _
    unfold execAnalogSample
    rw [timer]
    rfl
  rw [samples]
  subst taken
  dsimp only [State.takeSample]
  by_cases full : 16 ≤ (s.sampler.inputs[s.sampler.pos].take v.toNat).filling.length
  · rw [if_pos full, decide_eq_true (p := blockLength ≤ _) full]
    rfl
  · rw [if_neg full, decide_eq_false (p := blockLength ≤ _) full]
    rfl

/-! ## The median of five values (R131) -/

theorem medianOf_eq_insertionSort (l : List Nat) : medianOf l = (l.insertionSort (· ≤ ·)).getD 2 0 := by
  have insert : insertRising = List.orderedInsert (· ≤ ·) := by
    funext x l
    induction l with
    | nil => rfl
    | cons y rest ih => rw [insertRising, List.orderedInsert_cons, ih]
  rw [medianOf, insert]
  rfl

/-- Of five values in rising order, one with at most two below it and at most two above it is the third. -/
theorem third_of_rising (l : List Nat) (m : Nat) (rising : l.Pairwise (· ≤ ·)) (five : l.length = 5)
    (below : (l.countP fun x => decide (x < m)) ≤ 2) (above : (l.countP fun x => decide (m < x)) ≤ 2) :
    l.getD 2 0 = m := by
  match l, five with
  | [a, b, c, d, e], _ =>
    obtain ⟨ab, bc, cd, de⟩ : a ≤ b ∧ b ≤ c ∧ c ≤ d ∧ d ≤ e := by
      simp at rising
      omega
    show c = m
    rcases Nat.lt_trichotomy c m with lt | eq | gt
    · have : 3 ≤ [a, b, c, d, e].countP fun x => decide (x < m) := by
        simp [List.countP_cons, lt, bc.trans_lt lt, (ab.trans bc).trans_lt lt]
      omega
    · exact eq
    · have : 3 ≤ [a, b, c, d, e].countP fun x => decide (m < x) := by
        simp only [List.countP_cons, gt, gt.trans_le cd, gt.trans_le (cd.trans de), decide_true, if_true]
        omega
      omega

theorem medianOf_eq (l : List Nat) (m : Nat) (five : l.length = 5)
    (below : (l.countP fun x => decide (x < m)) ≤ 2) (above : (l.countP fun x => decide (m < x)) ≤ 2) :
    medianOf l = m := by
  have same := List.perm_insertionSort (· ≤ ·) l
  rw [medianOf_eq_insertionSort]
  refine third_of_rising _ m (List.pairwise_insertionSort _ l) (same.length_eq.trans five) ?_ ?_
  · rwa [same.countP_eq]
  · rwa [same.countP_eq]

/-! ## Reconciliation and the high-level test (R133, R138) -/

/-- The part with a compartment's variance written (R133). -/
def State.putVariance (k : CompId) (v : Variance) (s : State) : State :=
  { s with stock := { s.stock with variance := s.stock.variance.set k v } }

/-- Reconciliation where it applies (R133): an event when the variance comes to stand outside its tolerance. -/
theorem State.reconcile_applied (k : CompId) (gauge : Int) (s : State) (applies : s.reconciles k = true) :
    let v := gauge - s.stock.books[k].value
    let outside : Bool := decide (s.varianceTol * 1000 < |v|)
    let t := s.putVariance k { value := some v, outside }
    s.reconcile k gauge =
      if outside = true ∧ s.stock.variance[k].outside = false then t.post .variance (.comp k) (truncDiv v 1000)
      else t := by
  unfold State.reconcile
  rw [if_pos applies]
  simp only [Int.abs_eq_natAbs, Bool.and_eq_true, Bool.not_eq_true', State.putVariance]

theorem State.reconcile_unapplied (k : CompId) (gauge : Int) (s : State) (unapplied : s.reconciles k = false) :
    s.reconcile k gauge = s.putVariance k { value := none, outside := false } :=
  if_neg (ne_true_of_eq_false unapplied)

/-- Reconciliation changes the compartment's variance and the port alone. -/
theorem State.reconcile_eq (k : CompId) (gauge : Int) (s : State) :
    ∃ (v : Variance) (port : Port), s.reconcile k gauge = { s.putVariance k v with port } := by
  cases applies : s.reconciles k with
  | false => exact ⟨_, _, State.reconcile_unapplied k gauge s applies⟩
  | true =>
    rw [State.reconcile_applied k gauge s applies]
    dsimp only
    split_ifs
    · exact ⟨_, _, State.post_eq ..⟩
    · exact ⟨_, _, rfl⟩

theorem State.reconciles_session (k : CompId) (s : State) (applies : s.reconciles k = true) :
    s.stock.session = none := by
  unfold State.reconciles at applies
  simp only [Bool.and_eq_true, Option.isNone_iff_eq_none] at applies
  obtain ⟨⟨-, closed⟩, -⟩ := applies
  exact closed

/-- The high-level test without a session of its compartment whose permit is RAISED (R138). -/
theorem State.highLevelTest_idle (k : CompId) (s : State)
    (idle : ∀ x : Session, s.stock.session = some x → x.comp ≠ k ∨ x.permit ≠ .raised) :
    s.highLevelTest k = s := by
  rcases s.highLevelTest_cases k with e | ⟨x, session, comp, permit, -, -⟩
  · exact e
  · rcases idle x session with ne | ne
    · exact absurd comp ne
    · exact absurd permit ne

/-- The high-level test of a session whose permit is RAISED (R138). -/
theorem State.highLevelTest_raised (s : State) (x : Session) (session : s.stock.session = some x)
    (raised : x.permit = .raised) :
    s.highLevelTest x.comp =
      if s.highByBook x = true ∨ s.highByGauge x = true then s.dropPermit x (s.highByBook x) else s := by
  unfold State.highLevelTest
  rw [session]
  simp [raised]

/-- The high-level test changes the session, its journal and the port alone. -/
theorem State.highLevelTest_eq (k : CompId) (s : State) :
    ∃ (session : Option Session) (rjournal : Option ReceiptJournal) (port : Port),
      s.highLevelTest k = { s with port, stock := { s.stock with session, rjournal } } := by
  rcases s.highLevelTest_cases k with e | ⟨x, -, -, -, -, e⟩ <;> rw [e]
  · exact ⟨_, _, _, rfl⟩
  · exact ⟨_, _, _, State.post_eq ..⟩

/-! ## A block of a level (R131 to R133) -/

theorem pushHistory_eq (h : List Nat) (v : Nat) (short : h.length ≤ 5) :
    pushHistory h v = if (h ++ [v]).length = 6 then (h ++ [v]).tail else h ++ [v] := by
  have full : 5 < (h ++ [v]).length ↔ (h ++ [v]).length = 6 := by
    rw [List.length_append, List.length_singleton]
    omega
  unfold pushHistory
  simp only [full, List.drop_one]

theorem State.levelBlock_short (k : CompId) (value : Nat) (s : State) (history : List Nat)
    (pushed : pushHistory s.stock.history[k] value = history) (short : history.length < 5) :
    s.levelBlock k value = { s with stock := { s.stock with history := s.stock.history.set k history } } := by
  subst pushed
  exact if_pos short

/-- The part with a level's history, its level in mm and its gauge net written (R131, R132), before the
reconciliation. -/
def State.gauged (k : CompId) (history : List Nat) (mm gauge : Int) (s : State) : State :=
  { s with stock := { s.stock with
      history := s.stock.history.set k history, levels := s.stock.levels.set k (some { mm, gauge }) } }

/-- What a full history leads to (R131 to R133, R138): the level and its gauge net, the reconciliation, then the
high-level test. -/
def State.levelled (k : CompId) (history : List Nat) (mm gauge : Int) (s : State) : State :=
  ((s.gauged k history mm gauge).reconcile k gauge).highLevelTest k

/-- A level block that fills the history (R131). -/
theorem State.levelBlock_full (k : CompId) (value : Nat) (s : State) (history : List Nat)
    (pushed : pushHistory s.stock.history[k] value = history) (five : history.length = 5) (mm : Int)
    (level : levelMm (medianOf history) (s.zero k) (s.span k) = mm) :
    s.levelBlock k value = s.levelled k history mm (s.gaugeOf k mm) := by
  subst pushed level
  exact if_neg (by omega)

section
variable (k : CompId) (history : List Nat) (mm gauge : Int) (s : State)

theorem State.levelled_frame :
    let t := s.levelled k history mm gauge
    t.stock.history = s.stock.history.set k history ∧
    t.stock.levels = s.stock.levels.set k (some { mm, gauge }) ∧
    t = { s with
      port := t.port
      stock := { s.stock with
        history := t.stock.history, levels := t.stock.levels, variance := t.stock.variance
        session := t.stock.session, rjournal := t.stock.rjournal } } := by
  intro t
  obtain ⟨v, posted, reconciled⟩ := State.reconcile_eq k gauge (s.gauged k history mm gauge)
  obtain ⟨session, rjournal, port, tested⟩ :=
    State.highLevelTest_eq k { (s.gauged k history mm gauge).putVariance k v with port := posted }
  have whole : t = _ := (congrArg (State.highLevelTest k) reconciled).trans tested
  rw [whole]
  exact ⟨rfl, rfl, rfl⟩

/-- A level while reconciliation applies (R133): no session is there for the high-level test. -/
theorem State.levelled_applied (applies : s.reconciles k = true) :
    let t := s.levelled k history mm gauge
    let variance := gauge - s.stock.books[k].value
    let outside : Bool := decide (s.varianceTol * 1000 < |variance|)
    t.stock.variance = s.stock.variance.set k { value := some variance, outside } ∧
    t.stock.session = none ∧
    (outside = true → s.stock.variance[k].outside = false →
      t.port = (s.post .variance (.comp k) (truncDiv variance 1000)).port) ∧
    (outside = false ∨ s.stock.variance[k].outside = true → t.port = s.port) := by
  intro t variance outside
  have session := s.reconciles_session k applies
  let u := (s.gauged k history mm gauge).putVariance k { value := some variance, outside }
  have tested : t = (s.gauged k history mm gauge).reconcile k gauge := by
    refine State.highLevelTest_idle k _ fun x present => ?_
    obtain ⟨v, port, e⟩ := State.reconcile_eq k gauge (s.gauged k history mm gauge)
    rw [e] at present
    cases session.symm.trans present
  have reconciled : t = if outside = true ∧ s.stock.variance[k].outside = false then
      u.post .variance (.comp k) (truncDiv variance 1000) else u :=
    tested.trans (State.reconcile_applied k gauge (s.gauged k history mm gauge) applies)
  by_cases leaves : outside = true ∧ s.stock.variance[k].outside = false
  · rw [reconciled, if_pos leaves, State.post_eq]
    refine ⟨rfl, session, fun _ _ => ?_, fun stays => ?_⟩
    · exact (SameLink.post (u := u) (v := s) ⟨rfl, rfl, rfl, rfl⟩ _ _ _).port
    · obtain ⟨out, was⟩ := leaves
      rw [out, was] at stays
      simp at stays
  · rw [reconciled, if_neg leaves]
    exact ⟨rfl, session, fun out was => absurd ⟨out, was⟩ leaves, fun _ => rfl⟩

variable (unapplied : s.reconciles k = false)
include unapplied

/-- A level while reconciliation does not apply (R133): the variance is absent, and the high-level test follows. -/
theorem State.levelled_unapplied :
    s.levelled k history mm gauge =
      ((s.gauged k history mm gauge).putVariance k { value := none, outside := false }).highLevelTest k :=
  congrArg (State.highLevelTest k) (State.reconcile_unapplied k gauge (s.gauged k history mm gauge) unapplied)

theorem State.levelled_unapplied_variance :
    (s.levelled k history mm gauge).stock.variance =
      s.stock.variance.set k { value := none, outside := false } := by
  obtain ⟨session, rjournal, port, tested⟩ := State.highLevelTest_eq k
    ((s.gauged k history mm gauge).putVariance k { value := none, outside := false })
  rw [State.levelled_unapplied k history mm gauge s unapplied, tested]
  rfl

/-- A level without a RAISED permit of its compartment (R138). -/
theorem State.levelled_idle
    (idle : ∀ x : Session, s.stock.session = some x → x.comp ≠ k ∨ x.permit ≠ .raised) :
    let t := s.levelled k history mm gauge
    t.stock.session = s.stock.session ∧ t.stock.rjournal = s.stock.rjournal ∧ t.port = s.port := by
  intro t
  have untouched : t = _ :=
    (State.levelled_unapplied k history mm gauge s unapplied).trans (State.highLevelTest_idle k _ idle)
  rw [untouched]
  exact ⟨rfl, rfl, rfl⟩

/-- A level of the compartment of a RAISED permit (R138): the permit drops by the book or by the gauge. -/
theorem State.levelled_raised (x : Session) (session : s.stock.session = some x) (comp : x.comp = k)
    (raised : x.permit = .raised) :
    let t := s.levelled k history mm gauge
    let figure : Int := s.capacity x.comp * s.highFill
    let byBook := figure ≤ s.stock.books[k].value + truncDiv x.acc.net 1000
    (byBook ∨ figure ≤ gauge →
      t.stock.session = some { x with permit := .dropped } ∧
      t.stock.rjournal = some ({ x with permit := .dropped } : Session).journal ∧
      t.port = (s.post .highLevel (.comp k) (if byBook then 0 else 1)).port) ∧
    (¬ byBook → gauge < figure → t.stock.session = some x ∧ t.port = s.port) := by
  intro t figure byBook
  subst comp
  let u := (s.gauged x.comp history mm gauge).putVariance x.comp { value := none, outside := false }
  have book : u.highByBook x = decide byBook := rfl
  have level : u.highByGauge x = decide (figure ≤ gauge) := by
    have written : u.stock.levels[x.comp] = some { mm, gauge } := Vector.getElem_set_self ..
    unfold State.highByGauge
    rw [written]
    rfl
  have tested : t = if byBook ∨ figure ≤ gauge then u.dropPermit x (decide byBook) else u := by
    have test := State.highLevelTest_raised u x session raised
    simp only [book, level, decide_eq_true_eq] at test
    exact (State.levelled_unapplied x.comp history mm gauge s unapplied).trans test
  by_cases high : byBook ∨ figure ≤ gauge
  · rw [tested, if_pos high]
    unfold State.dropPermit
    rw [State.post_eq]
    refine ⟨fun _ => ⟨rfl, rfl, ?_⟩, fun noBook noGauge => ?_⟩
    · simp only [decide_eq_true_eq]
      exact (SameLink.post (u := u.putSession { x with permit := .dropped }) (v := s)
        ⟨rfl, rfl, rfl, rfl⟩ _ _ _).port
    · exact absurd high (not_or.mpr ⟨noBook, noGauge.not_ge⟩)
  · rw [tested, if_neg high]
    exact ⟨fun high' => absurd high' high, fun _ _ => ⟨session, rfl⟩⟩

end

/-! ## The use of a block and the sample (R101 to R103) -/

/-- A complete block of a temperature input converts at the input's calibration (R103). -/
theorem State.useBlock_temp (i : Fin 3) (mean : Nat) (s : State) (cal : Nat × Int)
    (calibrated : s.metro.tcal[i] = some cal) :
    s.useBlock (.temp i) mean = { s with sampler := { s.sampler with
      temps := s.sampler.temps.set i
        (if 16 ≤ mean ∧ mean ≤ 4079 then
          .good (max (-4000) (min 7000 (((mean : Int) * cal.1) / 4096 + cal.2)))
        else s.sampler.temps[i].faulted) } } := by
  rw [← Temperature.convert_eq, ← calibrated]
  rfl

/-- The use of a block leaves the scan, the due time and the inputs. -/
theorem State.useBlock_sampler (p : Probe) (mean : Nat) (s : State) :
    (s.useBlock p mean).sampler = { s.sampler with temps := (s.useBlock p mean).sampler.temps } := by
  cases p with
  | level k =>
    have kept : (s.levelBlock k mean).sampler = s.sampler := by simp
    show (s.levelBlock k mean).sampler = { s.sampler with temps := (s.levelBlock k mean).sampler.temps }
    rw [kept]
  | temp i => rfl

/-- Settles O54: a sample by the length of its block, and a level block by its history and by whether reconciliation
applies. -/
theorem sampleFillsBlock : Obligations.SampleFillsBlock := by
  unfold Obligations.SampleFillsBlock
  refine ⟨fun v due s timer => ?_, fun k value s kept => ?_⟩
  · intro pos x block mean inputs u
    have samples := exec_analogSample v due s timer (x.take v.toNat) rfl
    obtain ⟨(filling : (x.take v.toNat).filling = block), second, value⟩ := SamplerInput.take_eq v.toNat x
    rw [filling] at samples
    refine ⟨fun short => ?_, fun full => ?_⟩
    · rw [if_neg short.not_ge] at samples
      exact ⟨_, samples, filling, second, value⟩
    · rw [if_pos full] at samples
      obtain ⟨value, other, empty, rests⟩ := SamplerInput.complete_eq (x.take v.toNat)
      rw [filling] at value rests
      rw [second] at other
      have sampler := State.useBlock_sampler (probeAt pos) mean (s.sampled due (x.take v.toNat).complete)
      refine ⟨_, _, samples, value, other, empty, rests, congrArg Sampler.pos sampler,
        congrArg Sampler.due sampler, congrArg Sampler.inputs sampler, fun i at' cal calibrated => ?_,
        fun k at' => ?_⟩
      · rw [probeAt_temp pos i at']
        exact State.useBlock_temp i mean _ cal calibrated
      · rw [probeAt_level pos k at']
        rfl
  · intro t joined history book
    have pushed : pushHistory s.stock.history[k] value = history := pushHistory_eq _ _ kept
    refine ⟨State.levelBlock_short k value s history pushed, fun median five _ below above => ?_⟩
    intro mm gauge variance outside figure
    have level : levelMm (medianOf history) (s.zero k) (s.span k) = mm := by
      rw [medianOf_eq history median five below above]
      rfl
    have whole : t = s.levelled k history mm gauge :=
      State.levelBlock_full k value s history pushed five mm level
    rw [whole]
    obtain ⟨histories, levels, frame⟩ := State.levelled_frame k history mm gauge s
    refine ⟨histories, levels, State.levelled_applied k history mm gauge s, fun unapplied => ⟨?_, ?_, ?_⟩, frame⟩
    · exact State.levelled_unapplied_variance k history mm gauge s unapplied
    · exact State.levelled_raised k history mm gauge s unapplied
    · exact State.levelled_idle k history mm gauge s unapplied

end Sys2Proof.Machine
end

section
/-! What LogInv reads of the part beside the links of the hoses, and the moves of a hose, of the receipt session or of
the log that keep LogInv (08, R113 to R117; 03, R59, R60; 09, R137). -/

namespace Sys2Proof.Machine

/-! ## What LogInv reads -/

/-- A journal of a hose that is in no delivery. -/
def Hose.orphaned (h : Hose) : Bool := h.journal.isSome && !h.state.delivering

/-- Whether there is a session, and whether there is a receipt journal without one. -/
def Stock.receipts (x : Stock) : Bool × Bool := (x.session.isSome, x.rjournal.isSome && x.session.isNone)

/-- The run of the log with its reservations, the open deliveries, and the journals and sessions they stand for. -/
structure Ledger where
  oldest : Nat
  count : Nat
  reserved : Vector Bool 5
  opened : HoseId → Bool
  orphaned : HoseId → Bool
  receipts : Bool × Bool

def State.ledger (s : State) : Ledger :=
  { oldest := s.log.oldest, count := s.log.count, reserved := s.log.reserved
    opened := fun n => s.hoses[n].state.isOpen, orphaned := fun n => s.hoses[n].orphaned
    receipts := s.stock.receipts }

theorem Hose.not_orphaned_iff (h : Hose) :
    h.orphaned = false ↔ (h.journal.isSome = true → h.state.delivering = true) := by
  unfold Hose.orphaned
  cases h.journal.isSome <;> simp

theorem Stock.attended_iff (x : Stock) :
    x.receipts.2 = false ↔ (x.rjournal.isSome = true → x.session.isSome = true) := by
  simp [Stock.receipts, Option.isNone_eq_false_iff]

theorem HoseState.isOpen_of_delivering {st : HoseState} (h : st.delivering = true) : st.isOpen = true := by
  revert h
  cases st <;> decide

theorem forall_holder {p : Holder → Prop} (hoses : ∀ n : HoseId, p (holderOf n)) (receipt : p holderReceipt) :
    ∀ h, p h := fun h =>
  match h with
  | 0 => hoses 0
  | 1 => hoses 1
  | 2 => hoses 2
  | 3 => hoses 3
  | 4 => receipt

theorem reserved_ext {u v : Vector Bool 5} (hoses : ∀ n : HoseId, u[holderOf n] = v[holderOf n])
    (receipt : u[holderReceipt] = v[holderReceipt]) : u = v := by
  have all : ∀ h : Holder, u[h] = v[h] := forall_holder hoses receipt
  ext i hi
  rw [show u[i] = v[i] from all ⟨i, hi⟩]

theorem State.journalHolders_hose (n : HoseId) (s : State) :
    s.journalHolders[holderOf n] = s.hoses[n].journal.isSome := by
  match n with
  | 0 => rfl
  | 1 => rfl
  | 2 => rfl
  | 3 => rfl

theorem State.journalHolders_receipt (s : State) :
    s.journalHolders[holderReceipt] = s.stock.rjournal.isSome := rfl

/-- The sealed part's share of LogInv. -/
theorem LogInv.of_sealed {s : State} (hoses : HoseInv s) (on : s.isSealed = true)
    (room : s.log.count + s.log.reservedCount ≤ 1024) (inRing : s.log.oldest < 1024)
    (deliveries : ∀ n : HoseId, s.log.reserved[holderOf n] = s.hoses[n].state.isOpen)
    (receipts : s.log.reserved[holderReceipt] = s.stock.session.isSome)
    (journals : ∀ n : HoseId, s.hoses[n].orphaned = false) (sessions : s.stock.receipts.2 = false) : LogInv s where
  hoses := hoses
  room := room
  inRing := inRing
  unsealed off := absurd off (by simp [on])
  deliveries _ := deliveries
  receipts _ := receipts
  journals _ n := (Hose.not_orphaned_iff _).mp (journals n)
  sessions _ := (Stock.attended_iff _).mp sessions
  noSession off := absurd off (by simp [on])

/-- The share of LogInv of a part that is not sealed. -/
theorem LogInv.of_unsealed {s : State} (hoses : HoseInv s) (off : s.isSealed = false)
    (room : s.log.count + s.log.reservedCount ≤ 1024) (inRing : s.log.oldest < 1024)
    (reserved : s.log.reserved = s.journalHolders) (noSession : s.stock.session = none) : LogInv s where
  hoses := hoses
  room := room
  inRing := inRing
  unsealed _ := reserved
  deliveries on := absurd on (by simp [off])
  receipts on := absurd on (by simp [off])
  journals on := absurd on (by simp [off])
  sessions on := absurd on (by simp [off])
  noSession _ := noSession

/-- The journal of a hose that is OFFLINE stands alone. -/
theorem HoseInv.orphaned_unsealed {s : State} (links : HoseInv s) (off : s.isSealed = false) (n : HoseId) :
    s.hoses[n].orphaned = s.hoses[n].journal.isSome := by
  unfold Hose.orphaned
  rw [links.offline off n]
  exact Bool.and_true _

theorem LogInv.attended {s : State} (inv : LogInv s) (on : s.isSealed = true) : s.stock.receipts.2 = false :=
  (Stock.attended_iff _).mpr (inv.sessions on)

theorem LogInv.not_orphaned {s : State} (inv : LogInv s) (on : s.isSealed = true) (n : HoseId) :
    s.hoses[n].orphaned = false :=
  (Hose.not_orphaned_iff _).mpr (inv.journals on n)

/-- A hose outside a delivery of a sealed part has no journal. -/
theorem LogInv.no_journal {s : State} (inv : LogInv s) (on : s.isSealed = true) (n : HoseId)
    (h : s.hoses[n].state.delivering = false) : s.hoses[n].journal = none := by
  rw [← Option.not_isSome_iff_eq_none]
  intro some
  rw [inv.journals on n some] at h
  cases h

/-- LogInv depends on the links of the hoses and on these items. -/
theorem LogInv.of_ledger {s t : State} (inv : LogInv s) (hoses : HoseInv t) (same : t.isSealed = s.isSealed)
    (ledger : t.ledger = s.ledger) : LogInv t := by
  have oldest : t.log.oldest = s.log.oldest := congrArg Ledger.oldest ledger
  have count : t.log.count = s.log.count := congrArg Ledger.count ledger
  have reserved : t.log.reserved = s.log.reserved := congrArg Ledger.reserved ledger
  have opened (n : HoseId) : t.hoses[n].state.isOpen = s.hoses[n].state.isOpen :=
    congrArg (fun l => l.opened n) ledger
  have orphaned (n : HoseId) : t.hoses[n].orphaned = s.hoses[n].orphaned := congrArg (fun l => l.orphaned n) ledger
  have receipts : t.stock.receipts = s.stock.receipts := congrArg Ledger.receipts ledger
  have session : t.stock.session.isSome = s.stock.session.isSome := congrArg Prod.fst receipts
  have room : t.log.count + t.log.reservedCount ≤ 1024 := by
    unfold Log.reservedCount
    rw [count, reserved]
    exact inv.room
  have inRing : t.log.oldest < 1024 := oldest ▸ inv.inRing
  cases on : s.isSealed with
  | true =>
    refine .of_sealed hoses (same.trans on) room inRing (fun n => ?_) ?_ (fun n => ?_) ?_
    · rw [reserved, opened]; exact inv.deliveries on n
    · rw [reserved, session]; exact inv.receipts on
    · rw [orphaned]; exact inv.not_orphaned on n
    · rw [receipts]; exact inv.attended on
  | false =>
    have off : t.isSealed = false := same.trans on
    have none' : s.stock.session = none := inv.noSession on
    have none'' : t.stock.session = none := by simpa [none'] using session
    refine .of_unsealed hoses off room inRing ?_ none''
    rw [reserved, inv.unsealed on]
    refine reserved_ext (fun n => ?_) ?_
    · rw [State.journalHolders_hose, State.journalHolders_hose, ← inv.hoses.orphaned_unsealed on,
        ← hoses.orphaned_unsealed off, orphaned]
    · rw [State.journalHolders_receipt, State.journalHolders_receipt]
      have := congrArg Prod.snd receipts
      simpa [Stock.receipts, none', none''] using this.symm

theorem LogInv.of_views {s t : State} (inv : LogInv s) (flow : t.flow = s.flow) (ledger : t.ledger = s.ledger) :
    LogInv t :=
  inv.of_ledger (inv.hoses.of_flow flow) (isSealed_of_flow flow) ledger

/-! ## Reservations counted -/

theorem Log.reservedCount_set (l : Log) (h : Holder) (b : Bool) :
    (l.reserved.set h b).toList.countP id + l.reserved[h].toNat = l.reservedCount + b.toNat := by
  have held : l.reserved[h] = true → 0 < l.reserved.countP id := fun e =>
    Vector.countP_pos_iff.mpr ⟨_, Vector.getElem_mem h.isLt, e⟩
  unfold Log.reservedCount
  rw [Vector.countP_toList, Vector.countP_toList, Vector.countP_set h.isLt]
  rw [Fin.getElem_fin] at held ⊢
  cases e : l.reserved[h.val] with
  | false => cases b <;> simp
  | true =>
    have := held e
    cases b <;> simp <;> omega

/-- With fewer reservations fewer are counted. -/
theorem countP_le_of_imp {u v : Vector Bool 5} (h : ∀ i : Holder, u[i] = true → v[i] = true) :
    u.toList.countP id ≤ v.toList.countP id := by
  have bits (w : Vector Bool 5) : w.toList.countP id = (List.finRange 5).countP fun i => w[i] := by
    rw [show w.toList = (List.finRange 5).map fun i => w[i] from
      List.ext_getElem (by simp) fun i _ _ => by simp, List.countP_map]
    rfl
  rw [bits, bits]
  exact List.countP_mono_left fun i _ => h i

/-! ## Moves of one block -/

/-- A hose of a sealed part moves with its reservation. -/
theorem LogInv.moveReserved {n : HoseId} {s t : State} (inv : LogInv s) (moves : MovesHose n s t)
    (on : s.isSealed = true)
    (reading : s.readers[n].state = .reading → t.hoses[n].state = .reading)
    (attached : t.meters[meterOf n].attach = .delivery → t.hoses[n].state.delivering = true)
    (oldest : t.log.oldest = s.log.oldest) (room : t.log.count + t.log.reservedCount ≤ 1024)
    (reserved : t.log.reserved = s.log.reserved.set (holderOf n) t.hoses[n].state.isOpen)
    (receipts : t.stock.receipts = s.stock.receipts) (journal : t.hoses[n].orphaned = false) : LogInv t := by
  have session : t.stock.session.isSome = s.stock.session.isSome := congrArg Prod.fst receipts
  refine .of_sealed (inv.hoses.move moves on reading attached) (moves.isSealed.trans on) room (oldest ▸ inv.inRing)
    (fun m => ?_) ?_ (fun m => ?_) (receipts ▸ inv.attended on)
  · rw [reserved, getElem_set_fin]
    by_cases e : m = n
    · rw [e, if_pos rfl]
    · rw [if_neg (by rwa [holderOf_inj]), moves.others m e]
      exact inv.deliveries on m
  · rw [reserved, getElem_set_fin, if_neg (holderOf_ne_receipt n).symm, session]
    exact inv.receipts on
  · by_cases e : m = n
    · rw [e]; exact journal
    · rw [moves.others m e]; exact inv.not_orphaned on m

/-- A hose of a sealed part moves within its open delivery, or with none. -/
theorem LogInv.move {n : HoseId} {s t : State} (inv : LogInv s) (moves : MovesHose n s t) (on : s.isSealed = true)
    (log : t.log = s.log) (receipts : t.stock.receipts = s.stock.receipts)
    (opened : t.hoses[n].state.isOpen = s.hoses[n].state.isOpen)
    (reading : s.readers[n].state = .reading → t.hoses[n].state = .reading)
    (attached : t.meters[meterOf n].attach = .delivery → t.hoses[n].state.delivering = true)
    (journal : t.hoses[n].orphaned = false) : LogInv t := by
  refine inv.moveReserved moves on reading attached (by rw [log]) (by rw [log]; exact inv.room) ?_ receipts journal
  rw [log, opened, ← inv.deliveries on n]
  exact (Vector.set_getElem_self _).symm

theorem LogInv.setHose {s : State} (inv : LogInv s) (n : HoseId) (h : Hose) (on : s.isSealed = true)
    (opened : h.state.isOpen = s.hoses[n].state.isOpen)
    (reading : s.readers[n].state = .reading → h.state = .reading)
    (attached : s.meters[meterOf n].attach = .delivery → h.state.delivering = true)
    (journal : h.orphaned = false) : LogInv (s.setHose n h) := by
  have own : (s.setHose n h).hoses[n] = h := s.setHose_same n h
  refine inv.move (n := n) ⟨rfl, rfl, fun m e => s.setHose_other n m h e, rfl, fun _ _ => rfl, fun _ _ => rfl⟩ on
    rfl rfl ?_ ?_ ?_ ?_ <;> rw [own]
  · exact opened
  · exact reading
  · exact attached
  · exact journal

theorem LogInv.setReader {s : State} (inv : LogInv s) (n : HoseId) (r : Reader)
    (reading : r.state = .reading → s.hoses[n].state = .reading) : LogInv (s.setReader n r) := by
  refine inv.of_ledger ⟨inv.hoses.offline, fun m => ?_, inv.hoses.attached⟩ rfl rfl
  rw [show (s.setReader n r).readers[m] = _ from s.setReader_get n m r]
  split_ifs with e
  · rw [e]; exact reading
  · exact inv.hoses.reading m

theorem LogInv.setPump {s : State} (inv : LogInv s) (k : CompId) (p : Pump) : LogInv (s.setPump k p) :=
  inv.of_ledger ⟨inv.hoses.offline, inv.hoses.reading, inv.hoses.attached⟩ rfl rfl

/-- Whatever becomes of the slots, the run stays in the ring with room for the reservations. -/
theorem LogInv.setLog {s : State} (inv : LogInv s) (l : Log) (inRing : l.oldest < 1024)
    (room : l.count + s.log.reservedCount ≤ 1024) (reserved : l.reserved = s.log.reserved) :
    LogInv { s with log := l } := by
  obtain ⟨hoses, -, -, unsealed, deliveries, receipts, journals, sessions, noSession⟩ := inv
  refine ⟨⟨hoses.offline, hoses.reading, hoses.attached⟩, ?_, inRing, fun off => ?_, fun on n => ?_, fun on => ?_,
    journals, sessions, noSession⟩
  · show l.count + l.reserved.toList.countP id ≤ 1024
    rw [reserved]
    exact room
  · exact reserved.trans (unsealed off)
  · exact (congrArg (fun v : Vector Bool 5 => v[holderOf n]) reserved).trans (deliveries on n)
  · exact (congrArg (fun v : Vector Bool 5 => v[holderReceipt]) reserved).trans (receipts on)

/-- A session of a sealed part opens or closes with its reservation. -/
theorem LogInv.moveReceipt {s t : State} (inv : LogInv s) (on : s.isSealed = true) (flow : t.flow = s.flow)
    (hoses : t.hoses = s.hoses) (oldest : t.log.oldest = s.log.oldest)
    (room : t.log.count + t.log.reservedCount ≤ 1024)
    (reserved : t.log.reserved = s.log.reserved.set holderReceipt t.stock.session.isSome)
    (attended : t.stock.receipts.2 = false) : LogInv t := by
  refine .of_sealed (inv.hoses.of_flow flow) ((isSealed_of_flow flow).trans on) room (oldest ▸ inv.inRing)
    (fun n => ?_) ?_ (fun n => ?_) attended
  · rw [reserved, getElem_set_fin, if_neg (holderOf_ne_receipt n), hoses]
    exact inv.deliveries on n
  · rw [reserved, getElem_set_fin, if_pos rfl]
  · rw [hoses]
    exact inv.not_orphaned on n

/-- Hoses of a sealed part move together, and none opens a delivery. -/
theorem LogInv.settle {s t : State} (inv : LogInv s) (on : s.isSealed = true) (hoses : HoseInv t)
    (frame : t = { s with hoses := t.hoses, pumps := t.pumps
                          log := { s.log with reserved := t.log.reserved }, link := t.link, port := t.port })
    (deliveries : ∀ n : HoseId, t.log.reserved[holderOf n] = t.hoses[n].state.isOpen)
    (closes : ∀ n : HoseId, t.hoses[n].state.isOpen = true → s.hoses[n].state.isOpen = true)
    (receipt : t.log.reserved[holderReceipt] = s.log.reserved[holderReceipt])
    (journals : ∀ n : HoseId, t.hoses[n].orphaned = false) : LogInv t := by
  have fewer : t.log.reservedCount ≤ s.log.reservedCount := by
    refine countP_le_of_imp (forall_holder (fun n h => ?_) fun h => receipt ▸ h)
    rw [inv.deliveries on n]
    exact closes n ((deliveries n).symm.trans h)
  have still : t.isSealed = s.isSealed := by rw [frame]
  have stock : t.stock = s.stock := by rw [frame]
  have count : t.log.count = s.log.count := by rw [frame]
  have oldest : t.log.oldest = s.log.oldest := by rw [frame]
  refine .of_sealed hoses (still.trans on) ?_ (oldest ▸ inv.inRing) deliveries ?_ journals ?_
  · rw [count]
    exact (Nat.add_le_add_left fewer _).trans inv.room
  · rw [receipt, stock]
    exact inv.receipts on
  · rw [stock]
    exact inv.attended on

end Sys2Proof.Machine
end

section
/-! The commands and events that leave what LogInv reads of the part as it is. -/

namespace Sys2Proof.Machine

/-! ## The session and its journal -/

@[simp] theorem State.setRestock_receipts (r : RestockState) (s : State) :
    (s.setRestock r).stock.receipts = s.stock.receipts := by
  unfold State.setRestock
  split_ifs
  · rfl
  · simp [Stock.receipts]

@[simp] theorem State.evaluateRestock_receipts (s : State) : s.evaluateRestock.stock.receipts = s.stock.receipts :=
  State.setRestock_receipts _ _

/-- A session written again keeps its journal with it. -/
theorem State.putSession_receipts (x : Session) (s : State) (h : s.stock.session.isSome = true) :
    (s.putSession x).stock.receipts = s.stock.receipts := by
  simp [State.putSession, Stock.receipts, h]

@[simp] theorem State.highLevelTest_receipts (k : CompId) (s : State) :
    (s.highLevelTest k).stock.receipts = s.stock.receipts := by
  rcases s.highLevelTest_cases k with e | ⟨x, session, -, -, -, e⟩ <;> rw [e]
  unfold State.dropPermit
  rw [State.post_eq]
  exact s.putSession_receipts _ (by rw [session]; rfl)

@[simp] theorem State.adjustBook_receipts (k : CompId) (d : Int) (s : State) :
    (s.adjustBook k d).stock.receipts = s.stock.receipts := rfl

@[simp] theorem State.changeBook_receipts (k : CompId) (d : Int) (s : State) :
    (s.changeBook k d).stock.receipts = s.stock.receipts := by
  simp [State.changeBook]

@[simp] theorem State.reconcile_receipts (k : CompId) (gauge : Int) (s : State) :
    (s.reconcile k gauge).stock.receipts = s.stock.receipts := by
  unfold State.reconcile
  dsimp only
  split_ifs <;> simp [Stock.receipts]

@[simp] theorem State.levelBlock_receipts (k : CompId) (value : Nat) (s : State) :
    (s.levelBlock k value).stock.receipts = s.stock.receipts := by
  unfold State.levelBlock
  dsimp only
  split_ifs
  · rfl
  · rw [State.highLevelTest_receipts, State.reconcile_receipts]
    rfl

@[simp] theorem State.takeSample_receipts (v : Nat) (s : State) :
    (s.takeSample v).stock.receipts = s.stock.receipts := by
  unfold State.takeSample State.useBlock
  dsimp only
  split_ifs
  · split <;> simp
  · rfl

@[simp] theorem State.strayWindow_receipts (n : HoseId) (w : Window) (s : State) :
    (s.strayWindow n w).stock.receipts = s.stock.receipts := by
  unfold State.strayWindow
  dsimp only
  split_ifs <;> simp

@[simp] theorem State.accountStray_receipts (m : MeterId) (w : Window) (s : State) :
    (s.accountStray m w).stock.receipts = s.stock.receipts := by
  unfold State.accountStray
  split
  · simp
  · simp [State.receiptStray]

@[simp] theorem State.windowRestart_receipts (m : MeterId) (owner : Attachment) (s : State) :
    (s.windowRestart m owner).stock.receipts = s.stock.receipts := by
  simp [State.windowRestart]

@[simp] theorem State.peerNotice_receipts (x : Notice) (s : State) :
    (s.peerNotice x).stock.receipts = s.stock.receipts := by
  unfold State.peerNotice State.dispatchNotice
  dsimp only
  split_ifs
  · split <;> simp
  · rfl

@[simp] theorem State.completeFrame_receipts (s : State) : s.completeFrame.stock.receipts = s.stock.receipts := by
  unfold State.completeFrame State.checkFrame State.notice State.clash
  (repeat' split) <;> simp

/-! ## Hoses and meters -/

/-- Where neither the hoses nor the run of the log has moved, the session and its journal decide. -/
theorem State.ledger_of_same {s t : State} (hoses : t.hoses = s.hoses) (log : t.log = s.log)
    (receipts : t.stock.receipts = s.stock.receipts) : t.ledger = s.ledger := by
  unfold State.ledger
  rw [hoses, log, receipts]

theorem State.setHose_ledger (n : HoseId) (h : Hose) (s : State) (opened : h.state.isOpen = s.hoses[n].state.isOpen)
    (orphaned : h.orphaned = s.hoses[n].orphaned) : (s.setHose n h).ledger = s.ledger := by
  have each {β : Type} (f : Hose → β) (same : f h = f s.hoses[n]) :
      (fun m : HoseId => f (s.setHose n h).hoses[m]) = fun m => f s.hoses[m] :=
    funext fun m => by
      rw [show (s.setHose n h).hoses[m] = _ from s.setHose_get n m h]
      split_ifs with e
      · rw [e]; exact same
      · rfl
  show Ledger.mk .. = Ledger.mk ..
  rw [each (fun h => h.state.isOpen) opened, each Hose.orphaned orphaned]
  rfl

theorem State.applyPending_ledger (n : HoseId) (s : State) : (s.applyPending n).ledger = s.ledger :=
  s.setHose_ledger n _ (by rw [Hose.applyPending_eq]) (by rw [Hose.applyPending_eq]; rfl)

theorem State.applyArmed_ledger (m : MeterId) (s : State) : (s.applyArmed m).ledger = s.ledger := by
  unfold State.applyArmed
  split
  · rfl
  · split_ifs
    · exact s.applyPending_ledger _
    · rfl

/-- The journal of a hose in a delivery. -/
theorem State.writeJournal_ledger (n : HoseId) (s : State) (h : s.hoses[n].state.delivering = true) :
    (s.writeJournal n).ledger = s.ledger := by
  refine s.setHose_ledger n _ rfl ?_
  unfold Hose.orphaned
  rw [h]
  simp

theorem State.endWindow_ledger (n : HoseId) (s : State) : (s.endWindow n).ledger = s.ledger := by
  unfold State.endWindow
  split_ifs with h
  · refine (State.writeJournal_ledger n _ ?_).trans (s.setHose_ledger n _ rfl rfl)
    rw [show (s.setHose n { s.hoses[n] with settleFresh := false }).hoses[n] = _ from s.setHose_same n _]
    exact h
  · rfl

theorem State.post_ledger (kind : EventKind) (subject : EventSubject) (value : Int) (s : State) :
    (s.post kind subject value).ledger = s.ledger := by
  simp [State.ledger]

theorem State.ask_ledger (sub : Subject) (s : State) : (s.ask sub).ledger = s.ledger := by
  simp [State.ledger]

theorem State.accountStray_ledger (m : MeterId) (w : Window) (s : State) :
    (s.accountStray m w).ledger = s.ledger :=
  State.ledger_of_same (by simp) (by simp) (by simp)

theorem State.scrub_ledger (s : State) : s.scrub.ledger = s.ledger := by
  unfold State.scrub
  dsimp only
  split_ifs
  · rfl
  · rfl
  · exact State.post_ledger ..

theorem State.startRestock_ledger (s : State) : s.startRestock.ledger = s.ledger := by
  unfold State.startRestock
  dsimp only
  split_ifs <;> exact State.ledger_of_same (by simp) (by simp) (by simp [Stock.receipts])

theorem State.postLosses_ledger (s : State) : s.postLosses.ledger = s.ledger :=
  (State.forEach_keep State.ledger State.postLoss (fun _ u => u.post_ledger _ _ _) s.losses _).trans rfl

/-! ## Commands -/

/-- A body that leaves what LogInv reads. -/
def KeepsLedger (body : Body) : Prop := ∀ s : State, (body s).1.ledger = s.ledger

theorem KeepsLedger.afterSeal {body : Body} (h : KeepsLedger body) : KeepsLedger (afterSeal body) := by
  intro s
  unfold Machine.afterSeal
  split_ifs
  · exact h s
  · rfl

theorem KeepsLedger.beforeSeal {body : Body} (h : KeepsLedger body) : KeepsLedger (beforeSeal body) := by
  intro s
  unfold Machine.beforeSeal
  split_ifs
  · rfl
  · exact h s

theorem KeepsLedger.of_state {body : Body} (h : ∀ s, (body s).1 = s) : KeepsLedger body :=
  fun s => congrArg State.ledger (h s)

theorem State.command_ledger (code tag : Byte) {body : Body} (h : KeepsLedger body) (s : State) :
    ∃ t, s.command code tag body = .next t ∧ t.ledger = s.ledger := ⟨_, rfl, h s.beginExchange⟩

/-- The profiles and the metrology block lie outside the ledger. -/
theorem loadingBodies_ledger :
    (∀ profile count flag steps, KeepsLedger (loadProfileBody profile count flag steps)) ∧
    (∀ staged profile count steps, KeepsLedger (continuationBody staged profile count steps)) ∧
    (∀ sect, KeepsLedger (loadMetrologyBody sect)) := by
  have continued (profile count : Byte) (steps : Vector RawStep 4) : KeepsLedger (continueLoad profile count steps) :=
    .beforeSeal fun u => by (repeat' split) <;> simp [State.ledger]
  refine ⟨fun _ _ _ _ => .beforeSeal fun s => ?_, fun staged profile count steps s =>
    continued profile count steps { s with staged }, fun _ => .beforeSeal fun s => ?_⟩
  · (repeat' split) <;> simp [State.ledger]
  · split <;> rfl

/-- The machine table lies outside the ledger. -/
theorem tableBodies_ledger :
    (∀ ring number costCentre permitted state allowance cap,
      KeepsLedger (putMachineBody ring number costCentre permitted state allowance cap)) ∧
    (∀ st selector key, KeepsLedger (setEntryStateBody st selector key)) ∧
    (∀ selector key, KeepsLedger (removeMachineBody selector key)) ∧
    (∀ day, KeepsLedger (setDayBody day)) := by
  refine ⟨fun _ _ _ _ _ _ _ => .afterSeal fun s => ?_, fun _ _ _ => .afterSeal fun s => ?_,
    fun _ _ => .afterSeal fun s => ?_, fun _ => .afterSeal fun s => ?_⟩
  · unfold putMachineChecked
    (repeat' split) <;> simp [State.ledger]
  · (repeat' split) <;> simp [State.ledger]
  · (repeat' split) <;> simp [State.ledger]
  · split
    · rfl
    · exact State.forEach_keep State.ledger _ (fun p u => u.ask_ledger _) _ _

theorem setPresetBody_ledger (hose : Byte) (preset : BitVec 32) : KeepsLedger (setPresetBody hose preset) :=
  .afterSeal fun s => by
    dsimp only
    split
    · rfl
    · split_ifs
      · split
        · rfl
        · exact (State.ask_ledger ..).trans (s.setHose_ledger _ _ rfl rfl)
      · rfl

theorem receiptEndBody_ledger : KeepsLedger receiptEndBody :=
  .afterSeal fun s => by
    cases session : s.stock.session with
    | none => rfl
    | some x =>
      dsimp only
      split_ifs
      · rfl
      · exact State.ledger_of_same rfl rfl (s.putSession_receipts _ (by rw [session]; rfl))

/-- A body that reads a record or an event, sets the mask or parks the part. -/
theorem readingBodies_ledger :
    (∀ k part drain, KeepsLedger (readRecordBody k part drain)) ∧
    KeepsLedger readEventBody ∧
    (∀ mask, KeepsLedger (setEventMaskBody mask)) ∧
    (∀ value, KeepsLedger (setParkedBody value)) := by
  refine ⟨fun _ _ _ s => ?_, fun s => ?_, fun _ s => ?_, fun _ => .afterSeal fun s => ?_⟩
  · unfold readRecordBody; split_ifs <;> rfl
  · unfold readEventBody; dsimp only; split <;> rfl
  · unfold setEventMaskBody; split_ifs <;> rfl
  · split_ifs <;> rfl

/-! ## Commands and events -/

/-- The commands and events that can move what LogInv speaks of: those that move a hose, a reader or a channel, and
those that free, take or reserve a slot of the log. -/
def movesLog (i : Instr) : Bool :=
  movesFlow i ||
    match i with
    | .readRecordDrain .. | .release .. | .setStock .. | .receiptBegin .. => true
    | _ => false

theorem exec_ledger (i : Instr) (s : State) (h : movesLog i = false) :
    ∃ t, exec i s = .next t ∧ t.ledger = s.ledger := by
  obtain ⟨loadProfile, continuation, loadMetrology⟩ := loadingBodies_ledger
  obtain ⟨put, setEntry, remove, setDay⟩ := tableBodies_ledger
  obtain ⟨readRecord, readEvent, setEventMask, setParked⟩ := readingBodies_ledger
  cases i
  case setConfig | sealPart | restart | powerUp | resetnAssertion | authorise | stop | estopClear | seatEvent
    | unseatEvent | deadmanHeld | deadmanRelease | estopAssertion | pfltAssertion | pfltRelease | periodExpiry
    | padMeasurement | armExpiry | pauseExpiry | windowExpiry | spinUpExpiry | runOnExpiry | scanExpiry
    | readRecordDrain | release | setStock | receiptBegin => cases h
  case loadProfile => exact State.command_ledger _ _ (loadProfile _ _ _ _) s
  case loadProfileContinuation => exact State.command_ledger _ _ (continuation _ _ _ _) s
  case loadMetrology => exact State.command_ledger _ _ (loadMetrology _) s
  case putMachine => exact State.command_ledger _ _ (put _ _ _ _ _ _ _) s
  case barMachine => exact State.command_ledger _ _ (setEntry _ _ _) s
  case unbarMachine => exact State.command_ledger _ _ (setEntry _ _ _) s
  case removeMachine => exact State.command_ledger _ _ (remove _ _) s
  case getMachine => exact State.command_ledger _ _ (.of_state (getMachineBody_state _ _ _ _)) s
  case setDay => exact State.command_ledger _ _ (setDay _) s
  case setPreset => exact State.command_ledger _ _ (setPresetBody_ledger _ _) s
  case getHose =>
    exact State.command_ledger _ _
      (.of_state fun u => by unfold getHoseBody; split <;> simp only [viewPage_state]) s
  case readRecord => exact State.command_ledger _ _ (readRecord _ _ _) s
  case receiptEnd => exact State.command_ledger _ _ receiptEndBody_ledger s
  case setParked => exact State.command_ledger _ _ (setParked _) s
  case getStock => exact State.command_ledger _ _ (.of_state fun u => viewPage_state _ u.stockRows u) s
  case getLink =>
    exact State.command_ledger _ _
      (.of_state fun u => by unfold getLinkBody; split_ifs <;> simp only [viewPage_state]) s
  case readEvent => exact State.command_ledger _ _ readEvent s
  case setEventMask => exact State.command_ledger _ _ (setEventMask _) s
  case nop | unknownCommand | exchangeCutShort | estopRelease => exact ⟨_, rfl, rfl⟩
  case scrubExpiry =>
    refine ⟨_, rfl, ?_⟩
    split
    · rfl
    · exact State.scrub_ledger _
  case goHoldExpiry =>
    refine ⟨_, rfl, ?_⟩
    split
    · rfl
    · exact State.ledger_of_same (by simp) (by simp) (State.setRestock_receipts ..)
  case yieldExpiry =>
    refine ⟨_, rfl, ?_⟩
    split
    · rfl
    · exact State.ledger_of_same (by simp) (by simp)
        ((State.evaluateRestock_receipts _).trans (by simp [Stock.receipts]))
  all_goals
    refine ⟨_, rfl, ?_⟩
    dsimp only
    (repeat' split) <;> simp [State.ledger]

/-- Such a command or event keeps LogInv. -/
theorem LogInv.exec_still {i : Instr} {s t : State} (inv : LogInv s) (still : movesLog i = false)
    (h : exec i s = .next t) : LogInv t := by
  obtain ⟨stillFlow, -⟩ := Bool.or_eq_false_iff.mp still
  obtain ⟨u, step, flow⟩ := exec_flow i s stillFlow
  obtain ⟨v, step', ledger⟩ := exec_ledger i s still
  cases step.symm.trans h
  cases step'.symm.trans h
  exact inv.of_views flow ledger

end Sys2Proof.Machine
end

section
/-! The operations on a hose within its delivery keep LogInv, and so does its start (03, R44 to R48, R51, R60, R70). -/

namespace Sys2Proof.Machine

/-! ## A hose in a delivery -/

theorem HoseState.ne_offline_of_delivering {st : HoseState} (h : st.delivering = true) : st ≠ .offline := by
  rintro rfl
  cases h

theorem HoseState.ne_reading_of_delivering {st : HoseState} (h : st.delivering = true) : st ≠ .reading := by
  rintro rfl
  cases h

theorem HoseState.delivering_of_active {st : HoseState} (h : st.isActive = true) : st.delivering = true := by
  rw [HoseState.delivering, h]
  rfl

theorem Hose.not_orphaned_of_delivering {h : Hose} (e : h.state.delivering = true) : h.orphaned = false :=
  (Hose.not_orphaned_iff h).mpr fun _ => e

theorem Hose.not_orphaned_of_none {h : Hose} (e : h.journal = none) : h.orphaned = false := by
  rw [Hose.orphaned, e]
  rfl

/-- The course of a delivery keeps its slot reserved. -/
theorem LogInv.of_works {n : HoseId} {s t : State} (inv : LogInv s) (works : Works n s t)
    (delivering : s.hoses[n].state.delivering = true) : LogInv t := by
  have after := works.delivering
  refine inv.move ⟨by rw [works.frame], by rw [works.frame], works.others, by rw [works.frame],
    fun _ _ => by rw [works.frame], works.pump⟩ (inv.hoses.sealed n (HoseState.ne_offline_of_delivering delivering))
    (by rw [works.frame]) (by rw [works.frame]) ?_ (fun r => ?_) (fun _ => after)
    (Hose.not_orphaned_of_delivering after)
  · rw [HoseState.isOpen_of_delivering after, HoseState.isOpen_of_delivering delivering]
  · exact absurd (inv.hoses.reading n r) (HoseState.ne_reading_of_delivering delivering)

theorem LogInv.enterSettling {s : State} (inv : LogInv s) (n : HoseId) (cause : EndCause)
    (active : s.hoses[n].state.isActive = true) : LogInv (s.enterSettling n cause) :=
  inv.of_works (s.enterSettling_works n cause) (HoseState.delivering_of_active active)

theorem EntersFlowing.state {n : HoseId} {s t : State} (h : EntersFlowing n s t) : t.hoses[n].state = .flowing := by
  rw [h.hoses, getElem_set_fin, if_pos rfl]
  rfl

theorem State.flowOrWait_delivering (n : HoseId) (s : State) (h : s.hoses[n].state.delivering = true) :
    (s.flowOrWait n).hoses[n].state.delivering = true := by
  by_cases running : (s.pumpOf n).state = .running
  · rw [s.flowOrWait_flows n running, (s.enterFlowing_enters n).state]
    rfl
  · rw [s.flowOrWait_waits n running]
    exact h

theorem Keeps.works {n : HoseId} {s t : State} (keeps : Keeps n s t)
    (delivering : t.hoses[n].state.delivering = true) : Works n s t := by
  obtain ⟨hose, others, -, pump, frame⟩ := keeps
  exact ⟨by rw [hose], by rw [hose], by rw [hose], by rw [hose], by rw [hose], delivering, others, pump, frame⟩

theorem LogInv.enterFlowing {s : State} (inv : LogInv s) (n : HoseId) (priming : s.hoses[n].state = .priming) :
    LogInv (s.enterFlowing n) := by
  have enters := s.enterFlowing_enters n
  exact inv.of_works (enters.keeps.works (by rw [enters.state]; rfl)) (by rw [priming]; rfl)

theorem LogInv.flowOrWait {s : State} (inv : LogInv s) (n : HoseId) (delivering : s.hoses[n].state.delivering = true) :
    LogInv (s.flowOrWait n) :=
  inv.of_works ((s.flowOrWait_keeps n).works (s.flowOrWait_delivering n delivering)) delivering

theorem Pauses.works {n : HoseId} {s t : State} (pauses : Pauses n s t) : Works n s t := by
  obtain ⟨hoses, pumps, frame⟩ := pauses
  have own : t.hoses[n] = { s.hoses[n] with state := .paused, pauseExpiry := some (s.now / 1000000 + s.pauseMax) } := by
    rw [hoses, getElem_set_fin, if_pos rfl]
  refine ⟨by rw [own], by rw [own], by rw [own], by rw [own], by rw [own], by rw [own]; rfl, fun m ne => ?_,
    fun k ne => ?_, frame⟩
  · rw [hoses, getElem_set_fin, if_neg ne]
  · rw [pumps, getElem_set_fin, if_neg ne]

theorem LogInv.pause {s : State} (inv : LogInv s) (n : HoseId) (active : s.hoses[n].state.isActive = true) :
    LogInv (s.pause n) :=
  inv.of_works (s.pause_pauses n).works (HoseState.delivering_of_active active)

theorem LogInv.resume {s : State} (inv : LogInv s) (n : HoseId) (paused : s.hoses[n].state = .paused) :
    LogInv (s.resume n) := by
  have own : (s.reprimed n).hoses[n] = { s.hoses[n] with state := .priming, pauseExpiry := none } := s.setHose_same n _
  have primed : LogInv (s.reprimed n) := inv.setHose n _ (inv.hoses.sealed n (by rw [paused]; nofun))
    (by rw [paused]; rfl) (fun r => absurd r (inv.hoses.not_reading n (by rw [paused]; nofun))) (fun _ => rfl)
    (Hose.not_orphaned_of_delivering rfl)
  rw [State.resume_eq]
  exact primed.flowOrWait n (by rw [own]; rfl)

/-! ## The start of a delivery (R44) -/

theorem State.rebooked_receipts (k : CompId) (value : Int) (s : State) :
    (s.rebooked k value).stock.receipts = s.stock.receipts := by
  unfold State.rebooked
  rw [State.highLevelTest_receipts, State.evaluateRestock_receipts]
  rfl

theorem AccountsStray.receipts {n : HoseId} {s t : State} (accounts : AccountsStray n s t) :
    t.stock.receipts = s.stock.receipts := by
  obtain ⟨-, -, -, stock, -⟩ := accounts
  rw [stock]
  split_ifs
  · rfl
  · exact State.rebooked_receipts ..

/-- An ARMED hose keeps its slot as its delivery starts. -/
theorem LogInv.startDelivery {s : State} (inv : LogInv s) (n : HoseId) (armed : s.hoses[n].state = .armed) :
    LogInv (s.startDelivery n) := by
  obtain ⟨d, ⟨accounts, meters, frame⟩, shape⟩ := s.startDelivery_starts n
  have hose (m : HoseId) : d.hoses[m] = if m = n then s.hoses[n].started n (s.hoseComp n) else s.hoses[m] := by
    rw [frame, getElem_set_fin]
  have own : d.hoses[n].state = .priming := by rw [hose, if_pos rfl]; rfl
  rw [shape]
  refine LogInv.flowOrWait ?_ n (by rw [own]; rfl)
  refine inv.move (n := n) ⟨by rw [frame], by rw [frame], fun m ne => ?_, by rw [frame], fun m ne => ?_,
    fun k ne => ?_⟩ (inv.hoses.sealed n (by rw [armed]; nofun)) (by rw [frame]) accounts.receipts
    (by rw [own, armed]; rfl) (fun r => absurd r (inv.hoses.not_reading n (by rw [armed]; nofun)))
    (fun _ => by rw [own]; rfl) (Hose.not_orphaned_of_delivering (by rw [own]; rfl))
  · rw [hose, if_neg ne]
  · rw [meters, getElem_set_fin, if_neg (fun e => ne (meterOf_inj e))]
  · rw [frame, getElem_set_fin, if_neg ne]

end Sys2Proof.Machine
end

section
/-! The rest, the reads, the cancellation, the stops and the arming of a hose keep LogInv (01, R2, R3, R7 to R12; 03,
R37, R40 to R42, R50, R55, R57, R58). -/

namespace Sys2Proof.Machine

/-! ## A hose outside a delivery -/

theorem HoseState.delivering_of_closed {st : HoseState} (h : st.isOpen = false) : st.delivering = false := by
  by_contra d
  rw [HoseState.isOpen_of_delivering (by simpa using d)] at h
  cases h

/-- A hose without a delivery moves on without one, and its journal, which is none, stays. -/
theorem LogInv.moveFree {s : State} (inv : LogInv s) (n : HoseId) (h : Hose) (on : s.isSealed = true)
    (closed : s.hoses[n].state.isOpen = false) (stays : h.state.isOpen = false)
    (reading : s.readers[n].state = .reading → h.state = .reading) (journal : h.journal = s.hoses[n].journal) :
    LogInv (s.setHose n h) := by
  have inactive := HoseState.delivering_of_closed closed
  exact inv.setHose n h on (stays.trans closed.symm) reading (fun a => absurd a (inv.hoses.not_attached n inactive))
    (Hose.not_orphaned_of_none (journal.trans (inv.no_journal on n inactive)))

theorem State.restState_closed (n : HoseId) (s : State) : (s.restState n).isOpen = false := by
  rcases s.restState_cases n with e | e <;> rw [e] <;> rfl

theorem LogInv.toRest {s : State} (inv : LogInv s) (n : HoseId) (on : s.isSealed = true)
    (closed : s.hoses[n].state.isOpen = false) (still : s.readers[n].state ≠ .reading) : LogInv (s.toRest n) :=
  inv.moveFree n _ on closed (s.restState_closed n) (fun r => absurd r still) rfl

theorem LogInv.post {s : State} (inv : LogInv s) (kind : EventKind) (subject : EventSubject) (value : Int) :
    LogInv (s.post kind subject value) :=
  inv.of_views (s.post_flow kind subject value) (s.post_ledger kind subject value)

/-! ## The cancellation (R42) -/

theorem State.atRest_closed (n : HoseId) (s : State) : (s.atRest n).state.isOpen = false := s.restState_closed n

theorem LogInv.cancel {s : State} (inv : LogInv s) (n : HoseId)
    (h : s.hoses[n].state = .identified ∨ s.hoses[n].state = .unidentified ∨ s.hoses[n].state = .armed) :
    LogInv (s.cancel n) := by
  have on := inv.hoses.sealed n (by rcases h with e | e | e <;> rw [e] <;> nofun)
  have still := inv.hoses.not_reading n (by rcases h with e | e | e <;> rw [e] <;> nofun)
  have inactive : s.hoses[n].state.delivering = false := by rcases h with e | e | e <;> rw [e] <;> rfl
  obtain ⟨frame, rested, others, reserved, receipt, -⟩ := s.cancel_cancels n
  generalize s.cancel n = t at frame rested others reserved receipt ⊢
  have rested : t.hoses[n] = s.atRest n := rested n (List.mem_singleton_self n)
  have others (m : HoseId) (ne : m ≠ n) : t.hoses[m] = s.hoses[m] := others m (by simpa using ne)
  have pumps : t.pumps = s.pumps := by rw [frame]
  have moves : MovesHose n s t :=
    ⟨by rw [frame], by rw [frame], others, by rw [frame], fun _ _ => by rw [frame], fun _ _ => by rw [pumps]⟩
  have links : HoseInv t := inv.hoses.move moves on (fun r => absurd r still) fun a => by
    rw [frame] at a
    exact absurd a (inv.hoses.not_attached n inactive)
  refine inv.settle on links (pumps ▸ frame) (fun m => ?_) (fun m opened => ?_) receipt fun m => ?_
  · rw [reserved, inv.deliveries on m]
    by_cases e : m = n
    · subst e
      rw [rested, s.atRest_closed m]
      rcases h with e | e | e <;> rw [e] <;> simp [HoseState.isOpen]
    · rw [others m e]
      simp [e]
  · by_cases e : m = n
    · rw [e, rested, s.atRest_closed n] at opened
      cases opened
    · rwa [others m e] at opened
  · by_cases e : m = n
    · rw [e, rested]
      exact Hose.not_orphaned_of_none (inv.no_journal on n inactive)
    · rw [others m e]
      exact inv.not_orphaned on m

/-! ## What stops hoses and pumps together (R55, R57, R58) -/

/-- A stopped part keeps the deliveries that are past ARMED. -/
theorem StopsEverything.opened {cause : EndCause} {s t : State} (stops : StopsEverything cause s t) (n : HoseId) :
    t.hoses[n].state.isOpen = (s.hoses[n].state.isOpen && decide (s.hoses[n].state ≠ .armed)) := by
  by_cases active : s.hoses[n].state.isActive = true
  · have past : s.hoses[n].state ≠ .armed := fun e => by rw [e] at active; cases active
    rw [(stops.settling n active).1, HoseState.isOpen_of_delivering (HoseState.delivering_of_active active),
      decide_eq_true past]
    rfl
  · by_cases c : s.hoses[n].state = .identified ∨ s.hoses[n].state = .armed
    · rw [stops.cancelled n c, s.atRest_closed n]
      rcases c with e | e <;> rw [e] <;> rfl
    · rw [not_or] at c
      rw [stops.others n (by simpa using active) c.1 c.2, decide_eq_true c.2, Bool.and_true]

theorem StopsEverything.journaled {cause : EndCause} {s t : State} (stops : StopsEverything cause s t) (n : HoseId)
    (before : s.hoses[n].orphaned = false) : t.hoses[n].orphaned = false := by
  by_cases active : s.hoses[n].state.isActive = true
  · exact Hose.not_orphaned_of_delivering (by rw [(stops.settling n active).1]; rfl)
  · by_cases c : s.hoses[n].state = .identified ∨ s.hoses[n].state = .armed
    · rw [stops.cancelled n c]
      refine Hose.not_orphaned_of_none (Option.not_isSome_iff_eq_none.mp fun some => ?_)
      have delivering := (Hose.not_orphaned_iff _).mp before some
      rcases c with e | e <;> rw [e] at delivering <;> cases delivering
    · rw [not_or] at c
      rw [stops.others n (by simpa using active) c.1 c.2]
      exact before

/-- Before the seal every hose is OFFLINE, and stays so. -/
theorem StopsEverything.unsealed {cause : EndCause} {s t : State} (stops : StopsEverything cause s t)
    (links : HoseInv s) (off : s.isSealed = false) : t.ledger = s.ledger := by
  have offline := links.offline off
  have same (n : HoseId) : t.hoses[n] = s.hoses[n] :=
    stops.others n (by rw [offline]; rfl) (by rw [offline]; nofun) (by rw [offline]; nofun)
  have reserved : t.log.reserved = s.log.reserved := by
    refine reserved_ext (fun n => ?_) stops.receipt
    have past : s.hoses[n].state ≠ .armed := by rw [offline]; nofun
    rw [stops.reserved, decide_eq_true past, Bool.and_true]
  refine State.ledger_of_same (Vector.ext fun i hi => same ⟨i, hi⟩) ?_ (by rw [stops.frame])
  rw [stops.frame, reserved]

theorem LogInv.of_stops {cause : EndCause} {s t : State} (inv : LogInv s) (stops : StopsEverything cause s t) :
    LogInv t := by
  cases on : s.isSealed
  case false => exact inv.of_ledger (inv.hoses.of_stops stops) (by rw [stops.frame]) (stops.unsealed inv.hoses on)
  case true =>
    refine inv.settle on (inv.hoses.of_stops stops) stops.frame (fun n => ?_) (fun n opened => ?_) stops.receipt
      fun n => stops.journaled n (inv.not_orphaned on n)
    · rw [stops.reserved, inv.deliveries on, stops.opened]
    · rw [stops.opened, Bool.and_eq_true] at opened
      exact opened.1

theorem LogInv.emergencyStop {s : State} (inv : LogInv s) : LogInv s.emergencyStop := by
  let v : State := { s with estopLatch := true }
  have moved : LogInv v := inv.of_ledger ⟨inv.hoses.offline, inv.hoses.reading, inv.hoses.attached⟩ rfl rfl
  exact (moved.of_stops (v.stopAll_stops .estop)).post _ _ _

theorem LogInv.metrologyFault {s : State} (inv : LogInv s) : LogInv s.metrologyFault := by
  let v : State := { s with metroFault := true, scanDue := none }
  have moved : LogInv v := inv.of_ledger ⟨inv.hoses.offline, inv.hoses.reading, inv.hoses.attached⟩ rfl rfl
  exact (moved.post .metrologyFault .part s.metro.crc.toNat).of_stops (State.stopAll_stops .metrology _)

theorem LogInv.pumpFault {s : State} (inv : LogInv s) (k : CompId) (on : s.isSealed = true) :
    LogInv (s.pumpFault k) := by
  have faults := s.pumpFault_faults k
  generalize s.pumpFault k = t at faults ⊢
  have log : t.log = s.log := by rw [faults.frame]
  have link : t.link = s.link := by rw [faults.frame]
  have opened (n : HoseId) : t.hoses[n].state.isOpen = s.hoses[n].state.isOpen := by
    rcases faults.hose_state n with ⟨settling, active, -⟩ | ⟨same, -⟩
    · rw [settling, HoseState.isOpen_of_delivering (HoseState.delivering_of_active active)]
      rfl
    · rw [same]
  refine inv.settle on (inv.hoses.of_faults on faults) ?_ (fun n => ?_) (fun n => ?_) (by rw [log]) fun n => ?_
  · rw [link, log, faults.frame]
  · rw [log, opened, inv.deliveries on]
  · rw [opened]
    exact id
  · by_cases reached : s.hoses[n].state.isActive = true ∧ s.hoseComp n = k
    · exact Hose.not_orphaned_of_delivering (by rw [(faults.settled n reached.1 reached.2).1]; rfl)
    · rw [faults.others n (by rwa [not_and_or, Bool.not_eq_true] at reached)]
      exact inv.not_orphaned on n

/-! ## The reads (R2, R7, R10 to R12) -/

section
variable {s : State} (inv : LogInv s) (n : HoseId)
include inv

/-- A read ends: the reader waits, and the hose is in no delivery before and after. -/
theorem LogInv.endRead (r : Reader) (h : Hose) (on : s.isSealed = true) (waits : r.state ≠ .reading)
    (closed : s.hoses[n].state.isOpen = false) (stays : h.state.isOpen = false)
    (journal : h.journal = s.hoses[n].journal) : LogInv ((s.setReader n r).setHose n h) := by
  have stopped : LogInv (s.setReader n r) := inv.setReader n r fun e => absurd e waits
  refine stopped.moveFree n h on closed stays (fun e => ?_) journal
  rw [show (s.setReader n r).readers[n] = r from s.setReader_same n r] at e
  exact absurd e waits

theorem LogInv.readFailed (reason : UnidReason) (on : s.isSealed = true)
    (closed : s.hoses[n].state.isOpen = false) : LogInv (s.readFailed n reason) :=
  (inv.endRead n _ _ on (by nofun) closed (by rfl) (by rfl)).post _ _ _

theorem LogInv.readSucceeded (ring : BitVec 24) (orientation : Nat) (reading : s.hoses[n].state = .reading) :
    LogInv (s.readSucceeded n ring orientation) := by
  have on := inv.hoses.sealed n (by rw [reading]; nofun)
  have closed : s.hoses[n].state.isOpen = false := by rw [reading]; rfl
  unfold State.readSucceeded
  dsimp only
  split
  · exact (inv.endRead n _ _ on (by nofun) closed (by rfl) (by rfl)).post _ _ _
  · exact (inv.endRead n _ _ on (by nofun) closed (by rfl) (by rfl)).post _ _ _

theorem LogInv.endTry (counts : List Nat) (reading : s.hoses[n].state = .reading) : LogInv (s.endTry n counts) := by
  unfold State.endTry
  dsimp only
  split
  · exact inv.readSucceeded n _ _ reading
  · split_ifs
    · exact inv.setReader n _ fun _ => reading
    · exact inv.readFailed n _ (inv.hoses.sealed n (by rw [reading]; nofun)) (by rw [reading]; rfl)

theorem LogInv.tryMeasured (due count : Nat) (st : s.readers[n].state = .reading) :
    LogInv (s.tryMeasured n due count) := by
  have reading := inv.hoses.reading n st
  unfold State.tryMeasured
  dsimp only
  split_ifs
  · exact inv.endTry n _ reading
  · exact inv.setReader n _ fun _ => reading

theorem LogInv.passMeasured (due count : Nat) : LogInv (s.passMeasured n due count) := by
  refine inv.setReader n _ fun e => ?_
  by_cases last : 23 ≤ s.readers[n].pad
  · rw [if_pos last] at e
    cases e
  · rw [if_neg last] at e
    exact inv.hoses.reading n e

theorem LogInv.readerPeriodAt (due : Nat) : LogInv (s.readerPeriodAt due n) := by
  refine inv.setReader n _ fun e => ?_
  split_ifs at e
  · cases e
  · exact inv.hoses.reading n e

/-- A read starts at an IDLE hose, and fails at once without a baseline. -/
theorem LogInv.startRead (idle : s.hoses[n].state = .idle) : LogInv (s.startRead n) := by
  have on := inv.hoses.sealed n (by rw [idle]; nofun)
  have closed : s.hoses[n].state.isOpen = false := by rw [idle]; rfl
  by_cases none' : none ∈ s.readers[n].baseline.toList
  · rw [s.startRead_fails n none']
    exact (inv.endRead n _ _ on (by nofun) closed (by rfl) (by rfl)).post _ _ _
  · rw [s.startRead_measures n fun p mem => Option.isSome_iff_ne_none.mpr fun e => none' (e ▸ mem)]
    have moved : LogInv (s.setHose n { s.hoses[n] with state := .reading }) :=
      inv.moveFree n _ on closed rfl (fun _ => rfl) rfl
    exact moved.setReader n _ fun _ => congrArg Hose.state (s.setHose_same n _)

theorem LogInv.abandonRead : LogInv (s.abandonRead n) := inv.setReader n _ nofun

theorem LogInv.padMeasurement {t : State} (count : BitVec 16) (h : execPadMeasurement n count s = .next t) :
    LogInv t := by
  cases h
  split
  · exact inv
  · rename_i due _
    have reached : LogInv (s.reach due) := inv.of_views rfl rfl
    dsimp only
    split
    · exact reached.passMeasured n due _
    · rename_i st
      exact reached.tryMeasured n due _ st
    · exact reached
    · exact reached

/-! ## The seat line, STOP and AUTHORISE (R37, R40, R41, R50) -/

theorem LogInv.unseat : LogInv (s.unseat n) := by
  unfold State.unseat
  cases st : s.hoses[n].state
  case offline | idle | settling => exact inv
  case identified => exact inv.cancel n (Or.inl st)
  case unidentified => exact inv.cancel n (Or.inr (Or.inl st))
  case armed => exact inv.cancel n (Or.inr (Or.inr st))
  case priming | flowing | paused => exact inv.enterSettling n _ (by rw [st]; rfl)
  case reading =>
    exact (inv.abandonRead n).toRest n (inv.hoses.sealed n (by rw [st]; nofun))
      (by rw [show (s.abandonRead n).hoses[n].state = _ from st]; rfl) (s.abandonRead_still n)
  case finished =>
    exact inv.toRest n (inv.hoses.sealed n (by rw [st]; nofun)) (by rw [st]; rfl)
      (inv.hoses.not_reading n (by rw [st]; nofun))

theorem LogInv.stopHose : LogInv (s.stopHose n) := by
  unfold State.stopHose
  cases st : s.hoses[n].state
  case offline | idle | settling | finished => exact inv
  case identified => exact inv.cancel n (Or.inl st)
  case unidentified => exact inv.cancel n (Or.inr (Or.inl st))
  case armed => exact inv.cancel n (Or.inr (Or.inr st))
  case priming | flowing | paused => exact inv.enterSettling n _ (by rw [st]; rfl)
  case reading =>
    exact inv.endRead n _ _ (inv.hoses.sealed n (by rw [st]; nofun)) (by nofun) (by rw [st]; rfl) rfl rfl

end

/-- Before the seal such a command only refuses. -/
theorem LogInv.afterSeal {s : State} (inv : LogInv s) {body : Body} (h : s.isSealed = true → LogInv (body s).1) :
    LogInv (afterSeal body s).1 := by
  cases on : s.isSealed
  case true =>
    rw [afterSeal_sealed _ s on]
    exact h on
  case false =>
    rw [afterSeal_unsealed _ s on]
    exact inv

theorem LogInv.stopBody {s : State} (inv : LogInv s) (hose : Byte) : LogInv (stopBody hose s).1 := by
  refine inv.afterSeal fun _ => ?_
  split
  · exact inv
  · exact inv.stopHose _

/-- A further reservation fits while a slot is free. -/
theorem Log.room_of_free {l : Log} (h : l.freeCount ≠ 0) : l.count + l.reservedCount + 1 ≤ 1024 := by
  rw [ne_eq, Log.freeCount_eq_zero] at h
  exact Nat.lt_of_not_le h

/-- With one slot more reserved. -/
theorem Log.reservedCount_reserve (l : Log) (h : Holder) :
    (l.reserved.set h true).toList.countP id ≤ l.reservedCount + 1 := by
  have counted := l.reservedCount_set h true
  exact Nat.le_of_add_right_le counted.le

/-- An arming reserves a slot (R41, R117). -/
theorem LogInv.arm {s : State} (inv : LogInv s) (n : HoseId) (i : Ident) (granted : Nat)
    (st : s.hoses[n].state = .identified ∨ s.hoses[n].state = .unidentified) (free : s.log.freeCount ≠ 0) :
    LogInv (s.arm n i granted) := by
  have on := inv.hoses.sealed n (by rcases st with e | e <;> rw [e] <;> nofun)
  have still := inv.hoses.not_reading n (by rcases st with e | e <;> rw [e] <;> nofun)
  have inactive : s.hoses[n].state.delivering = false := by rcases st with e | e <;> rw [e] <;> rfl
  let v := s.setReserved (holderOf n) true
  have armed (h : Hose) (opened : h.state.isOpen = true) (journal : h.journal = s.hoses[n].journal) :
      LogInv (v.setHose n h) := by
    have own : (v.setHose n h).hoses[n] = h := v.setHose_same n h
    refine inv.moveReserved (n := n) ⟨rfl, rfl, fun m e => v.setHose_other n m h e, rfl, fun _ _ => rfl,
      fun _ _ => rfl⟩ on (fun r => absurd r still) (fun a => absurd a (inv.hoses.not_attached n inactive)) rfl ?_ ?_
      rfl ?_
    · exact (Nat.add_le_add_left (s.log.reservedCount_reserve _) _).trans (Log.room_of_free free)
    · rw [own, opened]
      rfl
    · rw [own]
      exact Hose.not_orphaned_of_none (journal.trans (inv.no_journal on n inactive))
  exact (armed _ (by rfl) (by rfl)).of_views (State.ask_flow _ _) (State.ask_ledger _ _)

theorem State.free_of_objection {s : State} {slot : Nat} {e : Entry} {k : CompId} {m : Method}
    (h : s.objection slot e k m = none) : s.log.freeCount ≠ 0 := by
  intro full
  unfold State.objection at h
  split_ifs at h

/-- Past the checks of AUTHORISE the lookups refuse, or the hose is armed (R27, R30). -/
theorem LogInv.authoriseLookups {s : State} (inv : LogInv s) (n : HoseId) (requested : Nat) (number : BitVec 16)
    (st : s.hoses[n].state = .identified ∨ s.hoses[n].state = .unidentified) :
    LogInv (authoriseIdentified n requested s).1 ∧ LogInv (authoriseKeyed n requested number s).1 := by
  have arms (i : Ident) (granted : Nat) (free : s.log.freeCount ≠ 0) := inv.arm n i granted st free
  constructor
  · unfold authoriseIdentified
    dsimp only
    split
    · exact inv
    · split
      · exact inv
      · rename_i passed
        exact arms _ _ (State.free_of_objection passed)
  · unfold authoriseKeyed
    split_ifs
    · exact inv
    · split
      · exact inv
      · split
        · exact inv
        · rename_i passed
          exact arms _ _ (State.free_of_objection passed)

theorem LogInv.authoriseBody {s : State} (inv : LogInv s) (hose : Byte) (preset : BitVec 32)
    (number : BitVec 16) : LogInv (authoriseBody hose preset number s).1 := by
  refine inv.afterSeal fun _ => ?_
  split
  · exact inv
  · rename_i n _
    split
    · exact inv
    · rename_i passed
      obtain ⟨st, -, -⟩ := authoriseRefusal_passed passed
      obtain ⟨identified, keyed⟩ := inv.authoriseLookups n preset.toNat number st
      split_ifs
      · exact identified
      · exact keyed

theorem LogInv.estopClearBody {s : State} (inv : LogInv s) : LogInv (estopClearBody s).1 := by
  refine inv.afterSeal fun _ => ?_
  split_ifs
  · exact inv
  · exact inv
  · exact inv.of_ledger ⟨inv.hoses.offline, inv.hoses.reading, inv.hoses.attached⟩ rfl rfl

end Sys2Proof.Machine
end

section
/-! A record appended takes the slot reserved for it: the windows, the close of a delivery and of a receipt, and the
commands on the stock keep LogInv (03, R46, R52, R53, R68; 08, R117; 09, R130, R136, R137, R139). -/

namespace Sys2Proof.Machine

/-! ## The close of a delivery (R52, R53) -/

/-- A record takes the place of its reservation. -/
theorem Log.room_of_held {l : Log} {h : Holder} (held : l.reserved[h] = true)
    (room : l.count + l.reservedCount ≤ 1024) :
    l.count + 1 + (l.reserved.set h false).toList.countP id ≤ 1024 := by
  have counted := l.reservedCount_set h false
  rw [held, Bool.toNat_true, Bool.toNat_false] at counted
  omega

theorem SameStock.receipts {s t : State} (h : SameStock s t) : s.stock.receipts = t.stock.receipts := by
  rw [h.stock]

theorem Closes.receipts {n : HoseId} {s t : State} (closes : Closes n s t) : t.stock.receipts = s.stock.receipts := by
  rw [closes.stocks.receipts, (State.post_keeps ..).1, State.rebooked_receipts, (State.askListed_keeps _ _).1]

theorem LogInv.closeDelivery {s : State} (inv : LogInv s) (n : HoseId) (settling : s.hoses[n].state = .settling) :
    LogInv (s.closeDelivery n) := by
  have on := inv.hoses.sealed n (by rw [settling]; nofun)
  have closes := s.closeDelivery_closes n
  have receipts := closes.receipts
  obtain ⟨hoses, meters, log, -, -, frame⟩ := closes
  generalize s.closeDelivery n = t at hoses meters log receipts frame ⊢
  obtain ⟨-, -, count, oldest, -, -, -, -, reserved, -⟩ := s.append_log (s.closing n) (some (holderOf n))
  rw [← log] at count oldest
  have reserved : t.log.reserved = s.log.reserved.set (holderOf n) false := log ▸ reserved (holderOf n)
  have own : t.hoses[n] = Hose.bare (s.restState n) none := by rw [hoses, getElem_set_fin, if_pos rfl]
  have closed : t.hoses[n].state.isOpen = false := by rw [own]; exact s.restState_closed n
  refine inv.moveReserved (n := n) ⟨by rw [frame], by rw [frame], fun m ne => ?_, by rw [frame], fun m ne => ?_,
    fun _ _ => by rw [frame]⟩ on (fun r => absurd r (inv.hoses.not_reading n (by rw [settling]; nofun))) (fun a => ?_)
    oldest ?_ (by rw [closed, reserved]) receipts (Hose.not_orphaned_of_none (by rw [own]; rfl))
  · rw [hoses, getElem_set_fin, if_neg ne]
  · rw [meters, getElem_set_fin, if_neg fun e => ne (meterOf_inj e)]
  · rw [meters, getElem_set_fin, if_pos rfl] at a
    cases a
  · unfold Log.reservedCount
    rw [count, reserved]
    exact Log.room_of_held (by rw [inv.deliveries on n, settling]; rfl) inv.room

theorem LogInv.setContext {s : State} (inv : LogInv s) (n : HoseId) (h : Hose)
    (state : h.state = s.hoses[n].state) (journal : h.journal = s.hoses[n].journal) : LogInv (s.setHose n h) :=
  inv.of_views (s.setHose_flow n h state)
    (s.setHose_ledger n h (by rw [state]) (by rw [Hose.orphaned, Hose.orphaned, state, journal]))

theorem LogInv.settleWindow {s : State} (inv : LogInv s) (n : HoseId) (c : Int)
    (settling : s.hoses[n].state = .settling) : LogInv (s.settleWindow n c) := by
  have counted : LogInv (s.setHose n (s.hoses[n].quieted c)) := inv.setContext n _ rfl rfl
  rw [State.settleWindow_eq]
  split_ifs
  · exact inv
  · exact counted.closeDelivery n ((congrArg Hose.state (s.setHose_same n _)).trans settling)
  · exact counted

/-! ## The window of a delivery (R46, R68) -/

section
variable {s : State} (inv : LogInv s) (n : HoseId)
include inv

theorem LogInv.applyPending : LogInv (s.applyPending n) :=
  inv.of_views (s.applyPending_flow n) (s.applyPending_ledger n)

theorem LogInv.stateWork (w : Window) (st : HoseState) (h : s.hoses[n].state = st) :
    LogInv (s.stateWork n w st) := by
  have works (active : st.isActive = true) : LogInv (s.stateWork n w st) :=
    (inv.applyPending n).of_works (s.stateWork_works n w st h active) (by
      rw [hoseState_of_flow (s.applyPending_flow n), h]
      exact HoseState.delivering_of_active active)
  cases st
  case priming | flowing | paused => exact works rfl
  case settling =>
    exact (inv.applyPending n).settleWindow n _ ((hoseState_of_flow (s.applyPending_flow n) n).trans h)
  all_goals exact inv

theorem LogInv.deliveryWindow (w : Window) (delivering : s.hoses[n].state.delivering = true) :
    LogInv (s.deliveryWindow n w) := by
  have counted : LogInv (s.setHose n (s.windowContext n w)) := inv.setContext n _ rfl rfl
  have same : (s.setHose n (s.windowContext n w)).hoses[n].state = s.hoses[n].state :=
    hoseState_of_flow (s.setHose_flow n (s.windowContext n w) rfl) n
  unfold State.deliveryWindow
  dsimp only
  refine LogInv.of_views ?_ (State.endWindow_flow n _) (State.endWindow_ledger n _)
  split
  · exact counted.stateWork n w _ same
  · rename_i unsettled
    refine counted.enterSettling n _ ?_
    rw [same]
    exact HoseState.isActive_of_delivering delivering unsettled
  · exact counted.stateWork n w _ same

end

/-! ## The receipt (R136, R137, R139) -/

theorem State.closeReceipt_log (x : Session) (s : State) :
    (s.closeReceipt x).log = (s.append (x.receipt.record s.receiptTemp) (some holderReceipt)).log := by
  simp [State.closeReceipt]

theorem State.closeReceipt_receipts (x : Session) (s : State) : (s.closeReceipt x).stock.receipts = (false, false) := by
  unfold State.closeReceipt
  dsimp only
  rw [State.setRestock_receipts, (State.post_keeps ..).1]
  rfl

/-- A window of a session, and the close of an ENDING one. -/
theorem LogInv.receiptWindow {s : State} (inv : LogInv s) (w : Window) : LogInv (s.receiptWindow w) := by
  have flow := s.receiptWindow_flow w
  unfold State.receiptWindow at flow ⊢
  cases session : s.stock.session with
  | none => exact inv
  | some x =>
    rw [session] at flow
    have on : s.isSealed = true := by
      by_contra off
      rw [inv.noSession (by simpa using off)] at session
      cases session
    have held : s.log.reserved[holderReceipt] = true := by rw [inv.receipts on, session]; rfl
    dsimp only at flow ⊢
    split_ifs at flow ⊢ with ending
    · let y := s.windowSession x w
      let v := s.putSession y
      let t := (v.closeReceipt y).detach meterMR
      have log : t.log = (v.append (y.receipt.record v.receiptTemp) (some holderReceipt)).log := v.closeReceipt_log y
      obtain ⟨-, -, count, oldest, -, -, -, -, reserved, -⟩ :=
        v.append_log (y.receipt.record v.receiptTemp) (some holderReceipt)
      have closed : t.stock.receipts = (false, false) := v.closeReceipt_receipts y
      have reserved : t.log.reserved = s.log.reserved.set holderReceipt false :=
        (congrArg Log.reserved log).trans (reserved holderReceipt)
      refine inv.moveReceipt on flow (by simp) ?_ ?_ ?_ ?_
      · exact (congrArg Log.oldest log).trans oldest
      · show t.log.count + t.log.reserved.toList.countP id ≤ 1024
        rw [reserved, log, count]
        exact Log.room_of_held held inv.room
      · rw [show ((v.closeReceipt y).detach meterMR).stock.session.isSome = false from congrArg Prod.fst closed]
        exact reserved
      · exact congrArg Prod.snd closed
    · refine inv.of_views flow (State.ledger_of_same (by simp) (by simp) ?_)
      rw [State.highLevelTest_receipts]
      exact s.putSession_receipts _ (by rw [session]; rfl)

theorem State.beginReceipt_log (k : CompId) (s : State) :
    (s.beginReceipt k).log = { s.log with reserved := s.log.reserved.set holderReceipt true } := by
  simp [State.beginReceipt, State.setReserved]

theorem State.beginReceipt_receipts (k : CompId) (s : State) : (s.beginReceipt k).stock.receipts = (true, false) := by
  unfold State.beginReceipt
  dsimp only
  rw [State.highLevelTest_receipts, State.setRestock_receipts]
  simp [State.putSession, Stock.receipts]

theorem LogInv.receiptBeginBody {s : State} (inv : LogInv s) (comp : Byte) : LogInv (receiptBeginBody comp s).1 := by
  refine inv.afterSeal fun on => ?_
  split
  · exact inv
  · rename_i k _
    split_ifs with busy unset full
    · exact inv
    · exact inv
    · exact inv
    · have log := s.beginReceipt_log k
      have receipts := s.beginReceipt_receipts k
      refine inv.moveReceipt on (s.beginReceipt_flow k) (by simp) (by rw [log]) ?_ ?_ (congrArg Prod.snd receipts)
      · rw [log]
        exact (Nat.add_le_add_left (s.log.reservedCount_reserve _) _).trans (Log.room_of_free full)
      · rw [log, show (s.beginReceipt k).stock.session.isSome = true from congrArg Prod.fst receipts]

/-! ## The windows (R90) -/

theorem LogInv.account {s : State} (inv : LogInv s) (m : MeterId) (w : Window) : LogInv (s.account m w) := by
  unfold State.account
  split
  · exact inv.of_views (s.accountStray_flow m w) (s.accountStray_ledger m w)
  · rename_i n attached hose
    rw [hoseOfMeter_eq_some hose] at attached
    exact inv.deliveryWindow n w (inv.hoses.attached n attached)
  · exact inv
  · exact inv.receiptWindow w

theorem LogInv.windowExpiry {s t : State} (inv : LogInv s) (m : MeterId)
    (h : execWindowExpiry m s = .next t) : LogInv t := by
  cases h
  split
  · exact inv
  · rename_i due _
    have armed : LogInv ((s.reach due).applyArmed m) :=
      inv.of_views (State.applyArmed_flow m (s.reach due)) (State.applyArmed_ledger m (s.reach due))
    have noted := armed.of_views (State.noteRate_flow m (((s.reach due).applyArmed m).windowOf m).rate _) rfl
    exact (noted.account m _).of_views (State.nextWindow_flow ..) rfl

/-! ## The stock book (R130) -/

theorem State.setStock_flow (k : CompId) (value : Int) (s : State) : (s.setStock k value).flow = s.flow := by
  simp [State.setStock, State.flow]

theorem State.setStock_receipts (k : CompId) (value : Int) (s : State) :
    (s.setStock k value).stock.receipts = s.stock.receipts := by
  unfold State.setStock
  dsimp only
  rw [State.setRestock_receipts]
  rfl

/-- SET_STOCK appends a record without a reservation, into a free slot. -/
theorem LogInv.setStockBody {s : State} (inv : LogInv s) (comp : Byte) (book : BitVec 32) :
    LogInv (setStockBody comp book s).1 := by
  refine inv.afterSeal fun _ => ?_
  split
  · exact inv
  · rename_i k _
    split_ifs with range busy full
    · exact inv
    · exact inv
    · exact inv
    · let r := adjustRecord k s.stock.books[k].value book.toNat
      have log : (s.setStock k book.toNat).log = (s.append r none).log := by simp [State.setStock, r]
      have appended : LogInv { s with log := (s.append r none).log } := by
        refine inv.setLog _ inv.inRing ?_ rfl
        have room := Log.room_of_free full
        show s.log.count + 1 + s.log.reservedCount ≤ 1024
        omega
      exact appended.of_views (s.setStock_flow k _)
        (State.ledger_of_same (by simp [State.setStock]) log (s.setStock_receipts k _))

end Sys2Proof.Machine
end

section
/-! RELEASE and the drain, the seal and the restarts keep LogInv (03, R60; 08, R113, R123, R124, R126; 09, R137; 11,
R162, R167). -/

namespace Sys2Proof.Machine

/-! ## The run cut short (R123, R124) -/

/-- A release shortens the run from its oldest record. -/
theorem Log.release_run (n : Nat) (l : Log) (inRing : l.oldest < 1024) :
    (l.release n).oldest < 1024 ∧ (l.release n).count ≤ l.count ∧ (l.release n).reserved = l.reserved := by
  obtain ⟨oldest, count, -, -, frame⟩ := Log.releaseMany_spec (min n l.count) l inRing
  refine ⟨oldest.trans_lt (Nat.mod_lt _ (by decide)), count.trans_le (Nat.sub_le _ _), ?_⟩
  exact (congrArg Log.reserved frame :)

theorem LogInv.release {s : State} (inv : LogInv s) (n : Nat) : LogInv { s with log := s.log.release n } := by
  obtain ⟨inRing, count, reserved⟩ := s.log.release_run n inv.inRing
  exact inv.setLog _ inRing ((Nat.add_le_add_right count _).trans inv.room) reserved

theorem LogInv.readRecordDrainBody {s : State} (inv : LogInv s) (k : BitVec 32) (part : Byte) :
    LogInv (readRecordDrainBody k part s).1 := by
  have remembers (l : Log) (kept : LogInv { s with log := l }) (drain : Option (Nat × BitVec 32)) :
      LogInv { s with log := { l with drain } } := kept.of_views rfl rfl
  unfold Machine.readRecordDrainBody
  by_cases param : k ≠ 0 ∨ part ≠ 0
  · rw [if_pos param]
    exact inv
  · rw [if_neg param]
    extract_lets l seq
    have drained : LogInv { s with log := l } := by
      unfold l
      split_ifs
      · exact inv.release 1
      · exact inv
    clear_value l
    split_ifs
    · exact remembers l drained _
    · exact remembers l drained _

/-! ## Before the seal (R60, R113, R137) -/

theorem State.adjustBook_session (k : CompId) (d : Int) (s : State) :
    (s.adjustBook k d).stock.session = s.stock.session ∧ (s.adjustBook k d).stock.rjournal = s.stock.rjournal :=
  ⟨rfl, rfl⟩

/-- The close of a journal at the seal, in what LogInv reads of it. -/
structure ClosesJournal (n : HoseId) (s t : State) : Prop where
  hoses : t.hoses = s.hoses.set n { s.hoses[n] with journal := none }
  log : ∃ r, t.log = (s.append r (some (holderOf n))).log
  session : t.stock.session = s.stock.session
  rjournal : t.stock.rjournal = s.stock.rjournal

theorem State.closeJournal_absent (n : HoseId) (s : State) (h : s.hoses[n].journal = none) : s.closeJournal n = s := by
  unfold State.closeJournal
  rw [h]

theorem State.closeJournal_closes (n : HoseId) (s : State) {j : Journal} (h : s.hoses[n].journal = some j) :
    ClosesJournal n s (s.closeJournal n) := by
  unfold State.closeJournal
  rw [h]
  refine ⟨by simp [State.setHose], ⟨s.deliveryRecord (j.delivery n (s.hoseComp n)), by simp⟩, ?_, ?_⟩ <;>
    simp [State.adjustBook_session]

theorem State.closeJournal_journal (n m : HoseId) (s : State) :
    (s.closeJournal n).hoses[m].journal = if m = n then none else s.hoses[m].journal := by
  cases h : s.hoses[n].journal with
  | none =>
    rw [s.closeJournal_absent n h]
    split_ifs with e
    · rw [e, h]
    · rfl
  | some j =>
    rw [(s.closeJournal_closes n h).hoses, getElem_set_fin]
    split_ifs <;> rfl

/-- The record of a journal takes the place of its reservation. -/
theorem LogInv.closeJournal {s : State} (inv : LogInv s) (off : s.isSealed = false) (n : HoseId) :
    LogInv (s.closeJournal n) := by
  cases h : s.hoses[n].journal with
  | none => rwa [s.closeJournal_absent n h]
  | some j =>
    have flow := s.closeJournal_flow n
    have journal (m : HoseId) := s.closeJournal_journal n m
    obtain ⟨-, ⟨r, log⟩, session, rjournal⟩ := s.closeJournal_closes n h
    obtain ⟨-, -, count, oldest, -, -, -, -, reserved, -⟩ := s.append_log r (some (holderOf n))
    generalize s.closeJournal n = t at *
    have held : s.log.reserved[holderOf n] = true := by
      rw [inv.unsealed off, State.journalHolders_hose, h]
      rfl
    have reserved : t.log.reserved = s.log.reserved.set (holderOf n) false := log ▸ reserved (holderOf n)
    refine .of_unsealed (inv.hoses.of_flow flow) ((isSealed_of_flow flow).trans off) ?_ ?_ ?_
      (session.trans (inv.noSession off))
    · rw [Log.reservedCount, reserved, log, count]
      exact Log.room_of_held held inv.room
    · rw [log, oldest]
      exact inv.inRing
    · rw [reserved, inv.unsealed off]
      refine reserved_ext (fun m => ?_) ?_
      · rw [getElem_set_fin, State.journalHolders_hose, State.journalHolders_hose, journal]
        simp only [holderOf_inj]
        split_ifs <;> rfl
      · rw [getElem_set_fin, if_neg (holderOf_ne_receipt n).symm, State.journalHolders_receipt,
          State.journalHolders_receipt, rjournal]

theorem State.closeReceiptJournal_absent (s : State) (h : s.stock.rjournal = none) : s.closeReceiptJournal = s := by
  unfold State.closeReceiptJournal
  rw [h]

theorem State.closeReceiptJournal_hoses (s : State) : s.closeReceiptJournal.hoses = s.hoses := by
  unfold State.closeReceiptJournal
  split
  · rfl
  · simp

theorem State.closeReceiptJournal_rjournal (s : State) : s.closeReceiptJournal.stock.rjournal = none := by
  unfold State.closeReceiptJournal
  split
  · assumption
  · simp

theorem State.closeReceiptJournal_session (s : State) : s.closeReceiptJournal.stock.session = s.stock.session := by
  unfold State.closeReceiptJournal
  split
  · rfl
  · simp [State.adjustBook_session]

theorem State.closeReceiptJournal_log (s : State) {j : ReceiptJournal} (h : s.stock.rjournal = some j) :
    ∃ r, s.closeReceiptJournal.log = (s.append r (some holderReceipt)).log := by
  refine ⟨j.receipt.record s.receiptTemp, ?_⟩
  unfold State.closeReceiptJournal
  rw [h]
  simp

theorem LogInv.closeReceiptJournal {s : State} (inv : LogInv s) (off : s.isSealed = false) :
    LogInv s.closeReceiptJournal := by
  cases h : s.stock.rjournal with
  | none => rwa [s.closeReceiptJournal_absent h]
  | some j =>
    have flow := s.closeReceiptJournal_flow
    have hoses := s.closeReceiptJournal_hoses
    have session := s.closeReceiptJournal_session
    have rjournal := s.closeReceiptJournal_rjournal
    obtain ⟨r, log⟩ := s.closeReceiptJournal_log h
    obtain ⟨-, -, count, oldest, -, -, -, -, reserved, -⟩ := s.append_log r (some holderReceipt)
    generalize s.closeReceiptJournal = t at *
    have held : s.log.reserved[holderReceipt] = true := by
      rw [inv.unsealed off, State.journalHolders_receipt, h]
      rfl
    have reserved : t.log.reserved = s.log.reserved.set holderReceipt false := log ▸ reserved holderReceipt
    refine .of_unsealed (inv.hoses.of_flow flow) ((isSealed_of_flow flow).trans off) ?_ ?_ ?_
      (session.trans (inv.noSession off))
    · rw [Log.reservedCount, reserved, log, count]
      exact Log.room_of_held held inv.room
    · rw [log, oldest]
      exact inv.inRing
    · rw [reserved, inv.unsealed off]
      refine reserved_ext (fun m => ?_) ?_
      · rw [getElem_set_fin, if_neg (holderOf_ne_receipt m), State.journalHolders_hose, State.journalHolders_hose,
          hoses]
      · rw [getElem_set_fin, if_pos rfl, State.journalHolders_receipt, rjournal]
        rfl

theorem State.closeJournals_journal (l : List HoseId) (n : HoseId) (s : State)
    (h : n ∈ l ∨ s.hoses[n].journal = none) : (s.forEach l State.closeJournal).hoses[n].journal = none := by
  induction l generalizing s with
  | nil => exact h.resolve_left List.not_mem_nil
  | cons a rest ih =>
    refine ih (s.closeJournal a) ?_
    rw [State.closeJournal_journal, ite_eq_left_iff, List.mem_cons] at *
    tauto

/-- A part with every journal closed. -/
structure LogClosed (s : State) : Prop where
  inv : LogInv s
  off : s.isSealed = false
  journals : ∀ n : HoseId, s.hoses[n].journal = none
  receipt : s.stock.rjournal = none

theorem LogInv.closeJournals {s : State} (inv : LogInv s) (off : s.isSealed = false) :
    LogClosed (s.forEach allHoses State.closeJournal).closeReceiptJournal := by
  have closed := State.forEach_keeps (fun u => LogInv u ∧ u.isSealed = false) allHoses State.closeJournal s
    (fun n _ u h => ⟨h.1.closeJournal h.2 n, (isSealed_of_flow (u.closeJournal_flow n)).trans h.2⟩) ⟨inv, off⟩
  have journal (n : HoseId) := s.closeJournals_journal allHoses n (Or.inl (mem_allHoses n))
  generalize s.forEach allHoses State.closeJournal = u at closed journal ⊢
  obtain ⟨inv, off⟩ := closed
  refine ⟨inv.closeReceiptJournal off, (isSealed_of_flow u.closeReceiptJournal_flow).trans off, fun n => ?_,
    u.closeReceiptJournal_rjournal⟩
  rw [u.closeReceiptJournal_hoses]
  exact journal n

/-! ## The seal (R60, R87, R167) -/

/-- A sealed part with every hose at rest or still OFFLINE, as the completion of the seal finds it. -/
structure LogResting (s : State) : Prop where
  inv : LogInv s
  on : s.isSealed = true
  rests : ∀ n : HoseId, s.hoses[n].state = .offline ∨ s.hoses[n].state = .idle ∨ s.hoses[n].state = .finished

theorem LogClosed.begins {s : State} (closed : LogClosed s) : LogResting { s with isSealed := true, now := 0 } := by
  obtain ⟨inv, off, journals, receipt⟩ := closed
  have offline := inv.hoses.offline off
  refine ⟨.of_sealed ⟨nofun, inv.hoses.reading, inv.hoses.attached⟩ rfl inv.room inv.inRing (fun n => ?_) ?_
    (fun n => Hose.not_orphaned_of_none (journals n)) ?_, rfl, fun n => Or.inl (offline n)⟩
  · show s.log.reserved[holderOf n] = s.hoses[n].state.isOpen
    rw [inv.unsealed off, State.journalHolders_hose, journals, offline]
    rfl
  · show s.log.reserved[holderReceipt] = s.stock.session.isSome
    rw [inv.unsealed off, State.journalHolders_receipt, receipt, inv.noSession off]
    rfl
  · show (s.stock.rjournal.isSome && s.stock.session.isNone) = false
    rw [receipt]
    rfl

theorem LogResting.toRest {s : State} (r : LogResting s) (n : HoseId) : LogResting (s.toRest n) := by
  refine ⟨r.inv.toRest n r.on ?_ (r.inv.hoses.not_reading n ?_), r.on, fun m => ?_⟩
  · rcases r.rests n with e | e | e <;> rw [e] <;> rfl
  · rcases r.rests n with e | e | e <;> rw [e] <;> nofun
  · rw [show (s.toRest n).hoses[m] = _ from s.setHose_get n m _]
    split_ifs
    · exact Or.inr (s.restState_cases n)
    · exact r.rests m

theorem LogInv.startReader {s : State} (inv : LogInv s) (n : HoseId) : LogInv (s.startReader n) :=
  (inv.setReader n { s.readers[n] with state := .waiting } nofun).readerPeriodAt n 0

/-- LogInv of a sealed part. -/
structure SealedLog (s : State) : Prop where
  inv : LogInv s
  on : s.isSealed = true

theorem SealedLog.startPump {s : State} (sealed : SealedLog s) (k : CompId) : SealedLog (s.startPump k) := by
  have started := sealed.inv.setPump k { s.pumps[k] with pwmStart := 0, pwmDue := some s.pwmPeriod }
  unfold State.startPump
  dsimp only
  split_ifs
  · exact ⟨started.pumpFault k sealed.on, by rw [(State.pumpFault_faults k _).frame]; exact sealed.on⟩
  · exact ⟨started, sealed.on⟩

/-- Every channel starts its windows attached to no delivery. -/
theorem LogInv.startMeters {s : State} (inv : LogInv s) : LogInv s.startMeters := by
  have stray (n : HoseId) : s.startMeters.meters[meterOf n].attach = .stray := by simp [State.startMeters]
  exact inv.of_ledger ⟨inv.hoses.offline, inv.hoses.reading, fun n a => by rw [stray n] at a; cases a⟩ rfl rfl

theorem LogInv.complete {s : State} (inv : LogInv s) (off : s.isSealed = false) : LogInv s.complete := by
  unfold State.complete
  extract_lets closed sealed resting reading pumping stopped metered sampler sampling linked log due
  have began : LogResting sealed := (inv.closeJournals off).begins
  clear_value closed sealed
  have rest : LogResting resting := State.forEach_keeps LogResting allHoses _ sealed (fun n _ u r => r.toRest n) began
  clear_value resting
  have read : SealedLog reading := State.forEach_keeps SealedLog allHoses _ resting
    (fun n _ u r => ⟨r.inv.startReader n, r.on⟩) ⟨rest.inv, rest.on⟩
  clear_value reading
  have pump : SealedLog pumping := State.forEach_keeps SealedLog allComps _ reading (fun k _ u r => r.startPump k) read
  clear_value pumping
  have stop : LogInv stopped := by
    unfold stopped
    split_ifs
    · exact pump.inv.emergencyStop
    · exact pump.inv
  clear_value stopped
  have meter : LogInv sampling := stop.startMeters.of_views rfl rfl
  clear_value sampling
  have link : LogInv linked := meter.of_views sampling.startRestock_flow sampling.startRestock_ledger
  clear_value linked
  have timed : LogInv due := link.of_views rfl rfl
  exact timed.of_views due.postLosses_flow due.postLosses_ledger

theorem LogInv.sealBody {s : State} (inv : LogInv s) : LogInv (sealBody s).1 := by
  cases on : s.isSealed
  case true =>
    rw [Machine.sealBody, beforeSeal_sealed _ s on]
    exact inv
  case false =>
    rcases sealBody_state s with e | e <;> rw [e]
    · exact inv
    · exact inv.complete on

theorem LogInv.setConfigBody {s : State} (inv : LogInv s) (item element : Byte) (value : BitVec 32) :
    LogInv (setConfigBody item element value s).1 := by
  have config (c : ConfigBlock) : LogInv { s with config := c } :=
    inv.of_ledger ⟨inv.hoses.offline, inv.hoses.reading, inv.hoses.attached⟩ rfl rfl
  unfold Machine.setConfigBody
  cases on : s.isSealed
  case true =>
    rw [beforeSeal_sealed _ s on]
    exact inv
  case false =>
    rw [beforeSeal_unsealed _ s on]
    dsimp only
    split_ifs
    · exact inv
    · exact inv
    · exact config _
    · exact inv
    · exact config _
    · exact config _

/-! ## The restarts (R113, R126, R162) -/

theorem journalStartUp_isSome (n : HoseId) (j : Option Journal) : (journalStartUp n j).1.isSome = j.isSome := by
  unfold journalStartUp
  split
  · rfl
  · split_ifs <;> rfl

theorem receiptStartUp_isSome (j : Option ReceiptJournal) : (receiptStartUp j).1.isSome = j.isSome := by
  unfold receiptStartUp
  split
  · rfl
  · split_ifs <;> rfl

theorem State.restart_journalHolders (cause : Byte) (s : State) :
    (s.restart cause).journalHolders = s.journalHolders := by
  refine reserved_ext (fun n => ?_) ?_
  · rw [State.journalHolders_hose, State.journalHolders_hose, ← journalStartUp_isSome n s.hoses[n].journal]
    simp [State.restart, Hose.bare]
  · rw [State.journalHolders_receipt, State.journalHolders_receipt, ← receiptStartUp_isSome s.stock.rjournal]
    rfl

/-- The checks of the records and of the counter leave the run and its reservations. -/
theorem Log.startUp_run (held : Vector Bool 5) (l : Log) :
    let cleared := { l with corrupt := [], drain := none, scrub := none, scrubDue := none, reserved := held }
    let a := (cleared.checkIndex (held.toList.countP id)).1
    (l.startUp held).1.oldest = a.oldest ∧ (l.startUp held).1.count = a.count ∧
      (l.startUp held).1.reserved = a.reserved := by
  unfold Log.startUp Log.checkRecords Log.checkSeq
  dsimp only
  split_ifs <;> exact ⟨rfl, rfl, rfl⟩

/-- The run that the index check leaves lies in the ring with room for the journals. -/
theorem Log.checkIndex_room (journals : Nat) (l : Log) (inRing : l.oldest < 1024)
    (room : l.count + journals ≤ 1024) :
    (l.checkIndex journals).1.oldest < 1024 ∧ (l.checkIndex journals).1.count + journals ≤ 1024 ∧
      (l.checkIndex journals).1.reserved = l.reserved := by
  unfold Log.checkIndex
  split_ifs
  · exact ⟨inRing, room, rfl⟩
  · obtain ⟨-, short, -⟩ := l.foundRun_spec
    obtain ⟨oldest, count, -, -, frame⟩ := l.rebuilt_spec journals
    refine ⟨oldest.trans_lt (Nat.mod_lt _ (by decide)), ?_, (congrArg Log.reserved frame :)⟩
    dsimp only
    rw [count]
    omega

theorem Log.startUp_room (held : Vector Bool 5) (l : Log) (inRing : l.oldest < 1024)
    (room : l.count + held.toList.countP id ≤ 1024) :
    (l.startUp held).1.oldest < 1024 ∧ (l.startUp held).1.count + held.toList.countP id ≤ 1024 ∧
      (l.startUp held).1.reserved = held := by
  obtain ⟨oldest, count, reserved⟩ := l.startUp_run held
  rw [oldest, count, reserved]
  exact Log.checkIndex_room _ { l with corrupt := [], drain := none, scrub := none, scrubDue := none, reserved := held }
    inRing room

/-- Every journal holds a reservation. -/
theorem LogInv.journals_reserved {s : State} (inv : LogInv s) (h : Holder) (held : s.journalHolders[h] = true) :
    s.log.reserved[h] = true := by
  cases on : s.isSealed
  case false => rwa [inv.unsealed on]
  case true =>
    revert h
    refine forall_holder (fun n => ?_) ?_
    · rw [State.journalHolders_hose, inv.deliveries on]
      exact fun held => HoseState.isOpen_of_delivering (inv.journals on n held)
    · rw [State.journalHolders_receipt, inv.receipts on]
      exact inv.sessions on

theorem LogInv.restart {s : State} (inv : LogInv s) (cause : Byte) : LogInv (s.restart cause) := by
  have fewer : s.journalHolders.toList.countP id ≤ s.log.reservedCount := countP_le_of_imp inv.journals_reserved
  obtain ⟨inRing, room, reserved⟩ := s.log.startUp_room s.journalHolders inv.inRing
    ((Nat.add_le_add_left fewer _).trans inv.room)
  refine .of_unsealed (FlowInv.restart cause s).hoses rfl ?_ inRing ?_ rfl
  · unfold Log.reservedCount
    show (s.log.startUp _).1.count + (s.log.startUp s.journalHolders).1.reserved.toList.countP id ≤ 1024
    rw [reserved]
    exact room
  · rw [State.restart_journalHolders]
    exact reserved

end Sys2Proof.Machine
end

section
/-! Every step keeps LogInv: the lines, the expiries and the commands (03, R38, R43, R48, R55, R57; 05, R77, R79, R80;
11, R168). -/

namespace Sys2Proof.Machine

/-! ## The lines and the expiries (R38, R43, R48, R55, R57, R77, R79, R80) -/

/-- PRIMING hoses enter FLOWING one after another. -/
theorem LogInv.forEach_enterFlowing (l : List HoseId) {s : State} (inv : LogInv s) (once : l.Nodup)
    (priming : ∀ n ∈ l, s.hoses[n].state = .priming) : LogInv (s.forEach l State.enterFlowing) := by
  induction l generalizing s with
  | nil => exact inv
  | cons a rest ih =>
    obtain ⟨notin, once⟩ := List.nodup_cons.mp once
    refine ih (inv.enterFlowing a (priming a List.mem_cons_self)) once fun n mem => ?_
    rw [(s.enterFlowing_enters a).keeps.others n fun e => notin (e ▸ mem)]
    exact priming n (List.mem_cons_of_mem a mem)

theorem LogInv.spunUp {s : State} (inv : LogInv s) (k : CompId) : LogInv (s.spunUp k) := by
  unfold State.spunUp
  dsimp only
  split_ifs
  · exact (inv.setPump k _).forEach_enterFlowing _ (allHoses_nodup.filter _)
      fun n mem => ((s.mem_primingClaimants k n).mp mem).2
  · exact inv.setPump k _

section
variable {s t : State} (inv : LogInv s) (n : HoseId) (k : CompId)
include inv

theorem LogInv.setSeat (b : Bool) : LogInv (s.setSeat n b) := inv.of_views rfl rfl

theorem LogInv.seatEvent (h : exec (.seatEvent n) s = .next t) : LogInv t := by
  by_cases idle : s.hoses[n].state = .idle
  · cases (exec_seatEvent_idle n s idle).symm.trans h
    exact (inv.setSeat n true).startRead n idle
  · cases (exec_seatEvent_other n s idle).symm.trans h
    exact inv.setSeat n true

theorem LogInv.deadmanHeld (h : exec (.deadmanHeld n) s = .next t) : LogInv t := by
  have moved : LogInv (s.setDeadman n true) := inv.of_views rfl rfl
  by_cases armed : s.hoses[n].state = .armed
  · by_cases fault : (s.pumpOf n).state = .fault
    · cases (exec_deadmanHeld_faulted n s armed fault).symm.trans h
      exact moved
    · cases (exec_deadmanHeld_starts n s armed fault).symm.trans h
      exact moved.startDelivery n armed
  · by_cases paused : s.hoses[n].state = .paused
    · cases (exec_deadmanHeld_resumes n s paused).symm.trans h
      exact moved.resume n paused
    · cases (exec_deadmanHeld_stays n s armed paused).symm.trans h
      exact moved

theorem LogInv.deadmanRelease (h : exec (.deadmanRelease n) s = .next t) : LogInv t := by
  have moved : LogInv (s.setDeadman n false) := inv.of_views rfl rfl
  by_cases st : s.hoses[n].state = .priming ∨ s.hoses[n].state = .flowing
  · cases (exec_deadmanRelease_pauses n s st).symm.trans h
    refine moved.pause n ?_
    show s.hoses[n].state.isActive = true
    rcases st with e | e <;> rw [e] <;> rfl
  · rw [not_or] at st
    cases (exec_deadmanRelease_stays n s st.1 st.2).symm.trans h
    exact moved

theorem LogInv.armExpiry (h : exec (.armExpiry n) s = .next t) : LogInv t := by
  have h : execArmExpiry n s = .next t := h
  unfold execArmExpiry at h
  cases h
  split
  · exact inv
  · rename_i due _
    have reached : LogInv (s.reachSec due) := inv.of_views rfl rfl
    dsimp only
    split_ifs with st
    · exact (reached.cancel n (st.imp_right Or.inr)).post _ _ _
    · exact inv

theorem LogInv.pauseExpiry (h : exec (.pauseExpiry n) s = .next t) : LogInv t := by
  have h : execPauseExpiry n s = .next t := h
  unfold execPauseExpiry at h
  cases h
  split
  · exact inv
  · rename_i due _
    have reached : LogInv (s.reachSec due) := inv.of_views rfl rfl
    split_ifs with st
    · exact reached.enterSettling n _ (by rw [show (s.reachSec due).hoses[n].state = _ from st]; rfl)
    · exact inv

theorem LogInv.estopAssertion (h : exec .estopAssertion s = .next t) : LogInv t := by
  have moved : LogInv { s with pins := { s.pins with estop := true } } := inv.of_views rfl rfl
  cases on : s.isSealed
  case false =>
    cases (exec_estopAssertion_unsealed s on).symm.trans h
    exact moved
  case true =>
    cases (exec_estopAssertion_sealed s on).symm.trans h
    exact moved.emergencyStop

theorem LogInv.pfltAssertion (h : exec (.pfltAssertion k) s = .next t) : LogInv t := by
  have moved : LogInv { s with pins := { s.pins with pflt := s.pins.pflt.set k true } } := inv.of_views rfl rfl
  cases on : s.isSealed
  case false =>
    cases (exec_pfltAssertion_unsealed k s on).symm.trans h
    exact moved
  case true =>
    cases (exec_pfltAssertion_sealed k s on).symm.trans h
    exact moved.pumpFault k on

theorem LogInv.pfltRelease (h : exec (.pfltRelease k) s = .next t) : LogInv t := by
  have moved : LogInv { s with pins := { s.pins with pflt := s.pins.pflt.set k false } } := inv.of_views rfl rfl
  by_cases fault : s.isSealed = true ∧ s.pumps[k].state = .fault
  · cases (exec_pfltRelease_faulted k s fault.1 fault.2).symm.trans h
    exact moved.setPump k _
  · cases (exec_pfltRelease_stays k s fault).symm.trans h
    exact moved

theorem LogInv.spinUpExpiry (h : exec (.spinUpExpiry k) s = .next t) : LogInv t := by
  have h : execSpinUpExpiry k s = .next t := h
  unfold execSpinUpExpiry at h
  cases h
  split
  · exact inv
  · rename_i due _
    have reached : LogInv (s.reachMs due) := inv.of_views rfl rfl
    exact (reached.spunUp k).of_views (State.reselect_flow ..) rfl

theorem LogInv.runOnExpiry (h : exec (.runOnExpiry k) s = .next t) : LogInv t := by
  have h : execRunOnExpiry k s = .next t := h
  unfold execRunOnExpiry at h
  cases h
  split
  · exact inv
  · rename_i due _
    have reached : LogInv (s.reachSec due) := inv.of_views rfl rfl
    exact reached.setPump k _

theorem LogInv.scanExpiry (h : exec .scanExpiry s = .next t) : LogInv t := by
  have h : execScanExpiry s = .next t := h
  unfold execScanExpiry at h
  cases h
  split
  · exact inv
  · rename_i due _
    have reached : LogInv (s.reach due) := inv.of_views rfl rfl
    dsimp only
    split_ifs
    · exact reached.of_views rfl rfl
    · exact reached.metrologyFault

theorem LogInv.periodExpiry (h : exec (.periodExpiry n) s = .next t) : LogInv t := by
  have h : execPeriodExpiry n s = .next t := h
  unfold execPeriodExpiry at h
  cases h
  split
  · exact inv
  · rename_i due _
    have reached : LogInv (s.reach due) := inv.of_views rfl rfl
    exact reached.readerPeriodAt n due

end

/-! ## Every step -/

/-- A command keeps LogInv if its body does. -/
theorem LogInv.command {s t : State} (inv : LogInv s) {code tag : Byte} {body : Body}
    (keeps : ∀ u : State, LogInv u → LogInv (body u).1) (h : s.command code tag body = .next t) :
    LogInv t := by
  cases h
  exact (keeps s.beginExchange (inv.of_views rfl rfl)).of_views rfl rfl

theorem LogInv.exec {i : Instr} {s t : State} (inv : LogInv s) (h : exec i s = .next t) : LogInv t := by
  cases moves : movesLog i with
  | false => exact inv.exec_still moves h
  | true =>
    cases i
    case setConfig => exact inv.command (fun _ inv => inv.setConfigBody _ _ _) h
    case sealPart => exact inv.command (fun _ inv => inv.sealBody) h
    case authorise => exact inv.command (fun _ inv => inv.authoriseBody _ _ _) h
    case stop => exact inv.command (fun _ inv => inv.stopBody _) h
    case readRecordDrain => exact inv.command (fun _ inv => inv.readRecordDrainBody _ _) h
    case release => exact inv.command (fun _ inv => inv.release _) h
    case setStock => exact inv.command (fun _ inv => inv.setStockBody _ _) h
    case receiptBegin => exact inv.command (fun _ inv => inv.receiptBeginBody _) h
    case estopClear => exact inv.command (fun _ inv => inv.estopClearBody) h
    case restart => cases h; exact LogInv.restart (s := s.beginExchange) (inv.of_views rfl rfl) 2
    case powerUp => cases h; exact inv.restart 0
    case resetnAssertion => cases h; exact inv.restart 1
    case seatEvent n => exact inv.seatEvent n h
    case unseatEvent n => cases h; exact (inv.setSeat n false).unseat n
    case deadmanHeld n => exact inv.deadmanHeld n h
    case deadmanRelease n => exact inv.deadmanRelease n h
    case estopAssertion => exact inv.estopAssertion h
    case pfltAssertion k => exact inv.pfltAssertion k h
    case pfltRelease k => exact inv.pfltRelease k h
    case periodExpiry n => exact inv.periodExpiry n h
    case padMeasurement n count => exact inv.padMeasurement n count h
    case armExpiry n => exact inv.armExpiry n h
    case pauseExpiry n => exact inv.pauseExpiry n h
    case windowExpiry m => exact inv.windowExpiry m h
    case spinUpExpiry k => exact inv.spinUpExpiry k h
    case runOnExpiry k => exact inv.runOnExpiry k h
    case scanExpiry => exact inv.scanExpiry h
    all_goals cases moves

/-- Settles O10: a step is idle or executes the front of the queue, which keeps LogInv. -/
theorem logInvKept : Obligations.LogInvKept := by
  unfold Obligations.LogInvKept
  intro s t inv h
  unfold step at h
  split at h
  · cases h
    exact inv.of_views (by unfold State.idle; split_ifs <;> rfl) (by unfold State.idle; split_ifs <;> rfl)
  · rename_i c rest _
    exact LogInv.exec (s := { s with pending := rest }) (inv.of_views rfl rfl) h

end Sys2Proof.Machine
end

section
/-! The scrub and the release of records (08, R124, R125). -/

namespace Sys2Proof.Machine

/-! ## The scrub (R125) -/

/-- The scrub goes on behind the record last checked while one is stored there, and else from the oldest. -/
theorem Log.scrubChoice_eq (l : Log) (slot : Nat)
    (next : ∀ last, l.scrub = some last → (l.slotAt last).stored = true → last ≠ l.position (l.count - 1) →
      slot = (last + 1) % 1024)
    (wraps : (∀ last, l.scrub = some last → (l.slotAt last).stored = false ∨ last = l.position (l.count - 1)) →
      slot = l.oldest) :
    l.scrubChoice = slot := by
  unfold Log.scrubChoice
  cases scrub : l.scrub with
  | none => exact (wraps fun last h => by rw [scrub] at h; cases h).symm
  | some last =>
    dsimp only
    split_ifs with h
    · obtain ⟨stored, inner⟩ := Bool.and_eq_true_iff.mp h
      exact (next last scrub stored (by simpa using inner)).symm
    · refine (wraps fun other e => ?_).symm
      rw [scrub, Option.some_inj] at e
      subst e
      simpa [Bool.and_eq_true_iff, imp_iff_not_or] using h

theorem State.scrub_empty (s : State) (h : s.log.count = 0) : s.scrub = s := if_pos h

theorem State.scrub_passes (s : State) (stored : s.log.count ≠ 0)
    (h : recordPasses (s.log.slotAt s.log.scrubChoice).bytes = true ∨ s.log.scrubChoice ∈ s.log.corrupt) :
    s.scrub = { s with log := { s.log with scrub := some s.log.scrubChoice } } := by
  unfold State.scrub
  rw [if_neg stored]
  exact if_pos (by simpa using h)

theorem State.scrub_marks (s : State) (stored : s.log.count ≠ 0)
    (fails : recordPasses (s.log.slotAt s.log.scrubChoice).bytes = false)
    (fresh : s.log.scrubChoice ∉ s.log.corrupt) :
    s.scrub = State.post .recordCorrupt
      (.record (BitVec.ofNat 32 (recordSeq (s.log.slotAt s.log.scrubChoice).bytes))) s.log.scrubChoice
      { s with log := { s.log with
          scrub := some s.log.scrubChoice, corrupt := addMark s.log.scrubChoice s.log.corrupt } } := by
  unfold State.scrub
  rw [if_neg stored]
  exact if_neg (by simp [fails, fresh])

/-- Settles O47: the expiry is due again 5 s on, and the scrub's choice passes, is marked, or fails. -/
theorem scrubMarksFailingRecord : Obligations.ScrubMarksFailingRecord := by
  unfold Obligations.ScrubMarksFailingRecord
  intro due s timer u
  have expires : exec .scrubExpiry s = .next u.scrub := by
    show execScrubExpiry s = _
    unfold execScrubExpiry
    rw [timer]
    rfl
  rw [expires]
  refine ⟨fun none' => by rw [u.scrub_empty none'], fun slot stored next wraps => ?_⟩
  have stored : u.log.count ≠ 0 := Nat.ne_of_gt stored
  have choice : u.log.scrubChoice = slot := u.log.scrubChoice_eq slot next wraps
  refine ⟨fun sound => ?_, fun fails fresh => ⟨addMark slot s.log.corrupt, ?_, fun i => mem_addMark slot i _⟩⟩
  · rw [u.scrub_passes stored (choice ▸ sound), choice]
  · rw [u.scrub_marks stored (choice ▸ fails) (choice ▸ fresh), choice]
    rfl

/-! ## RELEASE (R124) -/

theorem LogSlot.eq_of {x y : LogSlot} (stored : x.stored = true ↔ y.stored = true) (bytes : x.bytes = y.bytes) :
    x = y := by
  cases x
  cases y
  cases bytes
  cases Bool.eq_iff_iff.mpr stored
  rfl

/-- What a release of the `m` oldest records leaves, from `l` to `r`. -/
structure Log.Releases (m : Nat) (l r : Log) : Prop where
  emptied : ∀ j < m, r.slotAt (l.position j) = { l.slotAt (l.position j) with stored := false }
  others : ∀ i, (∀ j < m, i ≠ l.position j) → r.slotAt i = l.slotAt i
  marks : ∀ i, i ∈ r.corrupt ↔ i ∈ l.corrupt ∧ ∀ j < m, i ≠ l.position j
  oldest : r.oldest = (l.oldest + m) % 1024
  count : r.count = l.count - m
  indexCrc : r.indexCrc = crc16 (indexBytes r.oldest r.count)
  frame : r = { l with
    slots := r.slots, corrupt := r.corrupt, oldest := r.oldest, count := r.count, indexCrc := r.indexCrc }

theorem Log.release_releases (n : Nat) (l : Log) (inRing : l.oldest < 1024) :
    Log.Releases (min n l.count) l (l.release n) := by
  obtain ⟨oldest, count, slots, marks, frame⟩ := Log.releaseMany_spec (min n l.count) l inRing
  have slot (i : Nat) : (l.release n).slotAt i = (Log.releaseMany (min n l.count) l).slotAt i := rfl
  refine ⟨fun j released => ?_, fun i kept => ?_, marks, oldest, count, rfl,
    (congrArg Log.withIndexCrc frame :)⟩
  · obtain ⟨bytes, stored⟩ := slots (l.position j)
    rw [slot]
    exact LogSlot.eq_of (stored.trans ⟨fun h => absurd rfl (h.2 j released), nofun⟩) bytes
  · obtain ⟨bytes, stored⟩ := slots i
    rw [slot]
    exact LogSlot.eq_of (stored.trans (and_iff_left kept)) bytes

/-- Settles O46: the log after the release by `Log.release_releases`, and the two figures of the answer. -/
theorem releaseFreesOldest : Obligations.ReleaseFreesOldest := by
  unfold Obligations.ReleaseFreesOldest
  intro tag n s room inRing m
  obtain ⟨emptied, others, marks, oldest, count, indexCrc, frame⟩ := s.log.release_releases n.toNat inRing
  refine ⟨s.log.release n.toNat, ?_, emptied, others, marks, oldest, count, indexCrc, ?_⟩
  · have answer (free : Nat) : packFields free 0 [u32 m, u16 (s.log.count - m)] =
        beBytes 4 m ++ beBytes 2 (s.log.count - m) := by
      simp [packFields, u32_bytes free 0 m (by omega), u16_bytes free 1 (s.log.count - m) (by omega)]
    rw [← answer, ← count]
    exact State.command_eq 0x31 tag (releaseBody n) s
  · generalize s.log.release n.toNat = log at frame
    rw [frame]
    exact ⟨rfl, rfl, rfl, rfl, rfl, rfl⟩

end Sys2Proof.Machine
end

section
/-! The reading of records (08, R121 to R123; 12, R172). -/

namespace Sys2Proof.Machine

/-! ## The bytes of a half (R122, R172) -/

/-- The counts of a READ_RECORD reply, as its bytes show them. -/
def Log.countBytes (l : Log) : List Byte := beBytes 2 l.count ++ [BitVec.ofNat 8 l.reservedCount]

theorem Log.reservedCount_le (l : Log) : l.reservedCount ≤ 5 := List.countP_le_length.trans (by simp)

theorem Log.counts_bytes (free k : Nat) (l : Log) (room : l.count ≤ 1024) :
    packFields free k l.counts = l.countBytes := by
  have few := l.reservedCount_le
  simp [Log.counts, Log.countBytes, packFields, u16_bytes free k l.count (by omega),
    u8_bytes free (k + 1) l.reservedCount (by omega)]

theorem Log.firstHalf_bytes (free : Nat) (l : Log) (room : l.count ≤ 1024) (bytes : List Byte) :
    packFields free 0 (l.halfRecord 0 bytes) = bytes.take 24 ++ l.countBytes := by
  unfold Log.halfRecord
  rw [if_pos rfl, packFields_append, packFields_bytes, l.counts_bytes _ _ room]

theorem Log.secondHalf_bytes (free : Nat) (l : Log) (room : l.count ≤ 1024) (bytes : List Byte) :
    packFields free 0 (l.halfRecord 1 bytes) =
      bytes.take 4 ++ (bytes.drop 24).take 19 ++ l.countBytes ++ (bytes.drop 46).take 2 := by
  unfold Log.halfRecord
  rw [if_neg (by decide)]
  simp only [packFields_append, packFields_bytes, l.counts_bytes _ _ room]

/-! ## The view of a record (R122) -/

section
variable (l : Log) (slot : Nat) (full : (l.slotAt slot).bytes.length = 48)
include full

/-- The record in a slot around the byte that holds bit 8 of its flags. -/
theorem Log.bytes_around : (l.slotAt slot).bytes =
    (l.slotAt slot).bytes.take 39 ++ (l.slotAt slot).bytes.getD 39 0 :: (l.slotAt slot).bytes.drop 40 := by
  rw [List.getD_eq_getElem _ _ (by omega), ← List.drop_eq_getElem_cons (by omega), List.take_append_drop]

/-- The view differs from the record in that byte alone. -/
theorem Log.viewOf_around : l.viewOf slot =
    (l.slotAt slot).bytes.take 39 ++
      ((l.slotAt slot).bytes.getD 39 0 ||| if slot ∈ l.corrupt then 1 else 0) :: (l.slotAt slot).bytes.drop 40 := by
  unfold Log.viewOf
  split_ifs
  · simp
  · rw [show ∀ x : Byte, x ||| 0 = x from fun _ => BitVec.or_zero, ← l.bytes_around slot full]

theorem Log.viewOf_spec :
    (l.slotAt slot).bytes.take 39 = (l.viewOf slot).take 39 ∧
    (l.viewOf slot).getD 39 0 = ((l.slotAt slot).bytes.getD 39 0 ||| if slot ∈ l.corrupt then 1 else 0) ∧
    (l.viewOf slot).drop 40 = (l.slotAt slot).bytes.drop 40 ∧ (l.viewOf slot).length = 48 := by
  have head : ((l.slotAt slot).bytes.take 39).length = 39 := by rw [List.length_take, full]; rfl
  rw [l.viewOf_around slot full]
  refine ⟨?_, ?_, ?_, ?_⟩
  · rw [List.take_left' head]
  · rw [List.getD_append_right _ _ _ _ head.le, head]
    rfl
  · rw [List.drop_append, head]
    simp [full]
  · simp [full]

end

/-- The mark shows in bit 8 of the flags, bit 0 of its byte. -/
theorem flagByte_bits (x : Byte) (p : Prop) [Decidable p] :
    (x ||| if p then 1 else 0).getLsbD 0 = (x.getLsbD 0 || decide p) ∧
    ∀ i, 1 ≤ i → (x ||| if p then 1 else 0).getLsbD i = x.getLsbD i := by
  refine ⟨by by_cases h : p <;> simp [h], fun i low => ?_⟩
  have zero : i ≠ 0 := Nat.one_le_iff_ne_zero.mp low
  by_cases h : p <;> simp [h, BitVec.getLsbD_one, zero]

/-! ## READ_RECORD (R122) -/

/-- A command holds the bytes of its body's fields. -/
theorem State.command_answers {code tag : Byte} {body : Body} {s u : State} {st : Status} {fields : List Field}
    {bytes : List Byte} (h : body s.beginExchange = (u, ⟨st, fields⟩))
    (packed : ∀ free, packFields free 0 fields = bytes) :
    s.command code tag body = .next (u.holding (replyBytes code tag st.code bytes)) := by
  rw [State.command_eq, h, ← packed u.free]

section
variable (tag : Byte) (k : BitVec 32) (part : Byte) (s : State)

theorem exec_readRecord_refuses (drain : Byte) (h : 1023 < k.toNat ∨ 1 < part.toNat ∨ drain ≠ 0) :
    exec (.readRecord tag k part drain) s = .next (s.refusing 0x30 tag .badParam) :=
  State.command_refuse 0x30 tag _ .badParam s (if_pos h)

variable (inRange : k.toNat ≤ 1023) (half : part.toNat ≤ 1) {bytes : List Byte}
include inRange half

theorem readRecordBody_passed : ¬ (1023 < k.toNat ∨ 1 < part.toNat ∨ (0 : Byte) ≠ 0) := by
  rintro (h | h | h)
  · exact absurd h (Nat.not_lt.mpr inRange)
  · exact absurd h (Nat.not_lt.mpr half)
  · exact h rfl

theorem exec_readRecord_stored (stored : k.toNat < s.log.count)
    (packed : ∀ free, packFields free 0 (s.log.halfRecord part (s.log.viewOf (s.log.position k.toNat))) = bytes) :
    exec (.readRecord tag k part 0) s = .next (s.beginExchange.holding (replyBytes 0x30 tag 0 bytes)) :=
  State.command_answers (st := .ok)
    ((if_neg (readRecordBody_passed k part inRange half)).trans (if_pos stored)) packed

theorem exec_readRecord_empty (beyond : s.log.count ≤ k.toNat)
    (packed : ∀ free, packFields free 0 (s.log.halfRecord part (List.replicate 48 0)) = bytes) :
    exec (.readRecord tag k part 0) s = .next (s.beginExchange.holding (replyBytes 0x30 tag 20 bytes)) :=
  State.command_answers (st := .empty)
    ((if_neg (readRecordBody_passed k part inRange half)).trans (if_neg (Nat.not_lt.mpr beyond))) packed

end

/-! ## The drain (R123) -/

/-- What the drain memory names is the oldest record. -/
theorem Log.drainMatches_iff (l : Log) : l.drainMatches = true ↔
    0 < l.count ∧ ∃ q : BitVec 32,
      l.drain = some (l.oldest, q) ∧ recordSeq (l.slotAt l.oldest).bytes = q.toNat := by
  unfold Log.drainMatches
  cases drain : l.drain with
  | none => simp
  | some named =>
    obtain ⟨slot, q⟩ := named
    simp only [Bool.and_eq_true, decide_eq_true_eq, beq_iff_eq, Option.some.injEq, Prod.mk.injEq]
    constructor
    · rintro ⟨⟨stored, rfl⟩, seq⟩
      exact ⟨stored, q, ⟨rfl, rfl⟩, seq⟩
    · rintro ⟨stored, _, ⟨rfl, rfl⟩, seq⟩
      exact ⟨⟨stored, rfl⟩, seq⟩

/-- The log once the record that the drain returned last has gone. -/
def Log.drained (l : Log) : Log := if l.drainMatches then l.release 1 else l

theorem Log.drained_count_le (l : Log) (inRing : l.oldest < 1024) : l.drained.count ≤ l.count := by
  unfold Log.drained
  split_ifs
  · exact (l.release_run 1 inRing).2.1
  · exact le_rfl

section
variable (tag : Byte) (s : State)

theorem exec_readRecordDrain_refuses (k : BitVec 32) (part : Byte) (h : k ≠ 0 ∨ part ≠ 0) :
    exec (.readRecordDrain tag k part) s = .next (s.refusing 0x30 tag .badParam) :=
  State.command_refuse 0x30 tag _ .badParam s (if_pos h)

theorem readRecordDrainBody_passed : ¬ ((0 : BitVec 32) ≠ 0 ∨ (0 : Byte) ≠ 0) := by decide

theorem exec_readRecordDrain_empty (room : s.log.drained.count ≤ 1024) (none' : s.log.drained.count = 0) :
    exec (.readRecordDrain tag 0 0) s = .next
      (({ s.beginExchange with log := { s.log.drained with drain := none } }).holding
        (replyBytes 0x30 tag 20 (List.replicate 24 0 ++ s.log.drained.countBytes))) :=
  State.command_answers (st := .empty) ((if_neg readRecordDrainBody_passed).trans (if_pos none'))
    fun free => s.log.drained.firstHalf_bytes free room (List.replicate 48 0)

theorem exec_readRecordDrain_stored (room : s.log.drained.count ≤ 1024) (stored : s.log.drained.count ≠ 0) :
    exec (.readRecordDrain tag 0 0) s = .next
      (({ s.beginExchange with log := { s.log.drained with
          drain := some (s.log.drained.oldest,
            BitVec.ofNat 32 (recordSeq (s.log.drained.slotAt s.log.drained.oldest).bytes)) } }).holding
        (replyBytes 0x30 tag 0
          ((s.log.drained.viewOf s.log.drained.oldest).take 24 ++ s.log.drained.countBytes))) :=
  State.command_answers (st := .ok) ((if_neg readRecordDrainBody_passed).trans (if_neg stored))
    fun free => s.log.drained.firstHalf_bytes free room _

end

/-- Settles O45: the two halves by `Log.firstHalf_bytes` and `Log.secondHalf_bytes` of the view, by
`Log.viewOf_spec`; in drain mode the log is first drained. -/
theorem recordReadsReturnHalves : Obligations.RecordReadsReturnHalves := by
  unfold Obligations.RecordReadsReturnHalves
  constructor
  · intro tag k s inv counts b
    have room : s.log.count ≤ 1024 := Nat.le_of_add_right_le inv.log.room
    obtain ⟨head, byte, tail, length⟩ := s.log.viewOf_spec _ (inv.lengths (s.log.position k.toNat))
    obtain ⟨mark, others⟩ := flagByte_bits ((s.log.slotAt (s.log.position k.toNat)).bytes.getD 39 0)
      (s.log.position k.toNat ∈ s.log.corrupt)
    rw [← byte] at mark others
    have zero : (0 : Byte).toNat ≤ 1 := by decide
    have one : (1 : Byte).toNat ≤ 1 := by decide
    refine ⟨fun inRange stored => ⟨?_, ?_⟩, fun inRange beyond => ⟨?_, ?_⟩,
      fun part drain => exec_readRecord_refuses tag k part s drain, head, mark, fun i _ => others i, tail, length⟩
    · exact exec_readRecord_stored tag k 0 s inRange zero stored fun free => s.log.firstHalf_bytes free room b
    · refine exec_readRecord_stored tag k 1 s inRange one stored fun free => ?_
      rw [s.log.secondHalf_bytes free room, List.take_of_length_le (l := List.drop 46 _) (by simp [length])]
      rfl
    · exact exec_readRecord_empty tag k 0 s inRange zero beyond fun free => s.log.firstHalf_bytes free room _
    · exact exec_readRecord_empty tag k 1 s inRange one beyond fun free => s.log.secondHalf_bytes free room _
  · intro tag k part s inv seqAt last
    refine ⟨exec_readRecordDrain_refuses tag s k part, fun l released kept => ?_⟩
    have drained : l = s.log.drained := by
      unfold Log.drained
      split_ifs with h
      · exact released (s.log.drainMatches_iff.mp h)
      · exact kept fun matched => h (s.log.drainMatches_iff.mpr matched)
    have room : s.log.drained.count ≤ 1024 := (s.log.drained_count_le inv.log.inRing).trans
      (Nat.le_of_add_right_le inv.log.room)
    subst drained
    exact ⟨fun stored => exec_readRecordDrain_stored tag s room (Nat.ne_of_gt stored),
      exec_readRecordDrain_empty tag s room⟩

end Sys2Proof.Machine
end

section
/-! The restock state: its evaluation and what a change of it tells (09, R140, R142, R144; 10, R158). -/

namespace Sys2Proof.Machine

/-! ## A change of the restock state (R144) -/

/-- The part once a restock state that was `own` has become `r`: a change asks for the STOCK subject and posts
RESTOCK_STATE. -/
def State.restockTold (own r : RestockState) (s : State) : State :=
  if own = r then s else (s.ask .stock).post .restockState (.station s.station) r.code

/-- A change of the restock state writes it, and shows at the link and the port alone. -/
theorem State.setRestock_eq (r : RestockState) (s : State) :
    s.setRestock r = { s with
      stock := { s.stock with restock := r }, link := (s.setRestock r).link, port := (s.setRestock r).port } := by
  by_cases same : s.stock.restock = r
  · subst same
    rw [State.setRestock, if_pos rfl]
  · rw [State.setRestock, if_neg same, State.post_eq, State.ask_eq]

theorem State.setRestock_stock (r : RestockState) (s : State) :
    (s.setRestock r).stock = { s.stock with restock := r } := congrArg State.stock (s.setRestock_eq r)

/-- What a change of the restock state shows at the link and the port. -/
theorem SameLink.setRestock {u v : State} (same : SameLink u v) (r : RestockState) :
    SameLink (u.setRestock r) (v.restockTold u.stock.restock r) := by
  have station : u.station = v.station := by
    simp only [State.station, State.itemNat, State.item, same.config]
  unfold State.setRestock State.restockTold
  rw [station]
  split_ifs
  · exact same
  · exact ((show SameLink { u with stock := { u.stock with restock := r } } v from
      ⟨same.link, same.port, same.now, same.config⟩).ask _).post _ _ _

/-- The want test reads the books and the configuration alone. -/
theorem State.wantsFuel_of_same {u v : State} (books : u.stock.books = v.stock.books) (config : u.config = v.config) :
    u.wantsFuel = v.wantsFuel := by
  unfold State.wantsFuel State.reorder State.item
  rw [books, config]

/-- The restock state is recomputed as WANT or NORMAL (R130, R139). -/
theorem State.setRestock_wantOrNormal (s : State) :
    let t := s.setRestock s.wantOrNormal
    t.stock.restock = if t.wantsFuel then .want else .normal := by
  intro t
  have wants : t.wantsFuel = s.wantsFuel :=
    State.wantsFuel_of_same (State.setRestock_books ..) (congrArg State.config (s.setRestock_eq _) :)
  rw [wants, show t.stock.restock = s.wantOrNormal from congrArg Stock.restock (s.setRestock_stock _)]
  rfl

/-! ## The station and its peers (R140, R158) -/

theorem State.wantsFuel_iff (s : State) :
    s.wantsFuel = true ↔ ∃ k : CompId, s.stock.books[k].value < s.reorder k * 1000 := by
  have all (k : CompId) : k ∈ allComps := by revert k; decide
  simp [State.wantsFuel, all]

theorem pairLower_iff (a b : Int × Nat) : pairLower a b = true ↔ a.1 < b.1 ∨ (a.1 = b.1 ∧ a.2 < b.2) := by
  simp [pairLower]

theorem mem_allStations (i : StationId) : i ∈ allStations := by
  revert i
  decide

theorem State.mem_peerStocks (s : State) (station : Nat) (x : PeerStock) :
    (station, x) ∈ s.peerStocks ↔
      ∃ (i : StationId) (p : Peer), station = i.val + 1 ∧ s.link.peers[i] = some p ∧ p.stock = some x := by
  unfold State.peerStocks
  rw [List.mem_filterMap]
  constructor
  · rintro ⟨i, -, listed⟩
    cases peer : s.link.peers[i] with
    | none => simp [peer] at listed
    | some p =>
      cases stock : p.stock with
      | none => simp [peer, stock] at listed
      | some y =>
        simp only [peer, stock, Option.map_some, Option.some.injEq, Prod.mk.injEq] at listed
        obtain ⟨rfl, rfl⟩ := listed
        exact ⟨i, p, rfl, peer, stock⟩
  · rintro ⟨i, p, rfl, peer, stock⟩
    refine ⟨i, mem_allStations i, ?_⟩
    simp [peer, stock]

theorem State.bayBusy_iff (s : State) :
    s.bayBusy = true ↔ ∃ p ∈ s.peerStocks, p.2.state = .go ∨ p.2.state = .receiving := by
  simp [State.bayBusy]

theorem State.beatsPeers_iff (s : State) :
    s.beatsPeers = true ↔ ∀ p ∈ s.peerStocks, p.2.state = .want → p.2.yielding = false →
      s.urgency < p.2.key ∨ (s.urgency = p.2.key ∧ s.station < p.1) := by
  simp only [State.beatsPeers, List.all_eq_true, Bool.or_eq_true, pairLower_iff, State.ownPair]
  refine forall₂_congr fun p _ => ?_
  cases p.2.yielding <;> simp [imp_iff_not_or]

theorem State.bayTaken_iff (s : State) :
    s.bayTaken = true ↔ ∃ p ∈ s.peerStocks, p.2.state = .receiving ∨
      (p.2.state = .go ∧ ((p.2.key : Int) < s.urgency ∨ ((p.2.key : Int) = s.urgency ∧ p.1 < s.station))) := by
  simp [State.bayTaken, pairLower_iff, State.ownPair]

/-! ## The state an evaluation gives (R142) -/

section
variable (s : State)

theorem State.evaluated_receiving (own : s.stock.restock = .receiving) : s.evaluated = .receiving := by
  unfold State.evaluated
  rw [own]

theorem State.evaluated_sated (own : s.stock.restock ≠ .receiving) (sated : s.wantsFuel = false) :
    s.evaluated = .normal := by
  unfold State.evaluated
  rw [sated]
  cases restock : s.stock.restock with
  | receiving => exact absurd restock own
  | normal => rfl
  | want => rfl
  | go => rfl

theorem State.evaluated_waiting (own : s.stock.restock = .normal ∨ s.stock.restock = .want)
    (wants : s.wantsFuel = true) :
    s.evaluated = if s.bayBusy = false ∧ s.stock.yieldUntil = none ∧ s.beatsPeers = true then .go else .want := by
  have goes : (!s.bayBusy && s.stock.yieldUntil.isNone && s.beatsPeers) = true ↔
      s.bayBusy = false ∧ s.stock.yieldUntil = none ∧ s.beatsPeers = true := by
    simp [and_assoc]
  unfold State.evaluated
  rcases own with own | own <;> simp only [own, wants, goes, if_true]

theorem State.evaluated_going (own : s.stock.restock = .go) (wants : s.wantsFuel = true) :
    s.evaluated = if s.bayTaken then .want else .go := by
  unfold State.evaluated
  rw [own, wants]
  rfl

/-! ## The evaluation (R142, R144) -/

theorem State.evaluateRestock_stock :
    s.evaluateRestock.stock = { s.stock with restock := s.evaluated, goHold := s.holdAfter s.evaluated } :=
  State.setRestock_stock _ _

theorem State.evaluateRestock_same (same : s.evaluated = s.stock.restock) : s.evaluateRestock = s := by
  unfold State.evaluateRestock State.holdAfter State.setRestock
  simp only [same, if_true]

theorem State.evaluateRestock_changes (other : s.evaluated ≠ s.stock.restock) :
    s.evaluateRestock = (State.ask .stock { s with stock := { s.stock with
      restock := s.evaluated, goHold := s.evaluateRestock.stock.goHold } }).post .restockState
        (.station s.station) s.evaluated.code := by
  rw [State.evaluateRestock_stock]
  exact if_neg other.symm

end

/-- The urgency key over capacities above 0. -/
theorem State.urgency_eq (s : State) (holds : ∀ k : CompId, 0 < s.capacity k) :
    s.urgency = min (min 1000 (max 0 s.stock.books[(0 : CompId)].value / s.capacity 0))
      (min 1000 (max 0 s.stock.books[(1 : CompId)].value / s.capacity 1)) := by
  unfold State.urgency State.fill
  rw [if_pos (holds 0), if_pos (holds 1)]
  rfl

/-- Settles O52: the state by the own state and the want test, the evaluation by whether the state changes. -/
theorem restockEvaluated : Obligations.RestockEvaluated := by
  unfold Obligations.RestockEvaluated
  intro s wants peers lower busy first taken
  have busyIff : s.bayBusy = false ↔ ¬ busy := by rw [← Bool.not_eq_true, s.bayBusy_iff]
  have firstIff : s.beatsPeers = true ↔ first := s.beatsPeers_iff
  have takenIff : s.bayTaken = true ↔ taken := s.bayTaken_iff
  have hold : s.evaluateRestock.stock.goHold = s.holdAfter s.evaluated :=
    congrArg Stock.goHold s.evaluateRestock_stock
  refine ⟨s.evaluated_receiving, fun own sated => ?_, fun own hungry => ?_, fun own hungry => ?_,
    congrArg Stock.restock s.evaluateRestock_stock, fun goes own => ?_, fun leaves own => ?_,
    (congrArg Stock.yieldUntil s.evaluateRestock_stock :), s.evaluateRestock_same, s.evaluateRestock_changes,
    fun holds => s.urgency_eq holds, s.mem_peerStocks⟩
  · exact s.evaluated_sated own (Bool.eq_false_iff.mpr (mt s.wantsFuel_iff.mp sated))
  · rw [s.evaluated_waiting own (s.wantsFuel_iff.mpr hungry)]
    refine ⟨fun free still leads => if_pos ⟨busyIff.mpr free, still, firstIff.mpr leads⟩, fun waits => if_neg ?_⟩
    rintro ⟨free, still, leads⟩
    rcases waits with waits | waits | waits
    · exact busyIff.mp free waits
    · exact waits still
    · exact waits (firstIff.mp leads)
  · rw [s.evaluated_going own (s.wantsFuel_iff.mpr hungry)]
    exact ⟨fun h => if_pos (takenIff.mpr h), fun h => if_neg (mt takenIff.mp h)⟩
  · rw [hold, State.holdAfter, goes, if_neg own, if_pos rfl]
    rfl
  · rw [hold, State.holdAfter, own, if_neg leaves.symm, if_neg leaves, if_pos rfl]

end Sys2Proof.Machine
end

section
/-! SET_STOCK and SET_PARKED at the port (09, R130, R134, R144). -/

namespace Sys2Proof.Machine

/-! ## The exchange beside the events and the link (R169, R175) -/

/-- The part with the bytes last shifted out as given. -/
def State.shifting (out : List Byte) (s : State) : State := { s with port := { s.port with shiftedOut := out } }

theorem State.post_shifting (out : List Byte) (kind : EventKind) (subject : EventSubject) (value : Int) (s : State) :
    (s.shifting out).post kind subject value = (s.post kind subject value).shifting out := by
  unfold State.post State.shifting
  dsimp only
  split_ifs <;> rfl

theorem State.draw_shifting (out : List Byte) (s : State) : (s.shifting out).draw = s.draw.shifting out := by
  unfold State.draw State.shifting
  dsimp only
  split_ifs
  · cases s.link.gen <;> rfl
  · rfl

theorem State.ask_shifting (out : List Byte) (sub : Subject) (s : State) :
    (s.shifting out).ask sub = (s.ask sub).shifting out := by
  unfold State.ask
  rw [show (s.shifting out).link = s.link from rfl]
  split_ifs
  · rfl
  · exact State.draw_shifting out { s with link := { s.link with queue := s.link.queue ++ [sub] } }
  · exact State.post_shifting ..

theorem State.restockTold_shifting (out : List Byte) (own r : RestockState) (s : State) :
    (s.shifting out).restockTold own r = (s.restockTold own r).shifting out := by
  unfold State.restockTold
  split_ifs
  · rfl
  · rw [State.ask_shifting, State.post_shifting]
    rfl

/-- The link and the port once the answer is held: those of a like state, the two replies apart. -/
theorem SameLink.answered {u v : State} {out : List Byte} (same : SameLink u (v.shifting out)) (reply : List Byte) :
    (u.holding reply).link = v.link ∧
    (u.holding reply).port = { v.port with held := (u.holding reply).port.held, shiftedOut := out } := by
  refine ⟨same.link, ?_⟩
  show { u.port with held := reply } = _
  rw [same.port]
  rfl

/-! ## A compartment as an operand (R172) -/

theorem compOf_eq_none (b : Byte) (h : 2 ≤ b.toNat) : compOf b = none := dif_neg (by omega)

theorem compOf_eq_some (b : Byte) (k : CompId) (h : b.toNat = k.val) : compOf b = some k := by
  unfold compOf
  rw [dif_pos (by omega)]
  exact congrArg some (Fin.ext h)

theorem compOf_comp (k : CompId) : compOf (BitVec.ofNat 8 k.val) = some k :=
  compOf_eq_some _ k (by rw [BitVec.toNat_ofNat]; omega)

/-! ## SET_STOCK (R130) -/

/-- The part once SET_STOCK has appended its record, set the book and removed the GO hold expiry, before the restock
state is recomputed. -/
def State.restocked (k : CompId) (value : Int) (s : State) : State :=
  { s.append (adjustRecord k s.stock.books[k].value value) none with
    stock := { s.stock with books := s.stock.books.set k (bookOf k value true), goHold := none } }

/-- What SET_STOCK of a compartment does to the part, from `s` to `u`, its answer apart (R130, R144). -/
structure SetsStock (k : CompId) (value : Int) (s u : State) : Prop where
  log : u.log = (s.beginExchange.append (adjustRecord k s.stock.books[k].value value) none).log
  stock : u.stock = { s.stock with
    books := s.stock.books.set k (bookOf k value true), goHold := none, restock := u.stock.restock }
  restock : u.stock.restock = if u.wantsFuel then .want else .normal
  told : SameLink u ((s.restockTold s.stock.restock u.stock.restock).shifting s.port.held)
  free : u.free = s.free + 2
  frame : u = { s with
    log := u.log, stock := u.stock, link := u.link, port := u.port, free := u.free, staged := none }

theorem State.setStock_sets (k : CompId) (value : Int) (s : State) :
    SetsStock k value s (s.beginExchange.setStock k value) := by
  let v := s.beginExchange.restocked k value
  let u := v.setRestock v.wantOrNormal
  have stock : u.stock = { v.stock with restock := v.wantOrNormal } := v.setRestock_stock v.wantOrNormal
  have own : u.stock.restock = v.wantOrNormal := congrArg Stock.restock stock
  have frame : u = { v with stock := { v.stock with restock := v.wantOrNormal }, link := u.link, port := u.port } :=
    v.setRestock_eq v.wantOrNormal
  rw [← stock] at frame
  rw [← own] at stock
  have told : SameLink u ((s.restockTold s.stock.restock u.stock.restock).shifting s.port.held) := by
    have same : SameLink v (s.shifting s.port.held) := ⟨rfl, rfl, rfl, rfl⟩
    rw [own, ← State.restockTold_shifting]
    exact same.setRestock v.wantOrNormal
  have log : u.log = v.log := (congrArg State.log frame :)
  have free : u.free = v.free := (congrArg State.free frame :)
  rw [← log, ← free] at frame
  exact ⟨log, stock, v.setRestock_wantOrNormal, told, free, frame⟩

theorem setStockBody_badParam (comp : Byte) (book : BitVec 32) (s : State) (on : s.isSealed = true)
    (bad : 2 ≤ comp.toNat ∨ 2147483647 < book.toNat) : setStockBody comp book s = (s, Reply.refuse .badParam) := by
  rw [setStockBody, afterSeal_sealed _ s on]
  by_cases names : 2 ≤ comp.toNat
  · rw [compOf_eq_none comp names]
  · rw [compOf_eq_some comp ⟨comp.toNat, by omega⟩ rfl]
    exact if_pos (bad.resolve_left names)

/-- SET_STOCK of a compartment: its refusals in order, then the part with the book set. -/
theorem setStockBody_named (k : CompId) (book : BitVec 32) (s : State) (on : s.isSealed = true) :
    setStockBody (BitVec.ofNat 8 k.val) book s =
      if 2147483647 < book.toNat then (s, Reply.refuse .badParam)
      else if s.stock.session.isSome then (s, Reply.refuse .wrongState)
      else if s.log.freeCount = 0 then (s, Reply.refuse .logFull)
      else (s.setStock k book.toNat, Reply.ok [i32 s.stock.books[k].value, u32 s.log.seq.toNat]) := by
  rw [setStockBody, afterSeal_sealed _ s on, compOf_comp k]

theorem exec_setStock_takes (tag : Byte) (k : CompId) (book : BitVec 32) (s : State) (on : s.isSealed = true)
    (range : book.toNat ≤ 2147483647) (closed : s.stock.session = none) (room : 1 ≤ s.log.freeCount) :
    exec (.setStock tag (BitVec.ofNat 8 k.val) book) s = .next
      ((s.beginExchange.setStock k book.toNat).holding (replyBytes 0x40 tag 0
        ((i32 s.stock.books[k].value).bytes (s.free + 2) 0 ++ beBytes 4 s.log.seq.toNat))) := by
  have body := (setStockBody_named k book s.beginExchange on).trans ((if_neg range.not_gt).trans
    ((if_neg (by rw [show s.beginExchange.stock.session = none from closed]; nofun)).trans
      (if_neg (Nat.one_le_iff_ne_zero.mp room))))
  have free : (s.beginExchange.setStock k book.toNat).free = s.free + 2 :=
    (s.setStock_sets k book.toNat).free
  refine (State.command_ok 0x40 tag _ _ _ s body).trans ?_
  rw [free]
  simp only [packFields, List.append_nil, u32_bytes _ _ _ s.beginExchange.log.seq.isLt]
  rfl

/-- Settles O48: the refusals from the body's order, the rest from `State.setRestock_eq` after `State.restocked`. -/
theorem setStockReplacesBook : Obligations.SetStockReplacesBook := by
  unfold Obligations.SetStockReplacesBook
  intro tag k book s on set k8
  have body := setStockBody_named k book s.beginExchange on
  refine ⟨fun i bad => State.command_refuse 0x40 tag _ .badParam s (setStockBody_badParam i book _ on bad),
    fun range busy => State.command_refuse 0x40 tag _ .wrongState s
      (body.trans ((if_neg range.not_gt).trans (if_pos busy))),
    fun range closed full => State.command_refuse 0x40 tag _ .logFull s
      (body.trans ((if_neg range.not_gt).trans
        ((if_neg (by rw [show s.beginExchange.stock.session = none from closed]; nofun)).trans (if_pos full)))),
    fun range closed room => ⟨_, exec_setStock_takes tag k book s on range closed room, ?_⟩⟩
  generalize replyBytes 0x40 tag 0 _ = reply
  obtain ⟨log, stock, wants, told, -, frame⟩ := s.setStock_sets k book.toNat
  obtain ⟨slot, others, count, oldest, seq, -, -, reserved, -⟩ :=
    s.beginExchange.append_log (adjustRecord k s.stock.books[k].value book.toNat) none
  generalize s.beginExchange.setStock k book.toNat = u at log stock wants told frame ⊢
  obtain ⟨link, port⟩ := told.answered reply
  rw [← log] at slot others count oldest seq reserved
  have untold (same : u.stock.restock = s.stock.restock) : s.restockTold s.stock.restock u.stock.restock = s :=
    if_pos same.symm
  have retold (other : u.stock.restock ≠ s.stock.restock) : s.restockTold s.stock.restock u.stock.restock =
      (s.ask .stock).post .restockState (.station s.station) u.stock.restock.code := if_neg other.symm
  refine ⟨rfl, slot, others, count, oldest, seq, reserved, congrArg Stock.books stock, congrArg Stock.goHold stock,
    (congrArg Stock.yieldUntil stock :), wants, ?_, ⟨fun same => ?_, fun other => ?_⟩, fun other room => ?_,
    (congrArg (State.holding reply) frame :)⟩
  · rw [show (u.holding reply).stock.books = _ from congrArg Stock.books stock]
    exact stock
  · rw [untold same] at link port
    exact ⟨link, port⟩
  · rw [retold other] at link port
    exact ⟨link, port⟩
  · rw [link, retold other, (State.post_keeps ..).2.1]
    exact s.ask_mem .stock room

/-! ## SET_PARKED (R134) -/

theorem setParkedBody_eq (value : Byte) (s : State) (on : s.isSealed = true) :
    setParkedBody value s =
      if 1 < value.toNat then (s, Reply.refuse .badParam)
      else ({ s with stock := { s.stock with parked := decide (value = 1) } }, Reply.ok [flag8 s.stock.parked]) :=
  afterSeal_sealed _ s on

/-- Settles O49, by whether the part is sealed and the value is off or on. -/
theorem setParkedTakesValue : Obligations.SetParkedTakesValue := by
  unfold Obligations.SetParkedTakesValue
  intro tag value s
  refine ⟨fun off => State.command_refuse 0x43 tag _ .notSealed s (afterSeal_unsealed _ s.beginExchange off),
    fun on out => State.command_refuse 0x43 tag _ .badParam s
      ((setParkedBody_eq value s.beginExchange on).trans (if_pos out)),
    fun on inRange => ⟨_, ?_, rfl, fun k => rfl⟩⟩
  have body := (setParkedBody_eq value s.beginExchange on).trans (if_neg inRange.not_gt)
  refine (State.command_ok 0x43 tag _ _ _ s body).trans ?_
  simp only [packFields, flag8_bytes, List.append_nil]
  rfl

end Sys2Proof.Machine
end

section
/-! The high-level test of a session (09, R138), and RECEIPT_BEGIN and RECEIPT_END at the port (09, R135, R136, R139;
06, R92, R99). -/

namespace Sys2Proof.Machine

/-! ## The two figures of the high-level test (R138) -/

theorem State.highByBook_iff (s : State) (x : Session) :
    s.highByBook x = true ↔ s.highFillOf x.comp ≤ s.stock.books[x.comp].value + truncDiv x.acc.net 1000 :=
  decide_eq_true_iff

theorem State.highByGauge_iff (s : State) (x : Session) :
    s.highByGauge x = true ↔ ∃ l : Level, s.stock.levels[x.comp] = some l ∧ s.highFillOf x.comp ≤ l.gauge := by
  unfold State.highByGauge
  cases s.stock.levels[x.comp] <;> simp

/-- The figures read the books, the levels and the configuration alone. -/
theorem State.high_of_same {u v : State} (books : u.stock.books = v.stock.books)
    (levels : u.stock.levels = v.stock.levels) (config : u.config = v.config) :
    u.highByBook = v.highByBook ∧ u.highByGauge = v.highByGauge := by
  have fill : u.highFillOf = v.highFillOf := by
    unfold State.highFillOf State.capacity State.highFill State.item
    rw [config]
  refine ⟨?_, ?_⟩
  · unfold State.highByBook
    rw [fill, books]
  · unfold State.highByGauge
    rw [fill, levels]

/-! ## The high-level test of a session as it is written (R135, R137, R138) -/

theorem State.rperm_of_session (s : State) {x : Session} (session : s.stock.session = some x) :
    s.rperm = (x.permit == .raised) := by
  unfold State.rperm
  rw [session]

/-- A session that stands with its journal is as if written. -/
theorem State.putSession_self {s : State} {x : Session} (session : s.stock.session = some x)
    (journal : s.stock.rjournal = some x.journal) : s.putSession x = s := by
  unfold State.putSession
  rw [← session, ← journal]

/-- What the high-level test of the compartment of a session `x`, just written, leaves from `s` to `t`, with the
session `z` then (R138). -/
structure Tests (x z : Session) (s t : State) : Prop where
  session : z = { x with permit := z.permit }
  frame : t = { s.putSession z with port := t.port }
  drops : x.permit = .raised → s.highByBook x = true ∨ s.highByGauge x = true →
    z.permit = .dropped ∧ t.port = (s.post .highLevel (.comp x.comp) (if s.highByBook x then 0 else 1)).port
  keeps : x.permit ≠ .raised ∨ ¬ (s.highByBook x = true ∨ s.highByGauge x = true) →
    z.permit = x.permit ∧ t.port = s.port

theorem State.putSession_tests (x : Session) (s : State) :
    ∃ z : Session, Tests x z s ((s.putSession x).highLevelTest x.comp) := by
  obtain ⟨book, gauge⟩ := State.high_of_same (u := s.putSession x) (v := s) rfl rfl rfl
  by_cases raised : x.permit = .raised
  · have test := State.highLevelTest_raised (s.putSession x) x rfl raised
    rw [book, gauge] at test
    by_cases high : s.highByBook x = true ∨ s.highByGauge x = true
    · rw [if_pos high, State.dropPermit, State.post_eq] at test
      rw [test]
      refine ⟨{ x with permit := .dropped }, rfl, rfl, fun _ _ => ⟨rfl, ?_⟩, fun keeps => ?_⟩
      · exact (SameLink.post (u := (s.putSession x).putSession { x with permit := .dropped }) (v := s)
          ⟨rfl, rfl, rfl, rfl⟩ _ _ _).port
      · rcases keeps with keeps | keeps
        · exact absurd raised keeps
        · exact absurd high keeps
    · rw [test, if_neg high]
      exact ⟨x, rfl, rfl, fun _ high' => absurd high' high, fun _ => ⟨rfl, rfl⟩⟩
  · have test : (s.putSession x).highLevelTest x.comp = s.putSession x := by
      refine State.highLevelTest_idle x.comp _ fun y own => Or.inr ?_
      cases own
      exact raised
    rw [test]
    exact ⟨x, rfl, rfl, fun raised' => absurd raised' raised, fun _ => ⟨rfl, rfl⟩⟩

/-! ## MR's window at RECEIPT_BEGIN (R92, R99) -/

/-- What the window in flight of MR, ended as a stray one, posts. -/
def State.receiptStrayTold (s : State) : State :=
  if s.meters[meterMR].count ≠ 0 ∧ s.meters[meterMR].stray.episode = false then
    s.post .receiptStray .none s.meters[meterMR].count else s

theorem State.receiptStrayTold_eq (s : State) : s.receiptStrayTold = { s with port := s.receiptStrayTold.port } := by
  unfold State.receiptStrayTold
  split_ifs
  · exact State.post_eq ..
  · rfl

theorem State.receiptStrayTold_shifting (out : List Byte) (s : State) :
    (s.shifting out).receiptStrayTold = s.receiptStrayTold.shifting out := by
  unfold State.receiptStrayTold
  rw [State.post_shifting]
  exact (apply_ite (State.shifting out) _ _ _).symm

theorem SameLink.receiptStrayTold {u v : State} (same : SameLink u v) (meters : u.meters = v.meters) :
    SameLink u.receiptStrayTold v.receiptStrayTold := by
  unfold State.receiptStrayTold
  rw [meters]
  split_ifs
  · exact same.post _ _ _
  · exact same

/-- MR's channel once the window in flight has ended as a stray one and a window of an owner has started. -/
def State.restartedMR (owner : Attachment) (s : State) : Meter :=
  { s.meters[meterMR] with
    attach := owner, count := 0, sat := false, phaseErr := 0, due := some (s.now + 250000)
    lastRate := rateOf s.meters[meterMR].count s.metro.meters[meterMR].nf
    stray := s.meters[meterMR].stray.episodeAfter s.settleQuiet s.meters[meterMR].count }

theorem State.windowRestart_meterMR (owner : Attachment) (s : State) :
    s.windowRestart meterMR owner = { s with
      meters := s.meters.set meterMR (s.restartedMR owner), port := s.receiptStrayTold.port } := by
  let c := s.meters[meterMR]
  let w := s.windowOf meterMR
  let noted := s.noteRate meterMR w.rate
  let stray := c.stray.episodeAfter s.settleQuiet c.count
  let ended := noted.setMeter meterMR { c with lastRate := w.rate, stray }
  have own : noted.meters[meterMR] = { c with lastRate := w.rate } := s.setMeter_same meterMR _
  have strayed : noted.accountStray meterMR w = { ended with port := s.receiptStrayTold.port } := by
    show noted.strayEpisode meterMR .receiptStray .none c.count = _
    unfold State.strayEpisode State.receiptStrayTold
    rw [own]
    by_cases opens : c.count ≠ 0 ∧ c.stray.episode = false
    · rw [if_pos ((c.stray.opens_iff c.count).mpr opens), if_pos opens, State.post_eq]
      have port := (SameLink.post (u := ended) (v := s) ⟨rfl, rfl, rfl, rfl⟩ .receiptStray .none c.count).port
      exact congrArg (fun port : Port => { ended with port }) port
    · rw [if_neg (mt (c.stray.opens_iff c.count).mp opens), if_neg opens]
      rfl
  let after := State.setMeter meterMR { c with lastRate := w.rate, stray, attach := owner }
    { ended with port := s.receiptStrayTold.port }
  have restarts : s.windowRestart meterMR owner = after.nextWindow meterMR (s.now + 250000) := by
    have last : ended.meters[meterMR] = { c with lastRate := w.rate, stray } := noted.setMeter_same meterMR _
    unfold State.windowRestart
    dsimp only
    rw [strayed, show State.meters { ended with port := s.receiptStrayTold.port } = ended.meters from rfl, last]
    rfl
  have meters : after.meters = s.meters.set meterMR { c with lastRate := w.rate, stray, attach := owner } :=
    (Vector.set_set ..).trans (Vector.set_set ..)
  rw [restarts, State.nextWindow_set meterMR _ _ _ after meters]
  rfl

/-! ## RECEIPT_BEGIN (R136, R138, R144) -/

/-- What the link and the events show once RECEIPT_BEGIN has ended MR's window and made the restock state RECEIVING,
before the high-level test. -/
def State.receivingTold (s : State) : State := s.receiptStrayTold.restockTold s.stock.restock .receiving

theorem State.receivingTold_eq (s : State) :
    s.receivingTold = if s.stock.restock = .receiving then s.receiptStrayTold
      else (s.receiptStrayTold.ask .stock).post .restockState (.station s.station) 3 := by
  have station : s.receiptStrayTold.station = s.station := by
    rw [s.receiptStrayTold_eq]
    rfl
  unfold State.receivingTold State.restockTold
  rw [station]
  rfl

/-- What RECEIPT_BEGIN of a compartment does to the part, from `s` to `t`, its answer apart, with the session `z`
then. -/
structure Receives (k : CompId) (z : Session) (s t : State) : Prop where
  session : z = { Session.opened k with permit := z.permit }
  meters : t.meters = s.meters.set meterMR (s.restartedMR .receipt)
  log : t.log = { s.log with reserved := s.log.reserved.set holderReceipt true }
  stock : t.stock = { s.stock with
    session := some z, rjournal := some z.journal, restock := .receiving, goHold := none, yieldUntil := none }
  link : t.link = s.receivingTold.link
  drops : s.highByBook (Session.opened k) = true ∨ s.highByGauge (Session.opened k) = true →
    z.permit = .dropped ∧
    t.port = ((s.receivingTold.post .highLevel (.comp k)
      (if s.highByBook (Session.opened k) then 0 else 1)).shifting s.port.held).port
  keeps : ¬ (s.highByBook (Session.opened k) = true ∨ s.highByGauge (Session.opened k) = true) →
    z.permit = .raised ∧ t.port = (s.receivingTold.shifting s.port.held).port
  frame : t = { s with
    meters := t.meters, log := t.log, stock := t.stock, link := t.link, port := t.port
    staged := none, free := s.free + 1 }

theorem State.beginReceipt_receives (k : CompId) (s : State) :
    ∃ z : Session, Receives k z s (s.beginExchange.beginReceipt k) := by
  let out := s.port.held
  let x := Session.opened k
  let v : State := { s.beginExchange.setReserved holderReceipt true with
    meters := s.meters.set meterMR (s.restartedMR .receipt)
    port := (s.receiptStrayTold.shifting out).port
    stock := { s.stock with session := some x, rjournal := some x.journal, goHold := none, yieldUntil := none } }
  let u := v.setRestock .receiving
  have begun : s.beginExchange.beginReceipt k = u.highLevelTest k := by
    have restart := State.windowRestart_meterMR .receipt (s.beginExchange.setReserved holderReceipt true)
    have told : SameLink (s.beginExchange.setReserved holderReceipt true).receiptStrayTold
        (s.shifting out).receiptStrayTold := SameLink.receiptStrayTold ⟨rfl, rfl, rfl, rfl⟩ rfl
    rw [told.port, State.receiptStrayTold_shifting] at restart
    unfold State.beginReceipt
    dsimp only
    rw [restart]
    rfl
  have stock : u.stock = { v.stock with restock := .receiving } := v.setRestock_stock .receiving
  have moved : u = { v with stock := { v.stock with restock := .receiving }, link := u.link, port := u.port } :=
    v.setRestock_eq .receiving
  have told : SameLink u (s.receivingTold.shifting out) := by
    have same : SameLink v (s.receiptStrayTold.shifting out) := by
      rw [s.receiptStrayTold_eq]
      exact ⟨rfl, rfl, rfl, rfl⟩
    have told := same.setRestock .receiving
    rwa [State.restockTold_shifting] at told
  obtain ⟨book, gauge⟩ := State.high_of_same (u := u) (v := s) (congrArg Stock.books stock :)
    (congrArg Stock.levels stock :) (congrArg State.config moved :)
  obtain ⟨z, tests⟩ := State.putSession_tests x u
  rw [State.putSession_self (congrArg Stock.session stock) (congrArg Stock.rjournal stock)] at tests
  obtain ⟨session, frame, drops, keeps⟩ := tests
  rw [book, gauge] at drops keeps
  rw [begun]
  let t := u.highLevelTest k
  have whole : t = { v with
      stock := { v.stock with session := some z, rjournal := some z.journal, restock := .receiving }
      link := u.link, port := t.port } :=
    frame.trans (congrArg (fun w : State => { w.putSession z with port := t.port }) moved)
  have meters : t.meters = v.meters := (congrArg State.meters whole :)
  have log : t.log = v.log := (congrArg State.log whole :)
  have link : t.link = u.link := (congrArg State.link whole :)
  refine ⟨z, session, meters, log, (congrArg State.stock whole :), link.trans told.link, fun high => ?_, fun low => ?_,
    ?_⟩
  · have posted := (told.post .highLevel (.comp k) (if s.highByBook x then 0 else 1)).port
    rw [State.post_shifting] at posted
    obtain ⟨dropped, port⟩ := drops rfl high
    exact ⟨dropped, port.trans posted⟩
  · obtain ⟨raised, port⟩ := keeps (Or.inr low)
    exact ⟨raised, port.trans told.port⟩
  · show t = { s with
      meters := t.meters, log := t.log, stock := t.stock, link := t.link, port := t.port
      staged := none, free := s.free + 1 }
    rw [meters, log, link, show t.stock = _ from congrArg State.stock whole]
    exact whole

theorem Session.opened_fill (k : CompId) (s : State) :
    (s.highByBook (Session.opened k) = true ↔ s.highFillOf k ≤ s.stock.books[k].value) ∧
    (s.highByGauge (Session.opened k) = true ↔
      ∃ l : Level, s.stock.levels[k] = some l ∧ s.highFillOf k ≤ l.gauge) := by
  have empty : s.highByBook (Session.opened k) = true ↔ s.highFillOf k ≤ s.stock.books[k].value + 0 :=
    s.highByBook_iff _
  rw [Int.add_zero] at empty
  exact ⟨empty, s.highByGauge_iff _⟩

theorem receiptBeginBody_badParam (comp : Byte) (s : State) (on : s.isSealed = true) (bad : 2 ≤ comp.toNat) :
    receiptBeginBody comp s = (s, Reply.refuse .badParam) := by
  rw [receiptBeginBody, afterSeal_sealed _ s on, compOf_eq_none comp bad]

/-- RECEIPT_BEGIN of a compartment: its refusals in order, then the part with the session open. -/
theorem receiptBeginBody_named (k : CompId) (s : State) (on : s.isSealed = true) :
    receiptBeginBody (BitVec.ofNat 8 k.val) s =
      if s.stock.session.isSome then (s, Reply.refuse .wrongState)
      else if s.stock.books[k].isSet = false then (s, Reply.refuse .stockUnset)
      else if s.log.freeCount = 0 then (s, Reply.refuse .logFull)
      else (s.beginReceipt k, Reply.ok [u32 (s.beginReceipt k).log.freeCount]) := by
  rw [receiptBeginBody, afterSeal_sealed _ s on, compOf_comp k]

theorem exec_receiptBegin_takes (tag : Byte) (k : CompId) (s : State) (on : s.isSealed = true)
    (closed : s.stock.session = none) (known : s.stock.books[k].isSet = true) (room : 1 ≤ s.log.freeCount)
    {t : State} (begun : s.beginExchange.beginReceipt k = t) :
    exec (.receiptBegin tag (BitVec.ofNat 8 k.val)) s =
      .next (t.holding (replyBytes 0x41 tag 0 (beBytes 4 t.log.freeCount))) := by
  subst begun
  have body := (receiptBeginBody_named k s.beginExchange on).trans
    ((if_neg (by rw [show s.beginExchange.stock.session = none from closed]; nofun)).trans
      ((if_neg (ne_false_of_eq_true known)).trans (if_neg (Nat.one_le_iff_ne_zero.mp room))))
  have few : (s.beginExchange.beginReceipt k).log.freeCount ≤ 1024 := (Nat.sub_le _ _).trans (Nat.sub_le _ _)
  refine (State.command_ok 0x41 tag _ _ _ s body).trans ?_
  rw [packFields, packFields, List.append_nil, u32_bytes _ _ _ (Nat.lt_of_le_of_lt few (by decide))]

/-! ## RECEIPT_END (R139) -/

theorem receiptEndBody_closed (s : State) (on : s.isSealed = true) (closed : s.stock.session = none) :
    receiptEndBody s = (s, Reply.refuse .wrongState) := by
  rw [receiptEndBody, afterSeal_sealed _ s on, closed]

theorem exec_receiptEnd_takes (tag : Byte) (s : State) (x : Session) (on : s.isSealed = true)
    (session : s.stock.session = some x) :
    exec (.receiptEnd tag) s = .next
      ((if x.ending then s.beginExchange else s.beginExchange.putSession x.ended).holding
        (replyBytes 0x42 tag 0 ((i32 (truncDiv x.acc.net 1000)).bytes (s.free + 1) 0))) := by
  have body : receiptEndBody s.beginExchange =
      (if x.ending then s.beginExchange else s.beginExchange.putSession x.ended,
        Reply.ok [i32 (milli x.acc.net)]) := by
    rw [receiptEndBody, afterSeal_sealed _ s.beginExchange on, show s.beginExchange.stock.session = some x from session]
    dsimp only
    split_ifs <;> rfl
  refine (State.command_ok 0x42 tag _ _ _ s body).trans ?_
  rw [packFields, packFields, List.append_nil]
  split_ifs <;> rfl

/-- Settles O50: RECEIPT_BEGIN by `State.beginReceipt_receives`, its permit by the two figures, and RECEIPT_END by
whether the session is ENDING. -/
theorem receiptOpensAndEnds : Obligations.ReceiptOpensAndEnds := by
  unfold Obligations.ReceiptOpensAndEnds
  refine ⟨fun tag k s on => ?_, fun tag s on => ⟨fun closed => State.command_refuse 0x42 tag _ .wrongState s
    (receiptEndBody_closed s.beginExchange on closed), fun x session => ?_⟩⟩
  · intro begin_
    have body := receiptBeginBody_named k s.beginExchange on
    refine ⟨fun i bad => State.command_refuse 0x41 tag _ .badParam s (receiptBeginBody_badParam i _ on bad),
      fun busy => State.command_refuse 0x41 tag _ .wrongState s (body.trans (if_pos busy)),
      fun closed unset => State.command_refuse 0x41 tag _ .stockUnset s (body.trans
        ((if_neg (by rw [show s.beginExchange.stock.session = none from closed]; nofun)).trans (if_pos unset))),
      fun closed known full => State.command_refuse 0x41 tag _ .logFull s (body.trans
        ((if_neg (by rw [show s.beginExchange.stock.session = none from closed]; nofun)).trans
          ((if_neg (ne_false_of_eq_true known)).trans (if_pos full)))),
      fun closed known room => ?_⟩
    intro high c quiet episode u received shows
    obtain ⟨z, session, meters, log, stock, link, drops, keeps, frame⟩ := s.beginReceipt_receives k
    generalize begun : s.beginExchange.beginReceipt k = t at meters log stock link drops keeps frame
    have takes := exec_receiptBegin_takes tag k s on closed known room begun
    generalize held : replyBytes 0x41 tag 0 (beBytes 4 t.log.freeCount) = reply at takes
    rw [State.receivingTold_eq] at link drops keeps
    change t.link = received.link at link
    obtain ⟨book, gauge⟩ := Session.opened_fill k s
    have highIff := or_congr book gauge
    have own : (t.holding reply).stock.session = some z := congrArg Stock.session stock
    have answered {v : State} (port : t.port = (v.shifting s.port.held).port) : shows (t.holding reply) v :=
      congrArg (fun p : Port => { p with held := reply }) port
    have stray : c.stray.episodeAfter s.settleQuiet c.count = { c.stray with episode, quiet } :=
      StrayAcc.episodeAfter_eq _ _ _
    rw [State.restartedMR, stray] at meters
    refine ⟨t.holding reply, z, takes, held.symm, log, own, congrArg Stock.rjournal stock, session, fun full => ?_,
      fun low => ?_, congrArg Stock.restock stock, congrArg Stock.goHold stock, congrArg Stock.yieldUntil stock, stock,
      meters, link, fun byBook => answered ?_, fun under full => answered ?_, fun low => answered ?_,
      (congrArg (State.holding reply) frame :)⟩
    · obtain ⟨dropped, -⟩ := drops (highIff.mpr full)
      exact ⟨dropped, by rw [State.rperm_of_session _ own, dropped]; rfl⟩
    · obtain ⟨raised, -⟩ := keeps (mt highIff.mp low)
      exact ⟨raised, by rw [State.rperm_of_session _ own, raised]; rfl⟩
    · obtain ⟨-, port⟩ := drops (highIff.mpr (Or.inl byBook))
      rwa [if_pos (book.mpr byBook)] at port
    · obtain ⟨-, port⟩ := drops (highIff.mpr full)
      rwa [if_neg (mt book.mp under.not_ge)] at port
    · exact (keeps (mt highIff.mp low)).2
  · intro y reply
    have takes := exec_receiptEnd_takes tag s x on session
    refine ⟨fun ending => ?_, fun opened => ?_⟩
    · rwa [if_pos ending] at takes
    · rwa [if_neg (ne_true_of_eq_false opened)] at takes

end Sys2Proof.Machine
end

section
/-! The windows of MR in a receipt session, and the close of an ENDING one with its record (06, R93, R94; 07, R112; 09,
R128, R137 to R139, R142, R144). -/

namespace Sys2Proof.Machine

/-! ## The high-level test of a compartment (R138) -/

/-- The high-level test that a figure meets drops the permit, for the book where its figure meets it. -/
theorem State.highLevelTest_drops (s : State) (x : Session) (session : s.stock.session = some x)
    (raised : x.permit = .raised) (high : s.highByBook x = true ∨ s.highByGauge x = true) :
    s.highLevelTest x.comp =
      (s.putSession { x with permit := .dropped }).post .highLevel (.comp x.comp)
        (if s.highByBook x then 0 else 1) :=
  (State.highLevelTest_raised s x session raised).trans (if_pos high)

/-! ## The expiry of MR's window in a session (R90, R137) -/

/-- The part at the end of a window of MR, its rate noted. -/
def State.notedMR (due : Nat) (s : State) : State :=
  { s with
    now := max s.now due
    meters := s.meters.set meterMR { s.meters[meterMR] with lastRate := (s.windowOf meterMR).rate } }

theorem exec_windowExpiry_receipt (due : Nat) (s : State) (timer : s.meters[meterMR].due = some due)
    (attached : s.meters[meterMR].attach = .receipt) :
    exec (.windowExpiry meterMR) s = .next
      (((s.notedMR due).receiptWindow (s.windowOf meterMR)).nextWindow meterMR (due + 250000)) := by
  have owner : (s.notedMR due).account meterMR (s.windowOf meterMR) =
      (s.notedMR due).receiptWindow (s.windowOf meterMR) := by
    have own : (s.notedMR due).meters[meterMR].attach = .receipt :=
      (congrArg Meter.attach (Vector.getElem_set_self _)).trans attached
    unfold State.account
    rw [own]
  show execWindowExpiry meterMR s = _
  unfold execWindowExpiry
  rw [timer]
  exact congrArg (fun u : State => Host.Outcome.next (u.nextWindow meterMR (due + 250000))) owner

/-- A window of an OPEN session: the session written, then the high-level test. -/
theorem State.receiptWindow_open (w : Window) (s : State) (x : Session) (session : s.stock.session = some x)
    (opened : x.ending = false) :
    s.receiptWindow w = (s.putSession (s.windowSession x w)).highLevelTest x.comp := by
  unfold State.receiptWindow
  rw [session]
  exact if_neg (ne_true_of_eq_false opened)

/-- A window of an ENDING session: the session written, then the close. -/
theorem State.receiptWindow_ending (w : Window) (s : State) (x : Session) (session : s.stock.session = some x)
    (ending : x.ending = true) :
    s.receiptWindow w =
      ((s.putSession (s.windowSession x w)).closeReceipt (s.windowSession x w)).detach meterMR := by
  unfold State.receiptWindow
  rw [session]
  exact if_pos ending

/-- What the expiry of a window of MR in a session changes, from `s` to `t`, with MR attached then as given. -/
structure ReceiptExpires (due : Nat) (attach : Attachment) (s t : State) : Prop where
  meters : t.meters = s.meters.set meterMR { s.meters[meterMR] with
    count := 0, sat := false, phaseErr := 0, lastRate := (s.windowOf meterMR).rate, due := some (due + 250000), attach }
  frame : t = { s with
    now := max s.now due, meters := t.meters, log := t.log, stock := t.stock, link := t.link, port := t.port
    free := t.free }

/-- A window's work that leaves MR's channel attached as given, with the next window started. -/
theorem State.receiptWindow_expires (due : Nat) (attach : Attachment) (s : State) {u : State}
    (works : (s.notedMR due).receiptWindow (s.windowOf meterMR) = u)
    (meters : u.meters = s.meters.set meterMR { s.meters[meterMR] with
      lastRate := (s.windowOf meterMR).rate, attach }) :
    ReceiptExpires due attach s (u.nextWindow meterMR (due + 250000)) := by
  have next := State.nextWindow_set meterMR (due + 250000) _ s.meters u meters
  have frame := State.receiptWindow_frame (s.windowOf meterMR) (s.notedMR due)
  rw [works] at frame
  have moved : u = { s with
      now := max s.now due, meters := u.meters, log := u.log, stock := u.stock, link := u.link, port := u.port
      free := u.free } := by
    clear works meters next
    cases u
    simpa [State.notedMR] using frame
  rw [next]
  exact ⟨rfl, congrArg (fun v : State => { v with
    meters := s.meters.set meterMR { s.meters[meterMR] with
      count := 0, sat := false, phaseErr := 0, lastRate := (s.windowOf meterMR).rate, due := some (due + 250000)
      attach } }) moved⟩

/-! ## The session after a window's arithmetic (R104, R107, R112) -/

theorem State.windowSession_eq (s : State) (x : Session) (w : Window) :
    let y := s.windowSession x w
    let gross := grossStep w.count w.mf x.acc.gRem
    let net := netStep gross.whole (vcfOf (s.alphaOf x.comp) s.receiptTemp) x.acc.nRem
    y.acc = x.acc.window gross net s.receiptTemp.used ∧
    y.phaseErrors = min 65535 (x.phaseErrors + w.phaseErr) ∧
    y.flags =
      { overspeed := x.flags.overspeed || w.sat
        overflow := x.flags.overflow || x.acc.newlySaturated y.acc
        tempHeld := x.flags.tempHeld || (decide (gross.whole ≠ 0) && s.receiptTemp.statusCode == 2)
        uncompensated := x.flags.uncompensated ||
          (decide (gross.whole ≠ 0) && s.receiptTemp.statusCode == 0) } :=
  ⟨rfl, hold_eq _ _, DFlags.mark_eq _ _ _ _ _⟩

/-! ## The close of a receipt (R139, R144) -/

/-- The part once a receipt's close has changed the book, cleared the session and posted RECEIPT_CLOSED, before the
restock state is recomputed. -/
def State.receiptClosed (k : CompId) (value seq : Int) (s : State) : State :=
  let v := s.rebooked k value
  State.post .receiptClosed (.comp k) seq { v with stock := { v.stock with session := none, rjournal := none } }

theorem State.receiptClosed_stock (k : CompId) (value seq : Int) (s : State) :
    (s.receiptClosed k value seq).stock = { (s.rebooked k value).stock with session := none, rjournal := none } :=
  (State.post_keeps ..).1

theorem State.receiptClosed_station (k : CompId) (value seq : Int) (s : State) :
    (s.receiptClosed k value seq).station = s.station := by
  have config : (s.receiptClosed k value seq).config = s.config := by simp [State.receiptClosed, State.rebooked]
  unfold State.station State.itemNat State.item
  rw [config]

/-- The close of a receipt as the stock, the link and the events show it. -/
theorem State.closeReceipt_stocks (x : Session) (s b : State) (same : SameStock { s with free := s.free + 1 } b) :
    let r := x.receipt.record s.receiptTemp
    let closed := b.receiptClosed x.comp (s.stock.books[x.comp].value + r.net) s.log.seq.toNat
    SameStock (s.closeReceipt x) (closed.setRestock closed.wantOrNormal) := by
  intro r closed
  let v := (s.append r (some holderReceipt)).changeBook x.comp r.net
  let cleared : State := { v with stock := { v.stock with session := none, rjournal := none } }
  have booked : SameStock v (b.rebooked x.comp (s.stock.books[x.comp].value + r.net)) := by
    have appended : SameStock (s.append r (some holderReceipt)) b :=
      SameStock.trans (v := { s with free := s.free + 1 }) ⟨⟨rfl, rfl, rfl, rfl⟩, rfl, rfl⟩ same
    unfold v
    rw [State.changeBook_eq]
    exact appended.rebooked _ _
  have emptied : SameStock (cleared.post .receiptClosed (.comp x.comp) s.log.seq.toNat) closed := by
    unfold cleared closed State.receiptClosed
    rw [booked.stock]
    exact (booked.withStock _).post _ _ _
  have wants : (cleared.post .receiptClosed (.comp x.comp) s.log.seq.toNat).wantOrNormal = closed.wantOrNormal := by
    unfold State.wantOrNormal
    rw [State.wantsFuel_of_same (congrArg Stock.books emptied.stock) emptied.config]
  show SameStock (State.setRestock _ (cleared.post .receiptClosed (.comp x.comp) s.log.seq.toNat)) _
  rw [wants]
  exact emptied.setRestock _

/-- An event in the queue stays there through a posting. -/
theorem State.post_events_mem (kind : EventKind) (subject : EventSubject) (value : Int) {e : Event} (s : State)
    (queued : e ∈ s.port.events) : e ∈ (s.post kind subject value).port.events := by
  rcases State.post_cases kind subject value s with h | ⟨-, h⟩ | h <;> rw [h]
  · exact queued
  · exact List.mem_append_left _ queued
  · exact queued

theorem State.draw_port (s : State) : s.draw.port = s.port := by simp

theorem State.ask_events_mem (sub : Subject) {e : Event} (s : State) (queued : e ∈ s.port.events) :
    e ∈ (s.ask sub).port.events := by
  rcases State.ask_cases sub s with ⟨-, h⟩ | ⟨-, -, h⟩ | ⟨-, -, h⟩ <;> rw [h]
  · exact queued
  · exact State.post_events_mem _ _ _ s queued
  · rw [State.draw_port]
    exact queued

theorem State.restockTold_events_mem (own r : RestockState) {e : Event} (s : State) (queued : e ∈ s.port.events) :
    e ∈ (s.restockTold own r).port.events := by
  unfold State.restockTold
  split_ifs
  · exact queued
  · exact State.post_events_mem _ _ _ _ (State.ask_events_mem _ s queued)

/-- The close of a receipt posts RECEIPT_CLOSED, where its kind is not masked and the queue has room for what the
change of the book can post. -/
theorem State.receiptClosed_posts (k : CompId) (value seq : Int) (s : State)
    (shown : s.port.mask.getLsbD 17 = false) (room : s.port.events.length ≤ 28) :
    ({ kind := .receiptClosed, subject := .comp k, value := seq, postedAt := s.now / 1000000 } : Event) ∈
      (s.receiptClosed k value seq).port.events := by
  have grows := State.rebooked_grows k value s
  have now : (s.rebooked k value).now = s.now := (State.rebooked_frame k value s).1
  have fits : (s.rebooked k value).port.events.length < Config.eventRoom :=
    Nat.lt_of_le_of_lt (grows.events.trans (Nat.add_le_add_right room 3)) (by decide)
  have posted := State.post_queued .receiptClosed (.comp k) seq
    { s.rebooked k value with stock := { (s.rebooked k value).stock with session := none, rjournal := none } }
    (by rw [← shown, ← grows.mask]; rfl) fits
  rw [show (s.receiptClosed k value seq).port.events = _ from posted, ← now]
  exact List.mem_append_right _ (List.mem_singleton_self _)

/-! ## What a window of MR in a session leaves (R137 to R139) -/

section
variable (due : Nat) (s : State) (x : Session)

/-- What a window of an OPEN session leaves, from `s` to `u`, with the session `z` then (R137, R138). -/
theorem State.receiptWindow_tests (session : s.stock.session = some x) (opened : x.ending = false) :
    ∃ z : Session, Tests (s.windowSession x (s.windowOf meterMR)) z (s.notedMR due)
      ((s.notedMR due).receiptWindow (s.windowOf meterMR)) := by
  rw [State.receiptWindow_open _ (s.notedMR due) x session opened]
  exact State.putSession_tests (s.windowSession x (s.windowOf meterMR)) (s.notedMR due)

/-- What a window of an ENDING session leaves, from `s` to `u` (R137, R139, R144). -/
structure ClosesReceipt (u : State) : Prop where
  log : u.log = (State.append ((s.windowSession x (s.windowOf meterMR)).receipt.record s.receiptTemp)
    (some holderReceipt) s).log
  stocks :
    let y := s.windowSession x (s.windowOf meterMR)
    let closed := State.receiptClosed x.comp
      (s.stock.books[x.comp].value + (y.receipt.record s.receiptTemp).net) s.log.seq.toNat
      { s with
        now := max s.now due, free := s.free + 1
        stock := { s.stock with session := some y, rjournal := some y.journal } }
    SameStock u (closed.setRestock closed.wantOrNormal)
  meters : u.meters = s.meters.set meterMR { s.meters[meterMR] with
    lastRate := (s.windowOf meterMR).rate, attach := .stray }

theorem State.receiptWindow_closes (session : s.stock.session = some x) (ending : x.ending = true) :
    ClosesReceipt due s x ((s.notedMR due).receiptWindow (s.windowOf meterMR)) := by
  let y := s.windowSession x (s.windowOf meterMR)
  let b := (s.notedMR due).putSession y
  have works : (s.notedMR due).receiptWindow (s.windowOf meterMR) = (b.closeReceipt y).detach meterMR :=
    State.receiptWindow_ending _ (s.notedMR due) x session ending
  have stocks := State.closeReceipt_stocks y b { s with
    now := max s.now due, free := s.free + 1
    stock := { s.stock with session := some y, rjournal := some y.journal } } ⟨⟨rfl, rfl, rfl, rfl⟩, rfl, rfl⟩
  have meters : (b.closeReceipt y).meters = b.meters := by simp
  rw [works]
  refine ⟨b.closeReceipt_log y, ⟨⟨stocks.link, stocks.port, stocks.now, stocks.config⟩, stocks.stock, stocks.free⟩, ?_⟩
  show (b.closeReceipt y).meters.set meterMR { (b.closeReceipt y).meters[meterMR] with attach := .stray } = _
  have own : b.meters[meterMR] = { s.meters[meterMR] with lastRate := (s.windowOf meterMR).rate } :=
    Vector.getElem_set_self _
  rw [meters, own]
  exact Vector.set_set ..

end

/-- MR's channel after a window's work in a session: its rate noted, and detached by a close alone (R139). -/
theorem State.receiptWindow_meters (due : Nat) (s : State) (x : Session) (session : s.stock.session = some x)
    (attached : s.meters[meterMR].attach = .receipt) :
    ((s.notedMR due).receiptWindow (s.windowOf meterMR)).meters = s.meters.set meterMR { s.meters[meterMR] with
      lastRate := (s.windowOf meterMR).rate, attach := if x.ending then .stray else .receipt } := by
  cases ending : x.ending with
  | true => exact (State.receiptWindow_closes due s x session ending).meters
  | false =>
    obtain ⟨z, tests⟩ := State.receiptWindow_tests due s x session ending
    have meters : _ = s.meters.set meterMR { s.meters[meterMR] with lastRate := (s.windowOf meterMR).rate } :=
      (congrArg State.meters tests.frame :)
    rw [meters, ← attached]
    rfl

/-- What the stock, the link and the events show after the close of a receipt into a compartment, from `b` with the
session written (R139, R144). -/
theorem SameStock.receiptClosed {k : CompId} {value seq : Int} {b u : State} :
    let v := b.rebooked k value
    let closed := b.receiptClosed k value seq
    SameStock u (closed.setRestock closed.wantOrNormal) →
    u.stock = { v.stock with session := none, rjournal := none, restock := u.stock.restock } ∧
    u.stock.restock = (if u.wantsFuel then .want else .normal) ∧
    SameLink u (closed.restockTold v.stock.restock u.stock.restock) ∧
    (u.stock.restock = v.stock.restock → SameLink u closed) ∧
    (u.stock.restock ≠ v.stock.restock → SameLink u ((closed.ask .stock).post .restockState (.station b.station)
      u.stock.restock.code)) ∧
    u.free = b.free := by
  intro v closed same
  have stock := same.stock.trans (State.setRestock_stock _ _)
  have own : u.stock.restock = closed.wantOrNormal := congrArg Stock.restock stock
  have emptied : closed.stock = { v.stock with session := none, rjournal := none } := b.receiptClosed_stock k value seq
  have told : SameLink (closed.setRestock closed.wantOrNormal)
      (closed.restockTold closed.stock.restock closed.wantOrNormal) := SameLink.setRestock ⟨rfl, rfl, rfl, rfl⟩ _
  rw [← own, emptied] at stock told
  have shown : SameLink u (closed.restockTold v.stock.restock u.stock.restock) := by
    have shown := same.toSameLink
    rw [← own] at shown
    exact ⟨shown.link.trans told.link, shown.port.trans told.port, shown.now.trans told.now,
      shown.config.trans told.config⟩
  refine ⟨stock, ?_, shown, fun kept => ?_, fun other => ?_, ?_⟩
  · rw [same.stock, closed.setRestock_wantOrNormal,
      State.wantsFuel_of_same (congrArg Stock.books same.stock) same.config]
  · rwa [State.restockTold, if_pos kept.symm] at shown
  · rwa [State.restockTold, if_neg other.symm, State.receiptClosed_station] at shown
  · have freed : closed.free = b.free := by
      show (State.post _ _ _ _).free = b.free
      rw [(State.post_keeps ..).2.2]
      exact (State.rebooked_frame k value b).2
    exact (same.free.trans (congrArg State.free (State.setRestock_eq _ _))).trans freed

/-- Settles O51: the window by whether its session is ENDING, the high-level test by its two figures. -/
theorem receiptWindowAccounts : Obligations.ReceiptWindowAccounts := by
  unfold Obligations.ReceiptWindowAccounts
  refine ⟨fun due x s timer attached session => ?_, fun k s => ⟨fun none' => ?_, fun x session => ?_⟩⟩
  · intro w y gross net r
    obtain ⟨acc, errors, flags⟩ := s.windowSession_eq x w
    obtain ⟨meters, frame⟩ := s.receiptWindow_expires due _ rfl (s.receiptWindow_meters due x session attached)
    have expires := exec_windowExpiry_receipt due s timer attached
    have now := congrArg State.now frame
    refine ⟨_, expires, now, s.windowOf_eq meterMR, acc, errors, flags, meters, (congrArg State.hoses frame :),
      (congrArg State.pumps frame :), (congrArg State.table frame :), fun opened => ?_, fun ending => ?_, ?_⟩
    · obtain ⟨z, written, tested, drops, keeps⟩ := State.receiptWindow_tests due s x session opened
      generalize (s.notedMR due).receiptWindow (s.windowOf meterMR) = u at tested drops keeps frame now
      obtain ⟨book, gauge⟩ := State.high_of_same (u := s.notedMR due) (v := s) rfl rfl rfl
      rw [book, gauge, ← Bool.or_eq_true] at drops keeps
      have stock : u.stock = { s.stock with session := some z, rjournal := some z.journal } :=
        (congrArg State.stock tested :)
      have own : (u.nextWindow meterMR (due + 250000)).stock.session = some z := congrArg Stock.session stock
      have met (low : (s.highByBook y || s.highByGauge y) = false) : ¬ (s.highByBook y || s.highByGauge y) = true :=
        ne_true_of_eq_false low
      refine ⟨z, own, congrArg Stock.rjournal stock, written, stock, (congrArg State.link tested :),
        (congrArg State.free tested :), fun unraised => (keeps (Or.inl unraised)).1, fun raised high => ?_,
        fun raised low => (keeps (Or.inr (met low))).1.trans raised, fun idle => (keeps (idle.imp_right met)).2,
        (congrArg State.log tested :)⟩
      obtain ⟨dropped, port⟩ := drops raised high
      refine ⟨dropped, by rw [State.rperm_of_session _ own, dropped]; rfl, ?_⟩
      rw [now]
      exact port.trans (SameLink.post (u := s.notedMR due) (v := { s with now := max s.now due })
        ⟨rfl, rfl, rfl, rfl⟩ _ _ _).port
    · obtain ⟨log, stocks, -⟩ := State.receiptWindow_closes due s x session ending
      obtain ⟨stock, wants, told, stays, changes, free⟩ := SameStock.receiptClosed stocks
      obtain ⟨slot, others, -⟩ := s.append_log r (some holderReceipt)
      generalize (s.notedMR due).receiptWindow (s.windowOf meterMR) = u
        at log stock wants told stays changes free frame now
      have logged : (u.nextWindow meterMR (due + 250000)).log = (s.append r (some holderReceipt)).log := log
      refine ⟨congrArg Stock.session stock, congrArg Stock.rjournal stock, ?_, ?_, fun i ne => ?_, ?_, ?_, ?_,
        fun shown room => ?_, wants, stock, free, fun same => ?_, fun other => ?_⟩
      · unfold State.rperm
        rw [show (u.nextWindow meterMR (due + 250000)).stock.session = none from congrArg Stock.session stock]
      · rw [logged]
        exact slot
      · rw [logged]
        exact others i ne
      · rw [logged]
        rfl
      · show BitVec.ofNat 8 (EndCause.code (if x.permit = .dropped then .highLevel else .hostEnd)) = _
        split_ifs <;> rfl
      · exact (congrArg Stock.books stock).trans (State.rebooked_books _ _ _)
      · rw [show (u.nextWindow meterMR (due + 250000)).port = _ from told.port, now]
        exact State.restockTold_events_mem _ _ _ (State.receiptClosed_posts _ _ _ _ shown room)
      · exact ⟨(stays same).link, (stays same).port⟩
      · exact ⟨(changes other).link, (changes other).port⟩
    · rw [now]
      exact frame
  · exact s.highLevelTest_idle k fun x session => by rw [none'] at session; cases session
  · intro byBook byGauge dropped drops
    have book : s.highByBook x = true ↔ byBook := s.highByBook_iff x
    have gauge : s.highByGauge x = true ↔ byGauge := s.highByGauge_iff x
    refine ⟨book, gauge, fun idle => ?_, ?_, ?_⟩
    · rcases s.highLevelTest_cases k with e | ⟨y, own, comp, raised, high, -⟩
      · exact e
      · cases session.symm.trans own
        rcases idle with other | unraised | low
        · exact absurd comp other
        · exact absurd raised unraised
        · exact absurd (high.imp book.mp gauge.mp) low
    · rintro rfl raised full
      have test := s.highLevelTest_drops x session raised (Or.inl (book.mpr full))
      rwa [if_pos (book.mpr full)] at test
    · rintro rfl raised under full
      have test := s.highLevelTest_drops x session raised (Or.inr (gauge.mpr full))
      rwa [if_neg (mt book.mp under)] at test

end Sys2Proof.Machine
end

section
/-! The carrier event, the characters received, the quiet and jam expiries and the end of a transmission (10, R149,
R152, R153, R155). -/

namespace Sys2Proof.Machine

/-! ## The carrier event (R149, R152) -/

theorem State.carrier_unheard (s : State)
    (st : s.link.state = .busy ∨ s.link.state = .jammed ∨ s.link.state = .sending) : s.carrier = s := by
  unfold State.carrier
  rcases st with st | st | st <;> rw [st]

theorem State.carrier_unknown (s : State) (st : s.link.state = .unknown) :
    s.carrier = { s with link := { s.link with quiet := none, jam := s.jamAt, rx := some RxFrame.empty } } := by
  unfold State.carrier
  rw [st]

theorem State.carrier_idle (s : State) (st : s.link.state = .idle) :
    s.carrier = State.defer_ { s with link := { s.link with
      state := .busy, jam := s.jamAt, rx := some RxFrame.empty } } := by
  unfold State.carrier
  rw [st]

theorem State.deferral_none (s : State) (backoff : s.link.backoff = none) : s.defer_ = s := by
  unfold State.defer_
  rw [backoff]

/-- A deferral below the limit is counted, and the head keeps its place. -/
theorem State.deferral_counts (s : State) (backoff : s.link.backoff ≠ none)
    (below : s.link.deferrals + 1 < deferralLimit) :
    s.defer_ = { s with link := { s.link with backoff := none, deferrals := s.link.deferrals + 1 } } := by
  obtain ⟨due, backoff⟩ := Option.ne_none_iff_exists'.mp backoff
  unfold State.defer_
  rw [backoff]
  exact if_pos below

/-- The deferral that reaches the limit discards the head with LINK_DROP. -/
theorem State.deferral_drops (s : State) (sub : Subject) (rest : List Subject) (backoff : s.link.backoff ≠ none)
    (reached : s.link.deferrals + 1 = deferralLimit) (queue : s.link.queue = sub :: rest) :
    s.defer_ = State.postDrop sub { s with link := { s.link with
      backoff := none, deferrals := 0, queue := rest } } := by
  obtain ⟨due, backoff⟩ := Option.ne_none_iff_exists'.mp backoff
  unfold State.defer_ State.popHead
  simp only [backoff, queue, reached, lt_irrefl, if_false, List.drop_one, List.tail_cons]

theorem exec_carrierEvent_unsealed (s : State) (off : s.isSealed = false) :
    exec .carrierEvent s = .next { s with pins := { s.pins with lcd := true } } := by
  show execCarrierEvent s = _
  simp only [execCarrierEvent, off, Bool.false_eq_true, if_false]

theorem exec_carrierEvent_sealed (s : State) (on : s.isSealed = true) :
    exec .carrierEvent s = .next (State.carrier { s with pins := { s.pins with lcd := true } }) := by
  show execCarrierEvent s = _
  simp only [execCarrierEvent, on, if_true]

/-- Settles O55: before the seal the line alone, after it the effect of the carrier by the link's state and the
deferral of a pending backoff. -/
theorem carrierEventFollowsState : Obligations.CarrierEventFollowsState := by
  unfold Obligations.CarrierEventFollowsState
  intro s u l jam busy
  let raised : State := { s with pins := { s.pins with lcd := true } }
  refine ⟨fun h => ?_, fun on st => ?_, fun on st still => ?_, fun on st waits below => ?_,
    fun sub rest on st waits reached queue => ?_⟩
  · cases on : s.isSealed
    case false => exact exec_carrierEvent_unsealed s on
    case true =>
      have st := h.resolve_left (by rw [on]; nofun)
      rw [exec_carrierEvent_sealed s on, raised.carrier_unheard st]
  · rw [exec_carrierEvent_sealed s on, raised.carrier_unknown st]
    rfl
  all_goals rw [exec_carrierEvent_sealed s on, raised.carrier_idle st]
  · exact congrArg _ ((u busy).deferral_none still)
  · exact congrArg _ ((u busy).deferral_counts waits (Nat.succ_lt_succ below))
  · exact congrArg _ ((u busy).deferral_drops sub rest waits (congrArg Nat.succ reached) queue)

/-! ## The expiries and the characters (R149, R155) -/

theorem exec_quietExpiry_idle (s : State) (h : s.link.quiet = none) : exec .quietExpiry s = .next s := by
  show execQuietExpiry s = _
  simp only [execQuietExpiry, h]

theorem exec_quietExpiry_due (due : Nat) (s : State) (h : s.link.quiet = some due) :
    exec .quietExpiry s = .next (State.draw { s with
      now := max s.now (due * 1000), link := { s.link with state := .idle, quiet := none } }) := by
  show execQuietExpiry s = _
  simp only [execQuietExpiry, h]
  rfl

theorem exec_jamExpiry_idle (s : State) (h : s.link.jam = none) : exec .jamExpiry s = .next s := by
  show execJamExpiry s = _
  simp only [execJamExpiry, h]

theorem exec_jamExpiry_due (due : Nat) (s : State) (h : s.link.jam = some due) :
    exec .jamExpiry s = .next (State.post .linkJammed (.station s.station) 0 { s with
      now := max s.now (due * 1000), link := { s.link with state := .jammed, jam := none } }) := by
  show execJamExpiry s = _
  simp only [execJamExpiry, h]
  rfl

theorem exec_linkCharacter_dropped (c : Byte) (s : State) (h : s.link.rx = none) :
    exec (.linkCharacter c) s = .next s := by
  show execLinkCharacter c s = _
  simp only [execLinkCharacter, h]

theorem exec_linkCharacter_joins (c : Byte) (f : RxFrame) (s : State) (h : s.link.rx = some f) :
    exec (.linkCharacter c) s = .next { s with link := { s.link with rx := some (f.push c) } } := by
  show execLinkCharacter c s = _
  simp only [execLinkCharacter, h]

/-- A character is kept among the first 22 and counted to 255. -/
theorem RxFrame.push_eq (c : Byte) (f : RxFrame) :
    f.push c = { kept := f.kept ++ (if f.kept.length < 22 then [c] else []), count := min 255 (f.count + 1) } := by
  unfold RxFrame.push
  rw [hold_eq]
  split_ifs
  · rfl
  · rw [List.append_nil]

/-! ## The end of a transmission (R149, R153) -/

theorem exec_endOfTransmission_idle (s : State) (h : s.link.tx = none) :
    exec .endOfTransmission s = .next s := by
  show execEndOfTransmission s = _
  simp only [execEndOfTransmission, h]

theorem exec_endOfTransmission_free (x : TxFrame) (s : State) (h : s.link.tx = some x)
    (lcd : s.pins.lcd = false) :
    exec .endOfTransmission s = .next (State.draw { s with
      now := max s.now x.due, link := { s.link with state := .idle, tx := none } }) := by
  show execEndOfTransmission s = _
  simp only [execEndOfTransmission, h, State.reach, lcd, Bool.false_eq_true, if_false]
  rfl

theorem exec_endOfTransmission_carrier (x : TxFrame) (s : State) (h : s.link.tx = some x)
    (lcd : s.pins.lcd = true) :
    exec .endOfTransmission s = .next { s with
      now := max s.now x.due
      link := { s.link with
        state := .busy, tx := none, jam := some (max s.now x.due / 1000 + s.linkJam)
        rx := some { kept := [], count := 0 } } } := by
  show execEndOfTransmission s = _
  simp only [execEndOfTransmission, h, State.reach, lcd, if_true]
  rfl

theorem State.ltxe_iff (s : State) : s.ltxe = true ↔ s.link.state = .sending := beq_iff_eq

theorem State.ltxe_low {s : State} (st : s.link.state ≠ .sending) : s.ltxe = false :=
  Bool.eq_false_iff.mpr (mt s.ltxe_iff.mp st)

theorem State.draw_state (s : State) : s.draw.link.state = s.link.state := by
  rcases s.draw_cases with e | ⟨g, -, -, -, -, -, e⟩ <;> rw [e]

/-- Settles O56, timer by timer, and the end of a transmission by the carrier line. -/
theorem linkTimersAndCharacters : Obligations.LinkTimersAndCharacters := by
  unfold Obligations.LinkTimersAndCharacters
  refine ⟨fun due c s => ⟨exec_quietExpiry_due due s, exec_jamExpiry_due due s, fun f rx => ?_,
    exec_quietExpiry_idle s, exec_jamExpiry_idle s, exec_linkCharacter_dropped c s⟩, fun x s tx => ?_,
    State.ltxe_iff⟩
  · rw [exec_linkCharacter_joins c f s rx, RxFrame.push_eq]
  · refine ⟨exec_endOfTransmission_free x s tx, exec_endOfTransmission_carrier x s tx, fun t ends => ?_⟩
    cases lcd : s.pins.lcd
    case false =>
      cases (exec_endOfTransmission_free x s tx lcd).symm.trans ends
      exact State.ltxe_low (by rw [State.draw_state]; nofun)
    case true =>
      cases (exec_endOfTransmission_carrier x s tx lcd).symm.trans ends
      exact State.ltxe_low nofun

end Sys2Proof.Machine
end

section
/-! The backoff expiry: the head subject's notice is sent or skipped; the asking for a subject and the draw (10, R150
to R154). -/

namespace Sys2Proof.Machine

/-! ## Frames (R145, R154) -/

theorem beBytes_one (v : Nat) : beBytes 1 v = [BitVec.ofNat 8 v] := by
  simp [beBytes]

theorem State.noticeHead_eq (length kind : Nat) (s : State) :
    s.noticeHead length kind = [BitVec.ofNat 8 length, BitVec.ofNat 8 kind] ++ beBytes 2 s.site ++
      [BitVec.ofNat 8 s.station] ++ beBytes 2 s.link.noticeSeq.toNat ++ beBytes 2 s.table.day.toNat := by
  rw [State.noticeHead, beBytes_one]

theorem State.bookLitres_eq (k : CompId) (s : State) :
    s.bookLitres k = (max 0 (min 65535 (s.stock.books[k].value / 1000))).toNat := by
  rw [State.bookLitres, clampInt_eq _ _ _ (by decide)]
  rfl

/-- A frame is its body with the body's CRC. -/
theorem State.machineFrame_eq (slot : Nat) (e : Entry) (s : State) :
    s.machineFrame slot e = withFrameCrc (([BitVec.ofNat 8 22, BitVec.ofNat 8 1] ++ beBytes 2 s.site ++
      [BitVec.ofNat 8 s.station] ++ beBytes 2 s.link.noticeSeq.toNat ++ beBytes 2 s.table.day.toNat) ++
      beBytes 3 e.ring.toNat ++ beBytes 4 e.tally[s.ownIndex] ++ beBytes 4 (s.ownOpenSum slot none)) := by
  rw [State.machineFrame, State.noticeHead_eq]

theorem State.stockFrame_eq (s : State) :
    s.stockFrame = withFrameCrc (([BitVec.ofNat 8 18, BitVec.ofNat 8 2] ++ beBytes 2 s.site ++
      [BitVec.ofNat 8 s.station] ++ beBytes 2 s.link.noticeSeq.toNat ++ beBytes 2 s.table.day.toNat) ++
      [BitVec.ofNat 8 (s.stock.restock.code + if s.stock.yieldUntil.isSome then 128 else 0)] ++
      beBytes 2 s.urgency.toNat ++ beBytes 2 (max 0 (min 65535 (s.stock.books[(0 : CompId)].value / 1000))).toNat ++
      beBytes 2 (max 0 (min 65535 (s.stock.books[(1 : CompId)].value / 1000))).toNat) := by
  rw [State.stockFrame, State.noticeHead_eq, beBytes_one, State.bookLitres_eq, State.bookLitres_eq]

/-! ## The transmission (R153) -/

theorem State.transmit_stock (rest : List Subject) (s : State) (queue : s.link.queue = .stock :: rest) :
    s.transmit = s.nextNotice.send s.nextNotice.stockFrame := by
  unfold State.transmit
  rw [queue]

theorem State.transmit_machine (ring : BitVec 24) (rest : List Subject) (slot : Nat) (e : Entry) (s : State)
    (queue : s.link.queue = .machine ring :: rest) (entry : s.entryOfRing ring = some (slot, e)) :
    s.transmit = s.nextNotice.send (s.nextNotice.machineFrame slot e) := by
  unfold State.transmit
  rw [queue]
  simp only [entry]

theorem State.transmit_skips (ring : BitVec 24) (rest : List Subject) (s : State)
    (queue : s.link.queue = .machine ring :: rest) (entry : s.entryOfRing ring = none) :
    s.transmit = s.popHead.draw := by
  unfold State.transmit
  rw [queue]
  simp only [entry]

theorem State.popHead_eq (sub : Subject) (rest : List Subject) (s : State) (queue : s.link.queue = sub :: rest) :
    s.popHead = { s with link := { s.link with queue := rest, deferrals := 0 } } := by
  rw [State.popHead, queue]
  rfl

/-- The frame that takes the next notice sequence is put on the line (R153 steps 2, 4 and 5). -/
theorem State.send_eq (frame : List Byte) (sub : Subject) (rest : List Subject) (s : State)
    (queue : s.link.queue = sub :: rest) :
    s.nextNotice.send frame = { s with link := { s.link with
      queue := rest, deferrals := 0, noticeSeq := s.link.noticeSeq + 1
      noticeCrc := crc16 (beBytes 2 (s.link.noticeSeq + 1).toNat), state := .sending, rx := none
      tx := some { bytes := frame, due := s.now + frame.length * s.linkByte } } } := by
  rw [State.send, State.popHead_eq sub rest s.nextNotice queue]
  rfl

/-! ## The backoff expiry (R152, R153) -/

theorem exec_backoffExpiry_idle (s : State) (h : s.link.backoff = none) : exec .backoffExpiry s = .next s := by
  show execBackoffExpiry s = _
  simp only [execBackoffExpiry, h]

/-- The part with its backoff expired. -/
def State.backedOff (due : Nat) (s : State) : State :=
  { s with now := max s.now (due * 1000), link := { s.link with backoff := none } }

theorem exec_backoffExpiry_due (due : Nat) (s : State) (h : s.link.backoff = some due) :
    exec .backoffExpiry s = .next (s.backedOff due).transmit := by
  show execBackoffExpiry s = _
  simp only [execBackoffExpiry, h]
  rfl

/-- A transmission's frame goes on the line, with LTXE high. -/
theorem exec_backoffExpiry_sends (due : Nat) (frame : List Byte) (sub : Subject) (rest : List Subject) (s : State)
    (h : s.link.backoff = some due) (queue : s.link.queue = sub :: rest)
    (sends : (s.backedOff due).transmit = (s.backedOff due).nextNotice.send frame) :
    exec .backoffExpiry s = .next { s with
      now := max s.now (due * 1000)
      link := { s.link with
        backoff := none, queue := rest, deferrals := 0, noticeSeq := s.link.noticeSeq + 1
        noticeCrc := crc16 (beBytes 2 (s.link.noticeSeq + 1).toNat), state := .sending, rx := none
        tx := some { bytes := frame, due := max s.now (due * 1000) + frame.length * s.linkByte } } } ∧
    ∀ t : State, exec .backoffExpiry s = .next t → t.ltxe = true := by
  have expires := exec_backoffExpiry_due due s h
  rw [sends, State.send_eq frame sub rest (s.backedOff due) queue] at expires
  refine ⟨expires, fun t ends => ?_⟩
  cases expires.symm.trans ends
  rfl

/-! ## A subject asked for, and the draw (R150 to R152) -/

theorem State.ask_waiting (sub : Subject) (s : State) (waits : sub ∈ s.link.queue) : s.ask sub = s := if_pos waits

theorem State.ask_full (sub : Subject) (s : State) (new : sub ∉ s.link.queue)
    (full : Config.subjectRoom ≤ s.link.queue.length) : s.ask sub = s.postDrop sub :=
  (if_neg new).trans (if_neg full.not_gt)

theorem State.ask_joins (sub : Subject) (s : State) (new : sub ∉ s.link.queue)
    (room : s.link.queue.length < Config.subjectRoom) :
    s.ask sub = State.draw { s with link := { s.link with queue := s.link.queue ++ [sub] } } :=
  (if_neg new).trans (if_pos room)

theorem State.draw_starts (g : BitVec 16) (s : State) (st : s.link.state = .idle) (queue : s.link.queue ≠ [])
    (clash : s.link.clash = false) (backoff : s.link.backoff = none) (gen : s.link.gen = some g) :
    s.draw = { s with link := { s.link with
      gen := some (genStep g)
      backoff := some (s.now / 1000 + ((genStep g).extractLsb' 0 3).toNat * s.linkSlot) } } := by
  have low : ((genStep g).extractLsb' 0 3).toNat = (genStep g).toNat % 8 := by
    rw [BitVec.extractLsb'_toNat, Nat.shiftRight_zero]
  rw [low, State.draw, if_pos ⟨st, queue, clash, backoff⟩, gen]
  rfl

theorem State.draw_waits (s : State)
    (h : s.link.state ≠ .idle ∨ s.link.queue = [] ∨ s.link.clash = true ∨ s.link.backoff ≠ none) : s.draw = s := by
  refine if_neg ?_
  rintro ⟨st, queue, clash, backoff⟩
  rcases h with h | h | h | h
  · exact h st
  · exact queue h
  · exact absurd (h.symm.trans clash) nofun
  · exact h backoff

/-- Settles O57, subject by subject: the STOCK notice, the MACHINE notice of a listed ring ID, the skip of another. -/
theorem backoffExpirySendsHead : Obligations.BackoffExpirySendsHead := by
  unfold Obligations.BackoffExpirySendsHead
  refine ⟨fun due sub rest s backoff queue => ?_, fun sub s => ?_, fun s => ⟨fun g => s.draw_starts g, s.draw_waits⟩,
    State.ltxe_iff⟩
  · intro now seq head sends litres
    refine ⟨?_, ?_, ?_⟩
    · rintro rfl
      have frame := exec_backoffExpiry_sends due _ .stock rest s backoff queue
        ((s.backedOff due).transmit_stock rest queue)
      rwa [State.stockFrame_eq] at frame
    · rintro ring slot e rfl entry
      have frame := exec_backoffExpiry_sends due _ (.machine ring) rest s backoff queue
        ((s.backedOff due).transmit_machine ring rest slot e queue entry)
      rwa [State.machineFrame_eq] at frame
    · rintro ring rfl entry
      rw [exec_backoffExpiry_due due s backoff, (s.backedOff due).transmit_skips ring rest queue entry,
        (s.backedOff due).popHead_eq (.machine ring) rest queue]
      rfl
  · refine ⟨s.ask_waiting sub, fun new full => (s.ask_full sub new full).trans ?_, s.ask_joins sub⟩
    cases sub <;> rfl

end Sys2Proof.Machine
end

section
/-! The staleness expiry and the machine and stock sweeps (10, R159, R160). -/

namespace Sys2Proof.Machine

/-! ## The staleness expiry and the stock sweep -/

theorem exec_stalenessExpiry_fresh (i : StationId) (p : Peer) (s : State) (h : s.link.peers[i] = some p) :
    exec (.stalenessExpiry i) s = .next (State.evaluateRestock { s with
      now := max s.now (p.stale * 1000000), link := { s.link with peers := s.link.peers.set i none } }) := by
  show execStalenessExpiry i s = _
  simp only [execStalenessExpiry, h]
  rfl

theorem exec_stalenessExpiry_absent (i : StationId) (s : State) (h : s.link.peers[i] = none) :
    exec (.stalenessExpiry i) s = .next s := by
  show execStalenessExpiry i s = _
  simp only [execStalenessExpiry, h]

theorem exec_stockSweep_idle (s : State) (h : s.link.stockDue = none) : exec .stockSweep s = .next s := by
  show execStockSweep s = _
  simp only [execStockSweep, h]

/-- The part at a stock sweep, with the next one set. -/
def State.stockSwept (due : Nat) (s : State) : State :=
  { s with now := max s.now due, link := { s.link with stockDue := some (due + s.stockPeriod * 1000000) } }

theorem exec_stockSweep_due (due : Nat) (s : State) (h : s.link.stockDue = some due) :
    exec .stockSweep s = .next
      (if s.link.clash then s.stockSwept due else (s.stockSwept due).ask .stock) := by
  show execStockSweep s = _
  simp only [execStockSweep, h]
  rfl

/-! ## What a machine sweep finds -/

theorem State.sweepable_iff (slot : Nat) (e : Entry) (s : State) :
    s.sweepable slot e = true ↔ 0 < e.tally[s.ownIndex] ∨ 0 < s.ownOpenSum slot none := by
  simp [State.sweepable]

theorem State.sweepFinds_none (s : State) (idle : ∀ p ∈ s.table.entries, s.sweepable p.1 p.2 = false) :
    s.sweepFinds = none := by
  have hits : (s.table.entries.filter fun p => s.sweepable p.1 p.2) = [] := by
    simpa [List.filter_eq_nil_iff] using idle
  unfold State.sweepFinds
  rw [hits]
  rfl

/-- Steps from a place of the ring of 256 slots up to a slot. -/
def slotsFrom (pos slot : Nat) : Nat := (slot + 256 - pos) % 256

theorem slotsFrom_above {pos slot : Nat} (h : pos ≤ slot) (inTable : slot < 256) :
    slotsFrom pos slot = slot - pos := by
  unfold slotsFrom
  omega

theorem slotsFrom_below {pos slot : Nat} (h : slot < pos) (inTable : pos < 256) :
    slotsFrom pos slot = slot + 256 - pos := by
  unfold slotsFrom
  omega

/-- In a sorted store the first entry with a property has the least key. -/
theorem Sparse.find?_of_least {α : Type} (m : List (Nat × α)) (rising : m.Pairwise fun p q => p.1 < q.1)
    (good : Nat × α → Bool) (p : Nat × α) (mem : p ∈ m) (holds : good p = true)
    (least : ∀ q ∈ m, good q = true → p.1 ≤ q.1) : m.find? good = some p := by
  induction m with
  | nil => cases mem
  | cons q rest ih =>
    obtain ⟨above, rising⟩ := List.pairwise_cons.mp rising
    rcases List.mem_cons.mp mem with rfl | mem
    · exact List.find?_cons_of_pos holds
    · have bad : ¬ good q = true := fun h =>
        absurd (least q List.mem_cons_self h) (above p mem).not_ge
      rw [List.find?_cons_of_neg bad]
      exact ih rising mem fun x hx => least x (List.mem_cons_of_mem q hx)

/-- The sweep finds the first entry with figures from its position upward, wrapping (R160). -/
theorem State.sweepFinds_nearest (slot : Nat) (e : Entry) (s : State) (inv : TableInv s)
    (listed : (slot, e) ∈ s.table.entries) (wants : s.sweepable slot e = true)
    (nearest : ∀ p ∈ s.table.entries, s.sweepable p.1 p.2 = true →
      slotsFrom s.link.sweepPos slot ≤ slotsFrom s.link.sweepPos p.1)
    (inTable : s.link.sweepPos < 256) : s.sweepFinds = some (slot, e) := by
  unfold State.sweepFinds
  extract_lets hits
  have rising : hits.Pairwise fun p q => p.1 < q.1 := ((Sparse.rising_iff _).mp inv.rising).filter _
  have hit : (slot, e) ∈ hits := List.mem_filter.mpr ⟨listed, wants⟩
  have near (p : Nat × Entry) (hp : p ∈ hits) :
      p.1 < 256 ∧ slotsFrom s.link.sweepPos slot ≤ slotsFrom s.link.sweepPos p.1 := by
    obtain ⟨mem, wants⟩ := List.mem_filter.mp hp
    exact ⟨inv.slots p mem, nearest p mem wants⟩
  have slotIn : slot < 256 := inv.slots (slot, e) listed
  by_cases above : s.link.sweepPos ≤ slot
  · have first := Sparse.find?_of_least hits rising (fun p => decide (s.link.sweepPos ≤ p.1)) (slot, e) hit
      (decide_eq_true above) fun p hp hpos => by
        obtain ⟨pIn, le⟩ := near p hp
        have hpos := of_decide_eq_true hpos
        rw [slotsFrom_above above slotIn, slotsFrom_above hpos pIn] at le
        show slot ≤ p.1
        omega
    rw [first]
  · have below (p : Nat × Entry) (hp : p ∈ hits) : p.1 < s.link.sweepPos ∧ slot ≤ p.1 := by
      obtain ⟨pIn, le⟩ := near p hp
      rw [slotsFrom_below (not_le.mp above) inTable] at le
      by_cases hpos : s.link.sweepPos ≤ p.1
      · rw [slotsFrom_above hpos pIn] at le
        omega
      · rw [slotsFrom_below (not_le.mp hpos) inTable] at le
        omega
    have wraps : (hits.find? fun p => decide (s.link.sweepPos ≤ p.1)) = none :=
      List.find?_eq_none.mpr fun p hp => by simpa using (below p hp).1
    have first := Sparse.find?_of_least hits rising (fun _ => true) (slot, e) hit rfl
      fun p hp _ => (below p hp).2
    rw [wraps]
    clear_value hits
    cases hits with
    | nil => cases hit
    | cons p rest => exact first

/-! ## The machine sweep -/

theorem State.machineSweep_clash (s : State) (clash : s.link.clash = true) : s.machineSweep = s := if_pos clash

theorem State.machineSweep_none (s : State) (finds : s.sweepFinds = none) : s.machineSweep = s := by
  unfold State.machineSweep
  rw [finds, ite_self]

theorem State.machineSweep_asks (slot : Nat) (e : Entry) (s : State) (clash : s.link.clash = false)
    (finds : s.sweepFinds = some (slot, e)) :
    s.machineSweep = State.ask (.machine e.ring) { s with
      link := { s.link with sweepPos := (slot + 1) % 256 } } := by
  unfold State.machineSweep
  rw [finds, clash]
  rfl

theorem exec_machineSweep_idle (s : State) (h : s.link.sweepDue = none) : exec .machineSweep s = .next s := by
  show execMachineSweep s = _
  simp only [execMachineSweep, h]

/-- The part at a machine sweep, with the next one set. -/
def State.machineSwept (due : Nat) (s : State) : State :=
  { s with now := max s.now due, link := { s.link with sweepDue := some (due + s.sweepPeriod * 1000000) } }

theorem exec_machineSweep_due (due : Nat) (s : State) (h : s.link.sweepDue = some due) :
    exec .machineSweep s = .next (s.machineSwept due).machineSweep := by
  show execMachineSweep s = _
  simp only [execMachineSweep, h]
  rfl

/-- Settles O59, period by period. -/
theorem linkPeriodsRun : Obligations.LinkPeriodsRun := by
  unfold Obligations.LinkPeriodsRun
  refine fun due s => ⟨fun i p => exec_stalenessExpiry_fresh i p s, fun i => exec_stalenessExpiry_absent i s,
    fun timer => ⟨fun clash => ?_, fun clash => ?_⟩,
    fun timer => ⟨fun clash => ?_, fun clash idle => ?_, fun slot e clash inv listed wants nearest inTable => ?_⟩⟩
  · rw [exec_stockSweep_due due s timer, if_pos clash]
    rfl
  · rw [exec_stockSweep_due due s timer, clash]
    rfl
  all_goals rw [exec_machineSweep_due due s timer]
  · rw [State.machineSweep_clash (s.machineSwept due) clash]
    rfl
  · rw [State.machineSweep_none (s.machineSwept due)]
    · rfl
    · refine State.sweepFinds_none _ fun p hp => Bool.eq_false_iff.mpr fun hit => idle p hp ?_
      exact (s.sweepable_iff p.1 p.2).mp hit
  · have finds := (s.machineSwept due).sweepFinds_nearest slot e (inv.of_table rfl) listed
      ((s.sweepable_iff slot e).mpr wants)
      (fun p hp hit => nearest p hp ((s.sweepable_iff p.1 p.2).mp hit)) inTable
    exact congrArg _ ((s.machineSwept due).machineSweep_asks slot e clash finds)

end Sys2Proof.Machine
end

section
/-! The checks of a received frame: length and CRC, kind, site code and station (10, R154 to R156). -/

namespace Sys2Proof.Machine

/-! ## Check 1 (R155) -/

theorem RxFrame.passes_iff (f : RxFrame) :
    let length := (f.kept.getD 0 0).toNat
    f.passes = true ↔ f.count = length ∧ (length = 18 ∨ length = 22) ∧
      (crc16 (f.kept.take (length - 2))).toNat = fieldAt f.kept (length - 2) 2 := by
  simp [RxFrame.passes, fieldAt, and_assoc]

/-! ## Check 2 (R154, R156) -/

theorem noticeBody_machine (l : List Byte) (day : BitVec 16) (ring : BitVec 24) (tally reserved : Nat) :
    noticeBody l = some (.machine day ring tally reserved) ↔
      l.length = 22 ∧ fieldAt l 1 1 = 1 ∧ day = BitVec.ofNat 16 (fieldAt l 7 2) ∧
      ring = BitVec.ofNat 24 (fieldAt l 9 3) ∧ tally = fieldAt l 12 4 ∧ reserved = fieldAt l 16 4 := by
  unfold noticeBody
  constructor
  · intro h
    dsimp only at h
    split_ifs at h with kind
    · cases h
      exact ⟨kind.2, kind.1, rfl, rfl, rfl, rfl⟩
    · cases h
  · rintro ⟨length, kind, rfl, rfl, rfl, rfl⟩
    exact if_pos ⟨kind, length⟩

/-- The code of a restock state in two bits (R172). -/
theorem RestockState.ofCode_code (r : RestockState) : RestockState.ofCode r.code = r := by
  cases r <;> rfl

theorem RestockState.code_le (r : RestockState) : r.code ≤ 3 := by
  cases r <;> decide

theorem RestockState.code_ofCode (n : Nat) (h : n ≤ 3) : (RestockState.ofCode n).code = n := by
  interval_cases n <;> rfl

/-- The byte that holds the restock state in bits 0 to 6 and the yield flag in bit 7. -/
theorem stockFlags_iff (b : Byte) (r : RestockState) (yielding : Bool) :
    (b.toNat % 128 ≤ 3 ∧ r = RestockState.ofCode (b.toNat % 4) ∧ yielding = decide (128 ≤ b.toNat)) ↔
      r.code = (b.extractLsb' 0 7).toNat ∧ yielding = b.getLsbD 7 := by
  have low : (b.extractLsb' 0 7).toNat = b.toNat % 128 := by
    rw [BitVec.extractLsb'_toNat, Nat.shiftRight_zero]
  have high : b.getLsbD 7 = decide (128 ≤ b.toNat) := by
    rw [← BitVec.msb_eq_getLsbD_last b, BitVec.msb_eq_decide]
  rw [low, high, ← and_assoc]
  refine and_congr_left fun _ => ⟨?_, fun code => ?_⟩
  · rintro ⟨small, rfl⟩
    rw [RestockState.code_ofCode _ (by omega)]
    omega
  · have small := r.code_le
    refine ⟨by omega, ?_⟩
    rw [show b.toNat % 4 = r.code by omega, RestockState.ofCode_code]

theorem fieldAt_one (l : List Byte) (i : Nat) (h : i < l.length) : fieldAt l i 1 = (l.getD i 0).toNat := by
  simp [fieldAt, List.take_one, ofBytes, List.head?_drop, h]

theorem noticeBody_stock (l : List Byte) (y : PeerStock) :
    noticeBody l = some (.stock y) ↔
      l.length = 18 ∧ fieldAt l 1 1 = 2 ∧ y.state.code = ((l.getD 9 0).extractLsb' 0 7).toNat ∧
      y.yielding = (l.getD 9 0).getLsbD 7 ∧ y.key = fieldAt l 10 2 ∧ y.key ≤ 1000 ∧
      y.book0 = BitVec.ofNat 16 (fieldAt l 12 2) ∧ y.book1 = BitVec.ofNat 16 (fieldAt l 14 2) := by
  have flags := stockFlags_iff (l.getD 9 0) y.state y.yielding
  constructor
  · intro h
    unfold noticeBody at h
    dsimp only at h
    split_ifs at h with machine stock range
    · cases h
    · cases h
      obtain ⟨kind, length⟩ := stock
      rw [fieldAt_one l 9 (by omega)] at flags range ⊢
      obtain ⟨code, yields⟩ := flags.mp ⟨range.1, rfl, rfl⟩
      exact ⟨length, kind, code, yields, rfl, range.2, rfl, rfl⟩
  · rintro ⟨length, kind, code, yields, key, small, book0, book1⟩
    obtain ⟨codes, state, yielding⟩ := flags.mpr ⟨code, yields⟩
    rw [← fieldAt_one l 9 (by omega)] at codes state yielding
    have notMachine : ¬ (fieldAt l 1 1 = 1 ∧ l.length = 22) := by omega
    unfold noticeBody
    dsimp only
    rw [if_neg notMachine, if_pos ⟨kind, length⟩, if_pos ⟨codes, key ▸ small⟩, ← state, ← yielding, ← key, ← book0,
      ← book1]

/-! ## Checks 3 and 4 (R156) -/

/-- The bits compared are those not set in the mask. -/
theorem masked_eq_iff (code own other : BitVec 16) :
    (code ^^^ own) &&& ~~~other = 0 ↔ ∀ i < 16, other.getLsbD i = false → code.getLsbD i = own.getLsbD i := by
  constructor
  · intro h i hi off
    have bit := congrArg (fun x : BitVec 16 => x.getLsbD i) h
    simp only [BitVec.getLsbD_and, BitVec.getLsbD_xor, BitVec.getLsbD_not, off, hi, decide_true, Bool.not_false,
      Bool.and_self, Bool.and_true] at bit
    simpa using bit
  · intro h
    apply BitVec.eq_of_getLsbD_eq
    intro i hi
    cases off : other.getLsbD i with
    | true => simp [off]
    | false => simp [off, h i hi off]

theorem State.siteMatches_iff (code : Nat) (s : State) :
    s.siteMatches code = true ↔ (s.siteMode = 0 → code = s.site) ∧
      (s.siteMode = 1 → ∀ i < 16, (BitVec.ofNat 16 s.site2).getLsbD i = false →
        (BitVec.ofNat 16 code).getLsbD i = (BitVec.ofNat 16 s.site).getLsbD i) ∧
      (2 ≤ s.siteMode → code = s.site ∨ code = s.site2) := by
  unfold State.siteMatches
  rw [← masked_eq_iff]
  split
  · rename_i mode
    simp [mode]
  · rename_i mode
    simp [mode]
  · rename_i not0 not1
    have two : 2 ≤ s.siteMode := (Nat.two_le_iff _).mpr ⟨not0, not1⟩
    rw [and_iff_right (absurd · not0), and_iff_right (absurd · not1), forall_prop_of_true two]
    simp

theorem State.acceptNotice_iff (l : List Byte) (x : Notice) (s : State) :
    s.acceptNotice l = some x ↔ noticeBody l = some x.body ∧ x.site = fieldAt l 2 2 ∧
      x.station = fieldAt l 4 1 ∧ x.seq = BitVec.ofNat 16 (fieldAt l 5 2) ∧ s.siteMatches x.site = true ∧
      1 ≤ x.station ∧ x.station ≤ 16 := by
  obtain ⟨site, station, seq, body⟩ := x
  unfold State.acceptNotice
  cases own : noticeBody l with
  | none => simp
  | some b =>
    dsimp only
    constructor
    · intro h
      split_ifs at h with checks
      cases h
      exact ⟨rfl, rfl, rfl, rfl, checks⟩
    · rintro ⟨same, rfl, rfl, rfl, checks⟩
      cases same
      exact if_pos checks

end Sys2Proof.Machine
end

section
/-! A notice of the own number and of a peer, and the carrier release that completes a frame (10, R149, R155 to R158;
02, R32). -/

namespace Sys2Proof.Machine

theorem count16_eq (x : Nat) : count16 x = min 65535 (x + 1) := hold_eq 65535 (x + 1)

/-! ## The own number (R157) -/

theorem State.notice_own (x : Notice) (s : State) (own : x.station = s.station) : s.notice x = s.clash x.seq :=
  if_pos own

theorem State.clash_latched (seq : BitVec 16) (s : State) (latched : s.link.clash = true) : s.clash seq = s :=
  if_pos latched

theorem State.clash_latches (seq : BitVec 16) (s : State) (clear : s.link.clash = false) :
    s.clash seq = State.post .stationClash (.station s.station) seq.toNat
      { s with link := { s.link with clash := true, backoff := none } } :=
  if_neg (ne_true_of_eq_false clear)

/-! ## A peer's notice (R158) -/

/-- A sequence is not newer when it is equal or half the cycle or more ahead. -/
theorem newer_eq_false (new old : BitVec 16) : newer new old = false ↔ new = old ∨ 32768 ≤ (new - old).toNat := by
  have zero : (new - old).toNat = 0 ↔ new = old := by
    rw [← BitVec.toNat_zero (w := 16), BitVec.toNat_inj]
    exact sub_eq_zero
  rw [← zero]
  simp only [newer, Bool.and_eq_false_iff, decide_eq_false_iff_not]
  omega

/-- A notice is stale against what a slot holds. -/
def staleAgainst (seq : BitVec 16) (old : Option Peer) : Prop :=
  ∃ p : Peer, old = some p ∧ (seq = p.lastSeq ∨ 32768 ≤ (seq - p.lastSeq).toNat)

theorem State.notice_peer (x : Notice) (s : State) (other : x.station ≠ s.station) : s.notice x = s.peerNotice x :=
  if_neg other

/-- The slot of a station's number. -/
theorem stationSlot (station : Nat) (i : StationId) (h : station = i.val + 1) :
    (Fin.ofNat 16 (station - 1) : StationId) = i := by
  rw [h, Nat.add_sub_cancel]
  exact Fin.ofNat_val_eq_self i

section
variable (x : Notice) (i : StationId) (s : State) (station : x.station = i.val + 1) (other : x.station ≠ s.station)
include station other

theorem State.notice_stale (stale : staleAgainst x.seq s.link.peers[i]) :
    s.notice x = { s with link := { s.link with seqDiscards := min 65535 (s.link.seqDiscards + 1) } } := by
  obtain ⟨p, old, seq⟩ := stale
  rw [s.notice_peer x other]
  unfold State.peerNotice
  simp only [stationSlot _ i station, old, (newer_eq_false _ _).mpr seq, Bool.false_eq_true, if_false, count16_eq]

theorem State.notice_accepted (fresh : ¬ staleAgainst x.seq s.link.peers[i]) :
    s.notice x = State.dispatchNotice i x.body { s with link := { s.link with
      peers := s.link.peers.set i (some (s.peerAfter s.link.peers[i] x)) } } := by
  rw [s.notice_peer x other]
  unfold State.peerNotice
  simp only [stationSlot _ i station]
  refine if_pos ?_
  cases old : s.link.peers[i] with
  | none => rfl
  | some p => exact Bool.of_not_eq_false fun stale => fresh ⟨p, old, (newer_eq_false _ _).mp stale⟩

end

/-- The merge of another day's notice, or of a ring ID no entry holds, changes nothing (R32). -/
theorem State.mergeMachine_ignored (i : StationId) (day : BitVec 16) (ring : BitVec 24) (tally reserved : Nat)
    (s : State) (h : day ≠ s.table.day ∨ s.entryOfRing ring = none) :
    s.mergeMachine i day ring tally reserved = s := by
  unfold State.mergeMachine
  by_cases today : day = s.table.day
  · rw [if_neg (not_not.mpr today), h.resolve_left (not_not.mpr today)]
  · exact if_pos today

theorem State.mergeMachine_merges (i : StationId) (day : BitVec 16) (ring : BitVec 24) (tally reserved : Nat)
    (slot : Nat) (e : Entry) (s : State) (today : day = s.table.day) (entry : s.entryOfRing ring = some (slot, e)) :
    s.mergeMachine i day ring tally reserved = s.putEntry slot { e with
      tally := e.tally.set i tally
      heard := e.heard.set i
        (if reserved = 0 then none else some { ml := reserved, expiry := s.now / 1000000 + s.resTtl }) } := by
  unfold State.mergeMachine
  rw [if_neg (not_not.mpr today), entry]
  rfl

/-! ## The frame completed and checked (R155, R156) -/

theorem State.completeFrame_none (s : State) (rx : s.link.rx = none) : s.completeFrame = s := by
  unfold State.completeFrame
  rw [rx]

theorem State.completeFrame_some (f : RxFrame) (s : State) (rx : s.link.rx = some f) :
    s.completeFrame = State.checkFrame f { s with link := { s.link with rx := none } } := by
  unfold State.completeFrame
  rw [rx]

theorem State.checkFrame_empty (f : RxFrame) (s : State) (empty : f.count = 0) : s.checkFrame f = s := if_pos empty

theorem State.checkFrame_unsound (f : RxFrame) (s : State) (filled : f.count ≠ 0) (unsound : ¬ f.passes = true) :
    s.checkFrame f = { s with link := { s.link with rxErrors := min 65535 (s.link.rxErrors + 1) } } := by
  rw [← count16_eq]
  exact (if_neg filled).trans (if_neg unsound)

theorem State.checkFrame_rejected (f : RxFrame) (s : State) (filled : f.count ≠ 0) (sound : f.passes = true)
    (rejected : s.acceptNotice (f.kept.take f.count) = none) :
    s.checkFrame f = { s with link := { s.link with rxRejects := min 65535 (s.link.rxRejects + 1) } } := by
  rw [← count16_eq]
  unfold State.checkFrame
  rw [if_neg filled, if_pos sound, rejected]

theorem State.checkFrame_accepted (f : RxFrame) (x : Notice) (s : State) (filled : f.count ≠ 0)
    (sound : f.passes = true) (accepted : s.acceptNotice (f.kept.take f.count) = some x) :
    s.checkFrame f = s.notice x := by
  unfold State.checkFrame
  rw [if_neg filled, if_pos sound, accepted]

/-! ## The carrier release (R149) -/

theorem State.carrierEnds_unknown (s : State) (st : s.link.state = .unknown) :
    s.carrierEnds = { s with link := { s.link with jam := none, quiet := some (s.now / 1000 + s.linkQuiet) } } := by
  unfold State.carrierEnds
  rw [st]
  rfl

theorem State.carrierEnds_busy (s : State) (st : s.link.state = .busy) :
    s.carrierEnds = State.draw { s with link := { s.link with state := .idle, jam := none } } := by
  unfold State.carrierEnds
  rw [st]
  rfl

theorem State.carrierEnds_jammed (s : State) (st : s.link.state = .jammed) :
    s.carrierEnds = State.draw { s with link := { s.link with state := .idle } } := by
  unfold State.carrierEnds
  rw [st]
  rfl

theorem State.carrierEnds_still (s : State) (st : s.link.state = .idle ∨ s.link.state = .sending) :
    s.carrierEnds = s := by
  unfold State.carrierEnds
  rcases st with st | st <;> rw [st]

/-- The part with the carrier line released. -/
def State.carrierLow (s : State) : State := { s with pins := { s.pins with lcd := false } }

theorem exec_carrierRelease_deaf (s : State) (deaf : s.isSealed = false ∨ s.link.state = .sending) :
    exec .carrierRelease s = .next s.carrierLow := by
  refine congrArg _ (if_neg ?_)
  rintro ⟨on, st⟩
  rcases deaf with off | sending
  · exact absurd (on.symm.trans off) nofun
  · exact st sending

theorem exec_carrierRelease_heard (s : State) (on : s.isSealed = true) (st : s.link.state ≠ .sending) :
    exec .carrierRelease s = .next s.carrierLow.completeFrame.carrierEnds :=
  congrArg _ (if_pos ⟨on, st⟩)

/-- Settles O58: the frame by the check it fails, a notice by its fields, and an accepted one by its station and
kind. -/
theorem carrierReleaseChecksFrame : Obligations.CarrierReleaseChecksFrame := by
  unfold Obligations.CarrierReleaseChecksFrame
  refine ⟨fun s => ?_, fun l x s => ?_, fun x s => ⟨fun own latched => ?_, fun own clear => ?_,
    fun i station other => ?_⟩⟩
  · intro low ended
    have ends (u : State) (st : u.link.state = s.link.state) (now : u.now = s.now) (config : u.config = s.config) :
        u.carrierEnds = ended u := by
      have quiet : u.linkQuiet = s.linkQuiet := by simp only [State.linkQuiet, State.itemNat, State.item, config]
      unfold ended
      cases own : s.link.state with
      | unknown => rw [u.carrierEnds_unknown (st.trans own), now, quiet]
      | busy => exact u.carrierEnds_busy (st.trans own)
      | jammed => exact u.carrierEnds_jammed (st.trans own)
      | idle => exact u.carrierEnds_still (Or.inl (st.trans own))
      | sending => exact u.carrierEnds_still (Or.inr (st.trans own))
    refine ⟨exec_carrierRelease_deaf s, fun on st => ⟨fun rx => ?_, fun f rx => ?_⟩⟩
    · rw [exec_carrierRelease_heard s on st, State.completeFrame_none s.carrierLow rx]
      exact congrArg _ (ends low rfl rfl rfl)
    · intro done length sound
      have passes : f.passes = true ↔ sound := f.passes_iff
      have heard : exec .carrierRelease s = .next (done.checkFrame f).carrierEnds := by
        rw [exec_carrierRelease_heard s on st, State.completeFrame_some f s.carrierLow rx]
        rfl
      refine ⟨fun empty => ?_, fun filled unsound => ?_, fun filled holds rejected => ?_,
        fun x filled holds accepted => ?_⟩
      · rw [heard, State.checkFrame_empty f done empty]
        exact congrArg _ (ends done rfl rfl rfl)
      · rw [heard, State.checkFrame_unsound f done filled (mt passes.mp unsound)]
        exact congrArg _ (ends _ rfl rfl rfl)
      · rw [heard, State.checkFrame_rejected f done filled (passes.mpr holds) rejected]
        exact congrArg _ (ends _ rfl rfl rfl)
      · rw [heard, State.checkFrame_accepted f x done filled (passes.mpr holds) accepted]
  · intro own other code flags
    rw [State.acceptNotice_iff, State.siteMatches_iff]
    obtain ⟨site, station, seq, body⟩ := x
    cases body with
    | machine day ring tally reserved =>
      rw [noticeBody_machine]
      tauto
    | stock y =>
      rw [noticeBody_stock]
      tauto
  · rw [s.notice_own x own, s.clash_latched x.seq latched]
  · rw [s.notice_own x own, s.clash_latches x.seq clear]
  · intro old stale peer
    refine ⟨s.notice_stale x i station other, fun y fresh body => ?_, fun day ring tally reserved fresh body => ?_⟩
    · rw [s.notice_accepted x i station other fresh, State.peerAfter, body]
      rfl
    · intro kept
      have accepted : s.notice x = State.mergeMachine i day ring tally reserved kept := by
        rw [s.notice_accepted x i station other fresh, State.peerAfter, body]
        rfl
      refine ⟨fun ignored => accepted.trans (kept.mergeMachine_ignored i day ring tally reserved ignored),
        fun slot e today entry => ?_⟩
      intro heard merged
      rw [accepted, kept.mergeMachine_merges i day ring tally reserved slot e today entry]
      exact ⟨_, rfl, fun j => Sparse.find?_insert _ slot j _⟩

end Sys2Proof.Machine
end

section
/-! What LinkInv reads of the part, and the operations that ask for subjects keep it (10, R150 to R152; 02, R31; 03,
R41, R42, R53; 09, R128, R142, R144). -/

namespace Sys2Proof.Machine

/-! ## What LinkInv reads -/

/-- The link without the items LinkInv does not speak of: the notice counter, the peers, the sweeps and the counts. -/
def Link.governed (l : Link) : Link :=
  { l with
    noticeSeq := 0, noticeCrc := 0, peers := Vector.replicate 16 none, sweepPos := 0, sweepDue := none,
    stockDue := none, rxErrors := 0, rxRejects := 0, seqDiscards := 0 }

/-- The items of the part that LinkInv speaks of. -/
def State.linked (s : State) : Link × Bool := (s.link.governed, s.isSealed)

theorem LinkInv.of_linked {s t : State} (inv : LinkInv s) (h : t.linked = s.linked) : LinkInv t := by
  obtain ⟨link, on⟩ := Prod.mk.inj h
  have state : t.link.state = s.link.state := (congrArg Link.state link :)
  have quiet : t.link.quiet = s.link.quiet := (congrArg Link.quiet link :)
  have jam : t.link.jam = s.link.jam := (congrArg Link.jam link :)
  have queue : t.link.queue = s.link.queue := (congrArg Link.queue link :)
  have backoff : t.link.backoff = s.link.backoff := (congrArg Link.backoff link :)
  have deferrals : t.link.deferrals = s.link.deferrals := (congrArg Link.deferrals link :)
  have gen : t.link.gen = s.link.gen := (congrArg Link.gen link :)
  have clash : t.link.clash = s.link.clash := (congrArg Link.clash link :)
  have rx : t.link.rx = s.link.rx := (congrArg Link.rx link :)
  have tx : t.link.tx = s.link.tx := (congrArg Link.tx link :)
  refine ⟨?_, ?_, ?_, ?_, ?_, ?_, ?_, ?_, ?_⟩
  · rw [queue]; exact inv.room
  · rw [queue]; exact inv.once
  · rw [deferrals]; exact inv.deferrals
  · rw [gen]; exact inv.generator
  · rw [backoff, state, clash, queue]; exact inv.backoff
  · rw [jam, state]; exact inv.jam
  · rw [quiet, state, jam]; exact inv.quiet
  · rw [tx, state]; exact inv.sending
  · rw [on, state, jam, quiet, rx]; exact inv.asleep

theorem State.endWindow_linked (n : HoseId) (s : State) : (s.endWindow n).linked = s.linked := by
  simp [State.linked]

theorem State.strayEpisode_linked (m : MeterId) (kind : EventKind) (subject : EventSubject) (c : Int) (s : State) :
    (s.strayEpisode m kind subject c).linked = s.linked := by
  simp [State.linked]

/-! ## Subjects and draws (R150 to R152) -/

/-- A subject that does not wait joins a queue with room. -/
theorem LinkInv.join {s : State} (inv : LinkInv s) (sub : Subject) (new : sub ∉ s.link.queue)
    (room : s.link.queue.length < Config.subjectRoom) :
    LinkInv { s with link := { s.link with queue := s.link.queue ++ [sub] } } := by
  refine ⟨?_, List.concat_eq_append ▸ inv.once.concat new, inv.deferrals, inv.generator, fun h => ?_, inv.jam,
    inv.quiet, inv.sending, inv.asleep⟩
  · show (s.link.queue ++ [sub]).length ≤ Config.subjectRoom
    rw [List.length_append]
    exact room
  · obtain ⟨idle, clear, -⟩ := inv.backoff h
    exact ⟨idle, clear, by simp⟩

theorem LinkInv.draw {s : State} (inv : LinkInv s) : LinkInv s.draw := by
  rcases s.draw_cases with e | ⟨g, idle, queue, clear, -, gen, e⟩ <;> rw [e]
  · exact inv
  · have seeded : g ≠ 0 := fun zero => inv.generator (gen.trans (congrArg some zero))
    have stepped : some (genStep g) ≠ some 0 := fun zero => genStep_ne_zero g seeded (Option.some.inj zero)
    exact ⟨inv.room, inv.once, inv.deferrals, stepped, fun _ => ⟨idle, clear, queue⟩, inv.jam, inv.quiet,
      inv.sending, inv.asleep⟩

theorem LinkInv.ask {s : State} (inv : LinkInv s) (sub : Subject) : LinkInv (s.ask sub) := by
  rcases s.ask_cases sub with ⟨-, e⟩ | ⟨-, -, e⟩ | ⟨new, room, e⟩ <;> rw [e]
  · exact inv
  · exact inv.of_linked (by simp [State.linked])
  · exact (inv.join sub new room).draw

theorem LinkInv.post {s : State} (inv : LinkInv s) (kind : EventKind) (subject : EventSubject) (value : Int) :
    LinkInv (s.post kind subject value) := inv.of_linked (by simp [State.linked])

/-! ## The books and the restock state (R128, R142, R144) -/

section
variable {s : State} (inv : LinkInv s)
include inv

theorem LinkInv.setRestock (r : RestockState) : LinkInv (s.setRestock r) := by
  unfold State.setRestock
  split_ifs
  · exact inv
  · exact (LinkInv.ask (s := { s with stock := { s.stock with restock := r } }) (inv.of_linked rfl) .stock).post _ _ _

theorem LinkInv.evaluateRestock : LinkInv s.evaluateRestock :=
  LinkInv.setRestock (s := { s with stock := { s.stock with goHold := s.holdAfter s.evaluated } }) (inv.of_linked rfl) _

theorem LinkInv.highLevelTest (k : CompId) : LinkInv (s.highLevelTest k) := inv.of_linked (by simp [State.linked])

theorem LinkInv.append (r : Record) (holder : Option Holder) : LinkInv (s.append r holder) :=
  inv.of_linked (by simp [State.linked])

theorem LinkInv.changeBook (k : CompId) (d : Int) : LinkInv (s.changeBook k d) :=
  (LinkInv.evaluateRestock (s := s.adjustBook k d) (inv.of_linked rfl)).highLevelTest k

theorem LinkInv.setStock (k : CompId) (v : Int) : LinkInv (s.setStock k v) := by
  unfold State.setStock
  extract_lets appended put _ cleared
  have appends : LinkInv appended := inv.append _ none
  have clears : LinkInv cleared := appends.of_linked rfl
  exact clears.setRestock _

theorem LinkInv.closeReceipt (x : Session) : LinkInv (s.closeReceipt x) := by
  unfold State.closeReceipt
  extract_lets r seq booked _ ended posted
  have books : LinkInv booked := (inv.append r _).changeBook x.comp r.net
  have ends : LinkInv ended := books.of_linked rfl
  exact (ends.post _ _ _).setRestock _

theorem LinkInv.credit (ring : BitVec 24) (net : Int) : LinkInv (s.credit ring net) := by
  unfold State.credit
  split
  · exact inv
  · refine LinkInv.ask ?_ _
    exact inv.of_linked rfl

/-! ## A hose armed, cancelled and stopped (R41, R42, R50, R55) -/

theorem LinkInv.arm (n : HoseId) (i : Ident) (granted : Nat) : LinkInv (s.arm n i granted) := by
  refine LinkInv.ask ?_ _
  exact inv.of_linked rfl

theorem LinkInv.toRest (n : HoseId) : LinkInv (s.toRest n) := inv.of_linked rfl

theorem LinkInv.cancel (n : HoseId) : LinkInv (s.cancel n) := by
  have disarmed : LinkInv (s.disarm n) := LinkInv.ask (s := s.setReserved (holderOf n) false) (inv.of_linked rfl) _
  unfold State.cancel
  split_ifs
  · exact disarmed.toRest n
  · exact inv.toRest n

theorem LinkInv.enterSettling (n : HoseId) (cause : EndCause) : LinkInv (s.enterSettling n cause) :=
  inv.of_linked (by simp [State.linked])

theorem LinkInv.unseat (n : HoseId) : LinkInv (s.unseat n) := by
  unfold State.unseat
  split
  · exact inv
  · exact inv
  · exact inv
  · exact inv.of_linked rfl
  · exact inv.cancel n
  · exact inv.cancel n
  · exact inv.cancel n
  · exact inv.enterSettling n _
  · exact inv.enterSettling n _
  · exact inv.enterSettling n _
  · exact inv.toRest n

theorem LinkInv.stopHose (n : HoseId) : LinkInv (s.stopHose n) := by
  unfold State.stopHose
  split
  · exact inv
  · exact inv
  · exact inv
  · exact inv
  · exact inv.of_linked rfl
  · exact inv.cancel n
  · exact inv.cancel n
  · exact inv.cancel n
  · exact inv.enterSettling n _
  · exact inv.enterSettling n _
  · exact inv.enterSettling n _

theorem LinkInv.stopAll (cause : EndCause) : LinkInv (s.stopAll cause) := by
  have stopped : LinkInv (s.forEach allComps State.stopPump) :=
    State.forEach_keeps LinkInv _ _ s (fun k _ u inv => inv.of_linked (by simp [State.linked])) inv
  have settled := State.forEach_keeps LinkInv s.activeHoses (fun n => State.enterSettling n cause) _
    (fun n _ u inv => inv.enterSettling n cause) stopped
  exact State.forEach_keeps LinkInv s.cancellable State.cancel _ (fun n _ u inv => inv.cancel n) settled

theorem LinkInv.emergencyStop : LinkInv s.emergencyStop :=
  (LinkInv.stopAll (s := { s with estopLatch := true }) (inv.of_linked rfl) .estop).post _ _ _

theorem LinkInv.metrologyFault : LinkInv s.metrologyFault :=
  LinkInv.stopAll (LinkInv.post (s := { s with metroFault := true, scanDue := none }) (inv.of_linked rfl) _ _ _) _

/-! ## Windows (R46, R52, R53, R90, R92, R96, R137) -/

theorem LinkInv.closeDelivery (n : HoseId) : LinkInv (s.closeDelivery n) := by
  unfold State.closeDelivery
  extract_lets k r ring seq appended booked _ erased detached posted
  have books : LinkInv booked := ((inv.append r _).credit ring r.net).changeBook k (-r.net)
  have detaches : LinkInv detached := books.of_linked rfl
  exact (detaches.post _ _ _).toRest n

theorem LinkInv.settleWindow (n : HoseId) (c : Int) : LinkInv (s.settleWindow n c) := by
  obtain e | ⟨h, e | e⟩ := s.settleWindow_cases n c <;> rw [e]
  · exact inv
  · exact inv.of_linked rfl
  · exact LinkInv.closeDelivery (s := s.setHose n h) (inv.of_linked rfl) n

theorem LinkInv.stateWork (n : HoseId) (w : Window) (st : HoseState) : LinkInv (s.stateWork n w st) := by
  cases st with
  | settling => exact LinkInv.settleWindow (s := s.applyPending n) (inv.of_linked rfl) n w.count
  | flowing => exact inv.of_linked (by simp [State.stateWork, State.linked])
  | priming => exact inv.of_linked (by simp [State.stateWork, State.linked])
  | paused => exact inv.of_linked (by simp [State.stateWork, State.linked])
  | _ => exact inv

theorem LinkInv.deliveryWindow (n : HoseId) (w : Window) : LinkInv (s.deliveryWindow n w) := by
  have counted : LinkInv (s.setHose n (s.windowContext n w)) := inv.of_linked rfl
  unfold State.deliveryWindow
  refine LinkInv.of_linked ?_ (State.endWindow_linked n _)
  split
  · exact counted.stateWork n w _
  · exact counted.enterSettling n _
  · exact counted.stateWork n w _

theorem LinkInv.strayWindow (n : HoseId) (w : Window) : LinkInv (s.strayWindow n w) := by
  unfold State.strayWindow
  extract_lets m k a gross net residue ml _ noted booked
  have notes : LinkInv noted := inv.of_linked rfl
  refine LinkInv.of_linked ?_ (State.strayEpisode_linked m _ _ _ booked)
  unfold booked
  split_ifs
  · exact notes
  · exact notes.changeBook _ _

theorem LinkInv.accountStray (m : MeterId) (w : Window) : LinkInv (s.accountStray m w) := by
  unfold State.accountStray
  split
  · exact inv.strayWindow _ w
  · exact inv.of_linked (by simp [State.receiptStray, State.linked])

theorem LinkInv.receiptWindow (w : Window) : LinkInv (s.receiptWindow w) := by
  unfold State.receiptWindow
  split
  · exact inv
  · extract_lets x
    have written : LinkInv (s.putSession x) := inv.of_linked rfl
    split_ifs
    · exact (written.closeReceipt x).of_linked rfl
    · exact written.highLevelTest x.comp

theorem LinkInv.account (m : MeterId) (w : Window) : LinkInv (s.account m w) := by
  unfold State.account
  split
  · exact inv.accountStray m w
  · exact inv.deliveryWindow _ w
  · exact inv
  · exact inv.receiptWindow w

theorem LinkInv.windowRestart (m : MeterId) (owner : Attachment) : LinkInv (s.windowRestart m owner) := by
  have noted : LinkInv (s.noteRate m (s.windowOf m).rate) := inv.of_linked rfl
  exact (noted.accountStray m (s.windowOf m)).of_linked rfl

theorem LinkInv.startDelivery (n : HoseId) : LinkInv (s.startDelivery n) := by
  let u := s.setHose n { s.hoses[n] with armExpiry := none }
  have claimed : LinkInv (u.claim n) := inv.of_linked (by simp [u, State.linked])
  refine (claimed.windowRestart (meterOf n) .delivery).of_linked ?_
  unfold State.startDelivery
  dsimp only
  split_ifs <;> simp [u, State.linked]

theorem LinkInv.beginReceipt (k : CompId) : LinkInv (s.beginReceipt k) := by
  unfold State.beginReceipt
  extract_lets reserved restarted opened _ cleared
  have reserves : LinkInv reserved := inv.of_linked rfl
  have restarts : LinkInv restarted := reserves.windowRestart meterMR .receipt
  clear_value restarted
  have clears : LinkInv cleared := restarts.of_linked rfl
  exact (clears.setRestock _).highLevelTest k

end

end Sys2Proof.Machine
end

section
/-! The states, the expiries and the frames of the link keep LinkInv (10, R149 to R160). -/

namespace Sys2Proof.Machine

/-! ## What LinkInv says of a link's state -/

/-- What is said of a pending timer holds where none is pending. -/
theorem of_isSome_none {α : Type} {o : Option α} {P : Prop} (absent : o = none) (h : o.isSome = true) : P := by
  rw [absent] at h
  cases h

/-- What is said of the time before the seal holds of a sealed part. -/
theorem of_sealed_unsealed {b : Bool} {P : Prop} (on : b = true) (off : b = false) : P :=
  absurd (on.symm.trans off) nofun

section
variable {s : State} (inv : LinkInv s)
include inv

theorem LinkInv.on_of_awake (awake : s.link.state ≠ .unknown) : s.isSealed = true :=
  Bool.of_not_eq_false fun off => awake (inv.asleep off).1

theorem LinkInv.backoff_none (st : s.link.state ≠ .idle) : s.link.backoff = none :=
  Option.not_isSome_iff_eq_none.mp fun h => st (inv.backoff h).1

theorem LinkInv.jam_none (busy : s.link.state ≠ .busy) (unknown : s.link.state ≠ .unknown) : s.link.jam = none :=
  Option.not_isSome_iff_eq_none.mp fun h => (inv.jam h).elim busy unknown

theorem LinkInv.quiet_none (st : s.link.state ≠ .unknown) : s.link.quiet = none :=
  Option.not_isSome_iff_eq_none.mp fun h => st (inv.quiet h).1

theorem LinkInv.tx_none (st : s.link.state ≠ .sending) : s.link.tx = none :=
  Option.not_isSome_iff_eq_none.mp fun h => st (inv.sending h)

/-! ## A timer, a frame or the head removed -/

theorem LinkInv.dropBackoff : LinkInv { s with link := { s.link with backoff := none } } :=
  ⟨inv.room, inv.once, inv.deferrals, inv.generator, nofun, inv.jam, inv.quiet, inv.sending, inv.asleep⟩

theorem LinkInv.dropQuiet : LinkInv { s with link := { s.link with quiet := none } } :=
  ⟨inv.room, inv.once, inv.deferrals, inv.generator, inv.backoff, inv.jam, nofun, inv.sending, fun off =>
    have ⟨unknown, jam, _, rx⟩ := inv.asleep off
    ⟨unknown, jam, rfl, rx⟩⟩

theorem LinkInv.dropJam : LinkInv { s with link := { s.link with jam := none } } :=
  ⟨inv.room, inv.once, inv.deferrals, inv.generator, inv.backoff, nofun, fun h => ⟨(inv.quiet h).1, rfl⟩, inv.sending,
    fun off =>
      have ⟨unknown, _, quiet, rx⟩ := inv.asleep off
      ⟨unknown, rfl, quiet, rx⟩⟩

theorem LinkInv.dropTx : LinkInv { s with link := { s.link with tx := none } } :=
  ⟨inv.room, inv.once, inv.deferrals, inv.generator, inv.backoff, inv.jam, inv.quiet, nofun, inv.asleep⟩

theorem LinkInv.withRx (rx : Option RxFrame) (h : s.isSealed = true ∨ rx = none) :
    LinkInv { s with link := { s.link with rx } } :=
  ⟨inv.room, inv.once, inv.deferrals, inv.generator, inv.backoff, inv.jam, inv.quiet, inv.sending, fun off =>
    have ⟨unknown, jam, quiet, _⟩ := inv.asleep off
    ⟨unknown, jam, quiet, h.resolve_left (ne_true_of_eq_false off)⟩⟩

/-- The head leaves the queue, its deferrals with it, where no backoff is pending (R152). -/
theorem LinkInv.dropHead (sub : Subject) (rest : List Subject) (queue : s.link.queue = sub :: rest) :
    LinkInv { s with link := { s.link with backoff := none, queue := rest, deferrals := 0 } } := by
  have room : rest.length + 1 ≤ Config.subjectRoom := by
    have room := inv.room
    rwa [queue] at room
  have once := inv.once
  rw [queue] at once
  exact ⟨(Nat.le_succ _).trans room, once.of_cons, show 0 < deferralLimit by decide, inv.generator, nofun, inv.jam,
    inv.quiet, inv.sending, inv.asleep⟩

/-! ## The states of the channel (R149, R153) -/

section
variable (on : s.isSealed = true) (quiet : s.link.quiet = none) (jam : s.link.jam = none) (tx : s.link.tx = none)
  (backoff : s.link.backoff = none)

include on quiet jam tx in
theorem LinkInv.toIdle : LinkInv { s with link := { s.link with state := .idle } } :=
  ⟨inv.room, inv.once, inv.deferrals, inv.generator, fun h => ⟨rfl, (inv.backoff h).2⟩,
    of_isSome_none jam, of_isSome_none quiet,
    of_isSome_none tx, of_sealed_unsealed on⟩

include on quiet tx backoff in
theorem LinkInv.toBusy (expiry : Option Nat) (rx : Option RxFrame) :
    LinkInv { s with link := { s.link with state := .busy, jam := expiry, rx } } :=
  ⟨inv.room, inv.once, inv.deferrals, inv.generator, of_isSome_none backoff, fun _ => Or.inl rfl,
    of_isSome_none quiet, of_isSome_none tx, of_sealed_unsealed on⟩

include on quiet tx backoff in
theorem LinkInv.toJammed : LinkInv { s with link := { s.link with state := .jammed, jam := none } } :=
  ⟨inv.room, inv.once, inv.deferrals, inv.generator, of_isSome_none backoff, nofun, of_isSome_none quiet,
    of_isSome_none tx, of_sealed_unsealed on⟩

include on quiet jam backoff in
theorem LinkInv.toSending (frame : Option TxFrame) :
    LinkInv { s with link := { s.link with state := .sending, rx := none, tx := frame } } :=
  ⟨inv.room, inv.once, inv.deferrals, inv.generator, of_isSome_none backoff, of_isSome_none jam,
    of_isSome_none quiet, fun _ => rfl, of_sealed_unsealed on⟩

end

/-! ## The carrier (R149, R152) -/

section
variable (on : s.isSealed = true)

include on in
/-- A carrier heard in UNKNOWN. -/
theorem LinkInv.hears (unknown : s.link.state = .unknown) (expiry : Option Nat) (rx : Option RxFrame) :
    LinkInv { s with link := { s.link with quiet := none, jam := expiry, rx } } :=
  ⟨inv.room, inv.once, inv.deferrals, inv.generator, inv.backoff, fun _ => Or.inr unknown, nofun, inv.sending,
    of_sealed_unsealed on⟩

include on in
/-- The channel falls silent in UNKNOWN. -/
theorem LinkInv.waits (unknown : s.link.state = .unknown) (expiry : Option Nat) :
    LinkInv { s with link := { s.link with jam := none, quiet := expiry } } :=
  ⟨inv.room, inv.once, inv.deferrals, inv.generator, inv.backoff, nofun, fun _ => ⟨unknown, rfl⟩, inv.sending,
    of_sealed_unsealed on⟩

theorem LinkInv.countDeferral (below : s.link.deferrals + 1 < deferralLimit) :
    LinkInv { s with link := { s.link with backoff := none, deferrals := s.link.deferrals + 1 } } :=
  ⟨inv.room, inv.once, below, inv.generator, nofun, inv.jam, inv.quiet, inv.sending, inv.asleep⟩

theorem LinkInv.carrierIdle (idle : s.link.state = .idle) : LinkInv s.carrier := by
  have on := inv.on_of_awake (by rw [idle]; nofun)
  have quiet := inv.quiet_none (by rw [idle]; nofun)
  have tx := inv.tx_none (by rw [idle]; nofun)
  rw [s.carrier_idle idle]
  let busy : State := { s with link := { s.link with state := .busy, jam := s.jamAt, rx := some RxFrame.empty } }
  by_cases backoff : s.link.backoff = none
  · rw [busy.deferral_none backoff]
    exact inv.toBusy on quiet tx backoff _ _
  · rcases Nat.lt_or_eq_of_le (Nat.succ_le_of_lt inv.deferrals) with below | reached
    · rw [busy.deferral_counts backoff below]
      exact (inv.countDeferral below).toBusy on quiet tx rfl _ _
    · obtain ⟨-, -, waits⟩ := inv.backoff (Option.isSome_iff_ne_none.mpr backoff)
      obtain ⟨sub, rest, queue⟩ := List.exists_cons_of_ne_nil waits
      rw [busy.deferral_drops sub rest backoff reached queue]
      exact ((inv.dropHead sub rest queue).toBusy on quiet tx rfl _ _).post _ _ _

include on in
theorem LinkInv.carrier : LinkInv s.carrier := by
  cases st : s.link.state with
  | unknown =>
    rw [s.carrier_unknown st]
    exact inv.hears on st _ _
  | idle => exact inv.carrierIdle st
  | busy => rw [s.carrier_unheard (Or.inl st)]; exact inv
  | jammed => rw [s.carrier_unheard (Or.inr (Or.inl st))]; exact inv
  | sending => rw [s.carrier_unheard (Or.inr (Or.inr st))]; exact inv

include on in
theorem LinkInv.carrierEnds : LinkInv s.carrierEnds := by
  cases st : s.link.state with
  | unknown =>
    rw [s.carrierEnds_unknown st]
    exact inv.waits on st _
  | busy =>
    rw [s.carrierEnds_busy st]
    exact (inv.dropJam.toIdle on (inv.quiet_none (by rw [st]; nofun)) rfl (inv.tx_none (by rw [st]; nofun))).draw
  | jammed =>
    rw [s.carrierEnds_jammed st]
    exact (inv.toIdle on (inv.quiet_none (by rw [st]; nofun)) (inv.jam_none (by rw [st]; nofun) (by rw [st]; nofun))
      (inv.tx_none (by rw [st]; nofun))).draw
  | idle => rw [s.carrierEnds_still (Or.inl st)]; exact inv
  | sending => rw [s.carrierEnds_still (Or.inr st)]; exact inv

end

/-! ## Frames received (R155 to R158) -/

theorem LinkInv.clash (seq : BitVec 16) : LinkInv (s.clash seq) := by
  cases latch : s.link.clash with
  | true => rw [s.clash_latched seq latch]; exact inv
  | false =>
    rw [s.clash_latches seq latch]
    refine LinkInv.post ?_ _ _ _
    exact ⟨inv.room, inv.once, inv.deferrals, inv.generator, nofun, inv.jam, inv.quiet, inv.sending, inv.asleep⟩

theorem LinkInv.dispatchNotice (i : StationId) (body : NoticeBody) : LinkInv (s.dispatchNotice i body) := by
  cases body with
  | machine day ring tally reserved => exact inv.of_linked (by simp [State.dispatchNotice, State.linked])
  | stock x => exact inv.evaluateRestock

theorem LinkInv.peerNotice (x : Notice) : LinkInv (s.peerNotice x) := by
  unfold State.peerNotice
  dsimp only
  split_ifs
  · refine LinkInv.dispatchNotice ?_ _ _
    exact inv.of_linked rfl
  · exact inv.of_linked rfl

theorem LinkInv.notice (x : Notice) : LinkInv (s.notice x) := by
  unfold State.notice
  split_ifs
  · exact inv.clash x.seq
  · exact inv.peerNotice x

theorem LinkInv.checkFrame (f : RxFrame) : LinkInv (s.checkFrame f) := by
  unfold State.checkFrame
  split_ifs
  · exact inv
  · split
    · exact inv.of_linked rfl
    · exact inv.notice _
  · exact inv.of_linked rfl

theorem LinkInv.completeFrame : LinkInv s.completeFrame := by
  cases rx : s.link.rx with
  | none => rw [s.completeFrame_none rx]; exact inv
  | some f =>
    rw [s.completeFrame_some f rx]
    exact (inv.withRx none (Or.inr rfl)).checkFrame f

/-! ## Frames sent (R153) -/

theorem LinkInv.send (frame : List Byte) (idle : s.link.state = .idle) (backoff : s.link.backoff = none)
    (waits : s.link.queue ≠ []) : LinkInv (s.nextNotice.send frame) := by
  obtain ⟨sub, rest, queue⟩ := List.exists_cons_of_ne_nil waits
  have moved := (inv.dropHead sub rest queue).toSending (inv.on_of_awake (by rw [idle]; nofun))
    (inv.quiet_none (by rw [idle]; nofun)) (inv.jam_none (by rw [idle]; nofun) (by rw [idle]; nofun)) rfl
    (some { bytes := frame, due := s.now + frame.length * s.linkByte })
  rw [State.send_eq frame sub rest s queue]
  refine moved.of_linked ?_
  rw [State.linked, State.linked, Link.governed, Link.governed, backoff]

theorem LinkInv.transmit (idle : s.link.state = .idle) (backoff : s.link.backoff = none)
    (waits : s.link.queue ≠ []) : LinkInv s.transmit := by
  obtain ⟨sub, rest, queue⟩ := List.exists_cons_of_ne_nil waits
  cases sub with
  | stock =>
    rw [s.transmit_stock rest queue]
    exact inv.send _ idle backoff waits
  | machine ring =>
    cases entry : s.entryOfRing ring with
    | some p =>
      rw [s.transmit_machine ring rest p.1 p.2 queue entry]
      exact inv.send _ idle backoff waits
    | none =>
      rw [s.transmit_skips ring rest queue entry, s.popHead_eq _ rest queue]
      refine LinkInv.draw ((inv.dropHead _ rest queue).of_linked ?_)
      rw [State.linked, State.linked, Link.governed, Link.governed, backoff]

end

/-! ## The events of the link -/

section
variable {s t : State} (inv : LinkInv s)
include inv

theorem LinkInv.carrierEvent (h : exec .carrierEvent s = .next t) : LinkInv t := by
  have raised : LinkInv { s with pins := { s.pins with lcd := true } } := inv.of_linked rfl
  cases on : s.isSealed with
  | false => cases (exec_carrierEvent_unsealed s on).symm.trans h; exact raised
  | true => cases (exec_carrierEvent_sealed s on).symm.trans h; exact raised.carrier on

theorem LinkInv.carrierRelease (h : exec .carrierRelease s = .next t) : LinkInv t := by
  have low : LinkInv s.carrierLow := inv.of_linked rfl
  by_cases deaf : s.isSealed = false ∨ s.link.state = .sending
  · cases (exec_carrierRelease_deaf s deaf).symm.trans h
    exact low
  · rw [not_or, Bool.not_eq_false] at deaf
    obtain ⟨on, st⟩ := deaf
    cases (exec_carrierRelease_heard s on st).symm.trans h
    refine low.completeFrame.carrierEnds ?_
    have same : s.carrierLow.completeFrame.isSealed = s.carrierLow.isSealed := by simp
    exact same.trans on

theorem LinkInv.linkCharacter (c : Byte) (h : exec (.linkCharacter c) s = .next t) : LinkInv t := by
  cases rx : s.link.rx with
  | none => cases (exec_linkCharacter_dropped c s rx).symm.trans h; exact inv
  | some f =>
    cases (exec_linkCharacter_joins c f s rx).symm.trans h
    refine inv.withRx _ (Or.inl (Bool.of_not_eq_false fun off => ?_))
    obtain ⟨-, -, -, absent⟩ := inv.asleep off
    exact absurd (rx.symm.trans absent) nofun

theorem LinkInv.quietExpiry (h : exec .quietExpiry s = .next t) : LinkInv t := by
  cases timer : s.link.quiet with
  | none => cases (exec_quietExpiry_idle s timer).symm.trans h; exact inv
  | some due =>
    cases (exec_quietExpiry_due due s timer).symm.trans h
    have pending : s.link.quiet.isSome = true := by rw [timer]; rfl
    obtain ⟨unknown, jam⟩ := inv.quiet pending
    have on : s.isSealed = true := Bool.of_not_eq_false fun off => by
      obtain ⟨-, -, absent, -⟩ := inv.asleep off
      exact absurd (timer.symm.trans absent) nofun
    have idle := inv.dropQuiet.toIdle on rfl jam (inv.tx_none (by rw [unknown]; nofun))
    exact LinkInv.draw (idle.of_linked rfl)

theorem LinkInv.jamExpiry (h : exec .jamExpiry s = .next t) : LinkInv t := by
  cases timer : s.link.jam with
  | none => cases (exec_jamExpiry_idle s timer).symm.trans h; exact inv
  | some due =>
    cases (exec_jamExpiry_due due s timer).symm.trans h
    have pending : s.link.jam.isSome = true := by rw [timer]; rfl
    have on : s.isSealed = true := Bool.of_not_eq_false fun off => by
      obtain ⟨-, absent, -, -⟩ := inv.asleep off
      exact absurd (timer.symm.trans absent) nofun
    have quiet : s.link.quiet = none := Option.not_isSome_iff_eq_none.mp fun h =>
      absurd (timer.symm.trans (inv.quiet h).2) nofun
    have heard := inv.jam pending
    have tx := inv.tx_none (by rcases heard with e | e <;> rw [e] <;> nofun)
    have backoff := inv.backoff_none (by rcases heard with e | e <;> rw [e] <;> nofun)
    refine LinkInv.post ?_ _ _ _
    exact (inv.toJammed on quiet tx backoff).of_linked rfl

theorem LinkInv.backoffExpiry (h : exec .backoffExpiry s = .next t) : LinkInv t := by
  cases timer : s.link.backoff with
  | none => cases (exec_backoffExpiry_idle s timer).symm.trans h; exact inv
  | some due =>
    cases (exec_backoffExpiry_due due s timer).symm.trans h
    have pending : s.link.backoff.isSome = true := by rw [timer]; rfl
    obtain ⟨idle, -, waits⟩ := inv.backoff pending
    have taken : LinkInv (s.backedOff due) := inv.dropBackoff.of_linked rfl
    exact taken.transmit idle rfl waits

theorem LinkInv.endOfTransmission (h : exec .endOfTransmission s = .next t) : LinkInv t := by
  cases frame : s.link.tx with
  | none => cases (exec_endOfTransmission_idle s frame).symm.trans h; exact inv
  | some x =>
    have pending : s.link.tx.isSome = true := by rw [frame]; rfl
    have sending := inv.sending pending
    have on := inv.on_of_awake (by rw [sending]; nofun)
    have quiet := inv.quiet_none (by rw [sending]; nofun)
    cases lcd : s.pins.lcd with
    | false =>
      cases (exec_endOfTransmission_free x s frame lcd).symm.trans h
      have idle := inv.dropTx.toIdle on quiet (inv.jam_none (by rw [sending]; nofun) (by rw [sending]; nofun)) rfl
      exact LinkInv.draw (idle.of_linked rfl)
    | true =>
      cases (exec_endOfTransmission_carrier x s frame lcd).symm.trans h
      have busy := inv.dropTx.toBusy on quiet rfl (inv.backoff_none (by rw [sending]; nofun))
        (some (max s.now x.due / 1000 + s.linkJam)) (some { kept := [], count := 0 })
      exact busy.of_linked rfl

theorem LinkInv.stalenessExpiry (i : StationId) (h : exec (.stalenessExpiry i) s = .next t) : LinkInv t := by
  cases peer : s.link.peers[i] with
  | none => cases (exec_stalenessExpiry_absent i s peer).symm.trans h; exact inv
  | some p =>
    cases (exec_stalenessExpiry_fresh i p s peer).symm.trans h
    exact LinkInv.evaluateRestock (inv.of_linked rfl)

theorem LinkInv.stockSweep (h : exec .stockSweep s = .next t) : LinkInv t := by
  cases timer : s.link.stockDue with
  | none => cases (exec_stockSweep_idle s timer).symm.trans h; exact inv
  | some due =>
    cases (exec_stockSweep_due due s timer).symm.trans h
    have swept : LinkInv (s.stockSwept due) := inv.of_linked rfl
    split_ifs
    · exact swept
    · exact swept.ask .stock

theorem LinkInv.sweepMachines : LinkInv s.machineSweep := by
  unfold State.machineSweep
  split_ifs
  · exact inv
  · split
    · exact inv
    · refine LinkInv.ask ?_ _
      exact inv.of_linked rfl

theorem LinkInv.machineSweep (h : exec .machineSweep s = .next t) : LinkInv t := by
  cases timer : s.link.sweepDue with
  | none => cases (exec_machineSweep_idle s timer).symm.trans h; exact inv
  | some due =>
    cases (exec_machineSweep_due due s timer).symm.trans h
    exact LinkInv.sweepMachines (s := s.machineSwept due) (inv.of_linked rfl)

end

end Sys2Proof.Machine
end

section
/-! The seal and the restarts keep LinkInv (10, R147, R149, R151; 11, R162, R167). -/

namespace Sys2Proof.Machine

/-! ## The restart (R147, R162) -/

theorem LinkInv.restart (cause : Byte) (s : State) : LinkInv (s.restart cause) :=
  ⟨Nat.zero_le _, List.nodup_nil, show 0 < deferralLimit by decide, nofun, nofun, nofun, nofun, nofun,
    fun _ => ⟨rfl, rfl, rfl, rfl⟩⟩

/-! ## The state of the link under subjects asked for (R150) -/

theorem State.ask_state (sub : Subject) (s : State) : (s.ask sub).link.state = s.link.state := by
  rcases s.ask_cases sub with ⟨-, e⟩ | ⟨-, -, e⟩ | ⟨-, -, e⟩ <;> rw [e]
  · simp
  · rw [State.draw_state]

theorem State.credit_state (ring : BitVec 24) (net : Int) (s : State) :
    (s.credit ring net).link.state = s.link.state := by
  unfold State.credit
  split
  · rfl
  · exact State.ask_state _ _

theorem State.cancel_state (n : HoseId) (s : State) : (s.cancel n).link.state = s.link.state := by
  unfold State.cancel
  split_ifs
  · exact State.ask_state _ (s.setReserved (holderOf n) false)
  · rfl

theorem State.stopAll_state (cause : EndCause) (s : State) : (s.stopAll cause).link.state = s.link.state := by
  let settled := (s.forEach allComps State.stopPump).forEach s.activeHoses fun n => State.enterSettling n cause
  have cancels : (settled.forEach s.cancellable State.cancel).link.state = settled.link.state :=
    State.forEach_keep (fun u => u.link.state) State.cancel (fun n u => u.cancel_state n) _ _
  have settles : settled.link = (s.forEach allComps State.stopPump).link :=
    State.forEach_keep State.link _ (fun n u => by simp) _ _
  have stops : (s.forEach allComps State.stopPump).link = s.link :=
    State.forEach_keep State.link _ (fun k u => by simp) _ _
  exact cancels.trans (congrArg Link.state (settles.trans stops))

theorem State.stopAll_config (cause : EndCause) (s : State) : (s.stopAll cause).config = s.config := by
  simp [State.stopAll, State.forEach_keep State.config]

/-! ## The seal (R147, R149, R167) -/

theorem LinkInv.closeJournal {s : State} (inv : LinkInv s) (n : HoseId) : LinkInv (s.closeJournal n) := by
  unfold State.closeJournal
  split
  · exact inv
  · extract_lets d r seq appended booked _ erased
    have books : LinkInv booked := ((inv.append r _).credit d.ring r.net).of_linked rfl
    have erases : LinkInv erased := books.of_linked rfl
    exact erases.post _ _ _

theorem State.stopAll_isSealed (cause : EndCause) (s : State) : (s.stopAll cause).isSealed = s.isSealed := by
  simp [State.stopAll, State.forEach_keep State.isSealed]

/-- A part, sealed or not, whose link stands in UNKNOWN and whose STATION is in its range, as the seal finds it and
leaves it up to the start of the link. -/
structure LinkUnknown (on : Bool) (s : State) : Prop where
  inv : LinkInv s
  isSealed : s.isSealed = on
  unknown : s.link.state = .unknown
  station : 1 ≤ s.station ∧ s.station ≤ 16

theorem LinkUnknown.moved {on : Bool} {s t : State} (x : LinkUnknown on s) (inv : LinkInv t)
    (isSealed : t.isSealed = s.isSealed) (state : t.link.state = s.link.state) (config : t.config = s.config) :
    LinkUnknown on t := by
  have station : t.station = s.station := by simp only [State.station, State.itemNat, State.item, config]
  exact ⟨inv, isSealed.trans x.isSealed, state.trans x.unknown, station ▸ x.station⟩

/-- A change outside the link and the configuration. -/
theorem LinkUnknown.beside {on : Bool} {s t : State} (x : LinkUnknown on s) (isSealed : t.isSealed = s.isSealed)
    (link : t.link = s.link) (config : t.config = s.config) : LinkUnknown on t :=
  x.moved (x.inv.of_linked (by rw [State.linked, State.linked, link, isSealed])) isSealed (congrArg Link.state link)
    config

section
variable {on : Bool} {s : State} (x : LinkUnknown on s)
include x

theorem LinkUnknown.closeJournal (n : HoseId) : LinkUnknown on (s.closeJournal n) := by
  refine x.moved (x.inv.closeJournal n) ?_ ?_ ?_ <;> unfold State.closeJournal
  · split <;> simp
  · split
    · rfl
    · simp [State.credit_state]
  · split <;> simp

theorem LinkUnknown.closeReceiptJournal : LinkUnknown on s.closeReceiptJournal := by
  unfold State.closeReceiptJournal
  split
  · exact x
  · exact x.beside (by simp) (by simp) (by simp)

theorem LinkUnknown.emergencyStop : LinkUnknown on s.emergencyStop := by
  let latched : State := { s with estopLatch := true }
  have stops : LinkUnknown on (latched.stopAll .estop) :=
    x.moved (LinkInv.stopAll (s := latched) (x.inv.of_linked rfl) .estop) (latched.stopAll_isSealed .estop)
      (latched.stopAll_state .estop) (latched.stopAll_config .estop)
  exact stops.beside (by simp [State.emergencyStop, latched]) (by simp [State.emergencyStop, latched])
    (by simp [State.emergencyStop, latched])

theorem LinkUnknown.pumpFault (k : CompId) : LinkUnknown on (s.pumpFault k) := by
  rw [(s.pumpFault_faults k).frame]
  exact x.beside rfl rfl rfl

theorem LinkUnknown.startPump (k : CompId) : LinkUnknown on (s.startPump k) := by
  unfold State.startPump
  extract_lets _ started
  have starts : LinkUnknown on started := x.beside rfl rfl rfl
  split_ifs
  · exact starts.pumpFault k
  · exact starts

theorem LinkUnknown.startRestock : LinkUnknown on s.startRestock := by
  unfold State.startRestock
  extract_lets r _ asked
  have asks : LinkUnknown on asked := by
    refine x.moved (LinkInv.ask ?_ .stock) (by simp [asked]) (State.ask_state ..) (by simp [asked])
    exact x.inv.of_linked rfl
  split_ifs
  · exact asks.beside (by simp) (by simp) (by simp)
  · exact asks

omit x in
/-- The part is sealed at the first moment (R167). -/
theorem LinkUnknown.begins (x : LinkUnknown false s) : LinkUnknown true { s with isSealed := true, now := 0 } := by
  obtain ⟨room, once, deferrals, generator, backoff, jam, quiet, sending, -⟩ := x.inv
  exact ⟨⟨room, once, deferrals, generator, backoff, jam, quiet, sending, nofun⟩, rfl, x.unknown, x.station⟩

/-- The seed of the generator is not 0 for a station in its range (R147). -/
theorem LinkUnknown.seed_ne_zero : BitVec.ofNat 16 (s.station * 4097) ≠ 0 := by
  obtain ⟨lo, hi⟩ := x.station
  intro zero
  have zero : s.station * 4097 % 65536 = 0 := congrArg BitVec.toNat zero
  omega

omit x in
/-- The link starts in UNKNOWN with the one timer its carrier line asks for (R149). -/
theorem LinkUnknown.startLink (x : LinkUnknown true s) : LinkInv s.startLink := by
  have backoff := x.inv.backoff_none (by rw [x.unknown]; nofun)
  have tx := x.inv.tx_none (by rw [x.unknown]; nofun)
  refine ⟨x.inv.room, x.inv.once, x.inv.deferrals, fun zero => x.seed_ne_zero (Option.some.inj zero),
    of_isSome_none backoff, fun _ => Or.inr rfl, fun waits => ⟨rfl, ?_⟩, of_isSome_none tx,
    of_sealed_unsealed x.isSealed⟩
  show (if s.pins.lcd then s.jamAt else none) = none
  have waits : (if s.pins.lcd then none else some (s.nowMs + s.linkQuiet)).isSome = true := waits
  cases lcd : s.pins.lcd with
  | false => rfl
  | true => rw [lcd] at waits; cases waits

end

theorem LinkUnknown.complete {s : State} (x : LinkUnknown false s) : LinkInv s.complete := by
  unfold State.complete
  extract_lets closed sealed resting reading pumping stopped metered _ sampling linked _ due
  have began : LinkUnknown true sealed :=
    (State.forEach_keeps (LinkUnknown false) allHoses _ s (fun n _ u x => x.closeJournal n)
      x).closeReceiptJournal.begins
  clear_value closed sealed
  have rest : LinkUnknown true resting :=
    State.forEach_keeps (LinkUnknown true) allHoses _ sealed (fun n _ u x => x.beside rfl rfl rfl) began
  clear_value resting
  have read : LinkUnknown true reading :=
    State.forEach_keeps (LinkUnknown true) allHoses _ resting
      (fun n _ u x => x.beside (by simp [State.startReader]) (by simp [State.startReader])
        (by simp [State.startReader])) rest
  clear_value reading
  have pump : LinkUnknown true pumping :=
    State.forEach_keeps (LinkUnknown true) allComps _ reading (fun k _ u x => x.startPump k) read
  clear_value pumping
  have stop : LinkUnknown true stopped := by
    unfold stopped
    split_ifs
    · exact pump.emergencyStop
    · exact pump
  clear_value stopped
  have meter : LinkUnknown true sampling := stop.beside rfl rfl rfl
  clear_value sampling
  have link : LinkInv linked := meter.startRestock.startLink
  clear_value linked
  have timed : LinkInv due := link.of_linked rfl
  exact State.forEach_keeps LinkInv due.losses State.postLoss _ (fun y _ u inv => inv.post _ _ _) (timed.of_linked rfl)

/-- SEAL completes the seal of an unsealed part whose items all pass, or changes nothing (R166). -/
theorem sealBody_completes (s : State) :
    (sealBody s).1 = s ∨ (s.isSealed = false ∧ s.firstFailing = none ∧ (sealBody s).1 = s.complete) := by
  rcases sealBody_state s with e | e
  · exact Or.inl e
  · cases on : s.isSealed with
    | true => exact Or.inl (by rw [sealBody, beforeSeal_sealed _ s on])
    | false =>
      cases failing : s.firstFailing with
      | none => exact Or.inr ⟨rfl, rfl, e⟩
      | some i =>
        refine Or.inl ?_
        rw [sealBody, beforeSeal_unsealed _ s on, failing]

/-- STATION is in its range where no item fails (R166). -/
theorem State.station_of_passes (s : State) (passes : s.firstFailing = none) : 1 ≤ s.station ∧ s.station ≤ 16 := by
  have tested : s.testItem 1 = true := by
    have all := List.find?_eq_none.mp passes 1 (by decide)
    simpa using all
  have held : (1 : Int) ≤ s.item 1 ∧ s.item 1 ≤ 16 := by
    simpa [State.testItem, State.itemPasses, itemRange, State.itemRelation] using tested
  unfold State.station State.itemNat
  omega

theorem LinkInv.sealBody {s : State} (inv : LinkInv s) : LinkInv (sealBody s).1 := by
  rcases sealBody_completes s with e | ⟨off, passes, e⟩ <;> rw [e]
  · exact inv
  · obtain ⟨unknown, -⟩ := inv.asleep off
    exact LinkUnknown.complete ⟨inv, off, unknown, s.station_of_passes passes⟩

end Sys2Proof.Machine
end

section
/-! Every step keeps LinkInv: the commands and the events (10, R149 to R153). -/

namespace Sys2Proof.Machine

/-! ## Bodies that leave the link -/

/-- A body that leaves what LinkInv reads. -/
def KeepsLinked (body : Body) : Prop := ∀ s : State, (body s).1.linked = s.linked

theorem KeepsLinked.afterSeal {body : Body} (h : KeepsLinked body) : KeepsLinked (afterSeal body) := by
  intro s
  unfold Machine.afterSeal
  split_ifs
  · exact h s
  · rfl

theorem KeepsLinked.beforeSeal {body : Body} (h : KeepsLinked body) : KeepsLinked (beforeSeal body) := by
  intro s
  unfold Machine.beforeSeal
  split_ifs
  · rfl
  · exact h s

theorem KeepsLinked.of_state {body : Body} (h : ∀ s, (body s).1 = s) : KeepsLinked body :=
  fun s => congrArg State.linked (h s)

theorem State.command_linked (code tag : Byte) {body : Body} (h : KeepsLinked body) (s : State) :
    ∃ t, s.command code tag body = .next t ∧ t.linked = s.linked := ⟨_, rfl, h s.beginExchange⟩

/-- The configuration, the profiles and the metrology block lie beside the link. -/
theorem loadingBodies_linked :
    (∀ item element value, KeepsLinked (setConfigBody item element value)) ∧
    (∀ profile count flag steps, KeepsLinked (loadProfileBody profile count flag steps)) ∧
    (∀ staged profile count steps, KeepsLinked (continuationBody staged profile count steps)) ∧
    (∀ sect, KeepsLinked (loadMetrologyBody sect)) := by
  have continued (profile count : Byte) (steps : Vector RawStep 4) : KeepsLinked (continueLoad profile count steps) :=
    .beforeSeal fun u => by (repeat' split) <;> simp [State.linked]
  refine ⟨fun _ _ _ => .beforeSeal fun s => ?_, fun _ _ _ _ => .beforeSeal fun s => ?_,
    fun staged profile count steps s => continued profile count steps { s with staged },
    fun _ => .beforeSeal fun s => ?_⟩
  · dsimp only
    split_ifs <;> rfl
  · (repeat' split) <;> simp [State.linked]
  · split <;> rfl

/-- So does the machine table but for a change of day. -/
theorem tableBodies_linked :
    (∀ ring number costCentre permitted state allowance cap,
      KeepsLinked (putMachineBody ring number costCentre permitted state allowance cap)) ∧
    (∀ st selector key, KeepsLinked (setEntryStateBody st selector key)) ∧
    (∀ selector key, KeepsLinked (removeMachineBody selector key)) := by
  refine ⟨fun _ _ _ _ _ _ _ => .afterSeal fun s => ?_, fun _ _ _ => .afterSeal fun s => ?_,
    fun _ _ => .afterSeal fun s => ?_⟩
  · unfold putMachineChecked
    (repeat' split) <;> simp [State.linked]
  · (repeat' split) <;> simp [State.linked]
  · (repeat' split) <;> simp [State.linked]

/-- A body that reads a record or an event, sets the mask, clears the emergency stop, parks the part or ends a
receipt. -/
theorem readingBodies_linked :
    (∀ k part drain, KeepsLinked (readRecordBody k part drain)) ∧
    (∀ k part, KeepsLinked (readRecordDrainBody k part)) ∧
    KeepsLinked readEventBody ∧
    (∀ mask, KeepsLinked (setEventMaskBody mask)) ∧
    KeepsLinked estopClearBody ∧
    (∀ value, KeepsLinked (setParkedBody value)) ∧
    KeepsLinked receiptEndBody := by
  refine ⟨fun _ _ _ s => ?_, fun _ _ s => ?_, fun s => ?_, fun _ s => ?_, .afterSeal fun s => ?_,
    fun _ => .afterSeal fun s => ?_, .afterSeal fun s => ?_⟩
  · unfold readRecordBody; split_ifs <;> rfl
  · unfold readRecordDrainBody; dsimp only; split_ifs <;> rfl
  · unfold readEventBody; dsimp only; split <;> rfl
  · unfold setEventMaskBody; split_ifs <;> rfl
  · split_ifs <;> rfl
  · split_ifs <;> rfl
  · (repeat' split) <;> rfl

/-- A view changes nothing. -/
theorem viewBodies_linked :
    (∀ selector key station page, KeepsLinked (getMachineBody selector key station page)) ∧
    (∀ hose page, KeepsLinked (getHoseBody hose page)) ∧
    (∀ page, KeepsLinked (getStockBody page)) ∧
    (∀ station page, KeepsLinked (getLinkBody station page)) := by
  refine ⟨fun _ _ _ _ => .of_state (getMachineBody_state _ _ _ _), fun _ _ => .of_state fun s => ?_,
    fun page => .of_state fun s => viewPage_state page s.stockRows s, fun _ _ => .of_state fun s => ?_⟩
  · unfold getHoseBody; split <;> simp only [viewPage_state]
  · unfold getLinkBody; split_ifs <;> simp only [viewPage_state]

/-! ## Commands and events that leave the link -/

/-- The commands and events that can move the link: its own, the seal and the restarts, and those that ask for a
subject (R150). -/
def movesLink : Instr → Bool
  | .sealPart .. | .restart .. | .powerUp | .resetnAssertion | .setDay .. | .authorise .. | .stop .. | .setPreset ..
  | .setStock .. | .receiptBegin .. | .unseatEvent .. | .deadmanHeld .. | .estopAssertion | .armExpiry ..
  | .windowExpiry .. | .goHoldExpiry | .yieldExpiry | .carrierEvent | .carrierRelease | .linkCharacter ..
  | .quietExpiry | .jamExpiry | .backoffExpiry | .endOfTransmission | .stalenessExpiry .. | .machineSweep
  | .stockSweep | .scanExpiry => true
  | _ => false

theorem State.pumpFault_linked (k : CompId) (s : State) : (s.pumpFault k).linked = s.linked := by
  rw [(s.pumpFault_faults k).frame]
  rfl

theorem State.spunUp_linked (k : CompId) (s : State) : (s.spunUp k).linked = s.linked := by
  unfold State.spunUp
  dsimp only
  split_ifs
  · exact State.forEach_keep State.linked _ (fun n u => by simp [State.linked]) _ _
  · rfl

theorem exec_linked (i : Instr) (s : State) (h : movesLink i = false) :
    ∃ t, exec i s = .next t ∧ t.linked = s.linked := by
  obtain ⟨setConfig, loadProfile, continuation, loadMetrology⟩ := loadingBodies_linked
  obtain ⟨put, setEntry, remove⟩ := tableBodies_linked
  obtain ⟨readRecord, readRecordDrain, readEvent, setEventMask, estopClear, setParked, receiptEnd⟩ :=
    readingBodies_linked
  obtain ⟨getMachine, getHose, getStock, getLink⟩ := viewBodies_linked
  cases i
  case sealPart | restart | powerUp | resetnAssertion | setDay | authorise | stop | setPreset | setStock | receiptBegin
    | unseatEvent | deadmanHeld | estopAssertion | armExpiry | windowExpiry | goHoldExpiry | yieldExpiry
    | carrierEvent | carrierRelease | linkCharacter | quietExpiry | jamExpiry | backoffExpiry | endOfTransmission
    | stalenessExpiry | machineSweep | stockSweep | scanExpiry => cases h
  case setConfig => exact State.command_linked _ _ (setConfig _ _ _) s
  case loadProfile => exact State.command_linked _ _ (loadProfile _ _ _ _) s
  case loadProfileContinuation => exact State.command_linked _ _ (continuation _ _ _ _) s
  case loadMetrology => exact State.command_linked _ _ (loadMetrology _) s
  case putMachine => exact State.command_linked _ _ (put _ _ _ _ _ _ _) s
  case barMachine => exact State.command_linked _ _ (setEntry _ _ _) s
  case unbarMachine => exact State.command_linked _ _ (setEntry _ _ _) s
  case removeMachine => exact State.command_linked _ _ (remove _ _) s
  case getMachine => exact State.command_linked _ _ (getMachine _ _ _ _) s
  case getHose => exact State.command_linked _ _ (getHose _ _) s
  case estopClear => exact State.command_linked _ _ estopClear s
  case readRecord => exact State.command_linked _ _ (readRecord _ _ _) s
  case readRecordDrain => exact State.command_linked _ _ (readRecordDrain _ _) s
  case release => exact State.command_linked _ _ (fun _ => rfl) s
  case receiptEnd => exact State.command_linked _ _ receiptEnd s
  case setParked => exact State.command_linked _ _ (setParked _) s
  case getStock => exact State.command_linked _ _ (getStock _) s
  case getLink => exact State.command_linked _ _ (getLink _ _) s
  case readEvent => exact State.command_linked _ _ readEvent s
  case setEventMask => exact State.command_linked _ _ (setEventMask _) s
  case nop | unknownCommand | exchangeCutShort | estopRelease => exact ⟨_, rfl, rfl⟩
  case pfltAssertion k =>
    refine ⟨_, rfl, ?_⟩
    dsimp only
    split_ifs
    · exact State.pumpFault_linked k _
    · rfl
  case spinUpExpiry k =>
    refine ⟨_, rfl, ?_⟩
    split
    · rfl
    · rename_i due _
      have reselected : (State.reselect k ((s.reachMs due).spunUp k)).linked = ((s.reachMs due).spunUp k).linked := by
        simp [State.linked]
      exact reselected.trans (State.spunUp_linked k _)
  case seatEvent | deadmanRelease | pfltRelease | padMeasurement | phaseLineObservation =>
    refine ⟨_, rfl, ?_⟩
    dsimp only
    (repeat' split) <;> simp [State.linked]
  all_goals
    refine ⟨_, rfl, ?_⟩
    (repeat' split) <;> simp [State.linked]

/-! ## Bodies and events that ask for a subject -/

section
variable {s t : State} (inv : LinkInv s)
include inv

theorem LinkInv.afterSeal (body : Body) (h : s.isSealed = true → LinkInv (body s).1) :
    LinkInv (afterSeal body s).1 := by
  cases on : s.isSealed with
  | true => rw [afterSeal_sealed body s on]; exact h on
  | false => rw [afterSeal_unsealed body s on]; exact inv

theorem LinkInv.setDayBody (day : BitVec 16) : LinkInv (setDayBody day s).1 := by
  refine inv.afterSeal _ fun _ => ?_
  dsimp only
  split_ifs
  · exact inv
  · exact State.forEach_keeps LinkInv _ _ _ (fun p _ u inv => inv.ask _) (inv.of_linked rfl)

theorem LinkInv.authoriseIdentified (n : HoseId) (requested : Nat) :
    LinkInv (authoriseIdentified n requested s).1 := by
  unfold Machine.authoriseIdentified
  dsimp only
  split
  · exact inv
  · split
    · exact inv
    · exact inv.arm _ _ _

theorem LinkInv.authoriseKeyed (n : HoseId) (requested : Nat) (number : BitVec 16) :
    LinkInv (authoriseKeyed n requested number s).1 := by
  unfold Machine.authoriseKeyed
  split_ifs
  · exact inv
  · split
    · exact inv
    · split
      · exact inv
      · exact inv.arm _ _ _

theorem LinkInv.authoriseBody (hose : Byte) (preset : BitVec 32) (number : BitVec 16) :
    LinkInv (authoriseBody hose preset number s).1 := by
  refine inv.afterSeal _ fun _ => ?_
  split
  · exact inv
  · split
    · exact inv
    · split_ifs
      · exact inv.authoriseIdentified _ _
      · exact inv.authoriseKeyed _ _ _

theorem LinkInv.stopBody (hose : Byte) : LinkInv (stopBody hose s).1 := by
  refine inv.afterSeal _ fun _ => ?_
  split
  · exact inv
  · exact inv.stopHose _

theorem LinkInv.setPresetBody (hose : Byte) (preset : BitVec 32) : LinkInv (setPresetBody hose preset s).1 := by
  refine inv.afterSeal _ fun _ => ?_
  split
  · exact inv
  · split_ifs
    · dsimp only
      split
      · exact inv
      · refine LinkInv.ask ?_ _
        exact inv.of_linked rfl
    · exact inv

theorem LinkInv.setStockBody (comp : Byte) (book : BitVec 32) : LinkInv (setStockBody comp book s).1 := by
  refine inv.afterSeal _ fun _ => ?_
  split
  · exact inv
  · split_ifs
    · exact inv
    · exact inv
    · exact inv
    · exact inv.setStock _ _

theorem LinkInv.receiptBeginBody (comp : Byte) : LinkInv (receiptBeginBody comp s).1 := by
  refine inv.afterSeal _ fun _ => ?_
  split
  · exact inv
  · split_ifs
    · exact inv
    · exact inv
    · exact inv
    · exact inv.beginReceipt _

theorem LinkInv.deadmanHeld (n : HoseId) (h : exec (.deadmanHeld n) s = .next t) : LinkInv t := by
  have moved : LinkInv (s.setDeadman n true) := inv.of_linked rfl
  cases h
  dsimp only
  split
  · split_ifs
    · exact moved
    · exact moved.startDelivery n
  · exact moved.of_linked (by simp [State.linked])
  all_goals exact moved

theorem LinkInv.estopAssertion (h : exec .estopAssertion s = .next t) : LinkInv t := by
  have moved : LinkInv { s with pins := { s.pins with estop := true } } := inv.of_linked rfl
  cases on : s.isSealed with
  | false => cases (exec_estopAssertion_unsealed s on).symm.trans h; exact moved
  | true => cases (exec_estopAssertion_sealed s on).symm.trans h; exact moved.emergencyStop

theorem LinkInv.armExpiry (n : HoseId) (h : exec (.armExpiry n) s = .next t) : LinkInv t := by
  cases h
  split
  · exact inv
  · rename_i due _
    have reached : LinkInv (s.reachSec due) := inv.of_linked rfl
    dsimp only
    split_ifs
    · exact (reached.cancel n).post _ _ _
    · exact inv

theorem LinkInv.windowExpiry (m : MeterId) (h : exec (.windowExpiry m) s = .next t) : LinkInv t := by
  cases h
  split
  · exact inv
  · rename_i due _
    let armed := (s.reach due).applyArmed m
    have noted : LinkInv (armed.noteRate m (armed.windowOf m).rate) := inv.of_linked (by simp [armed, State.linked])
    exact (noted.account m (armed.windowOf m)).of_linked (by simp [armed, State.linked])

theorem LinkInv.goHoldExpiry (h : exec .goHoldExpiry s = .next t) : LinkInv t := by
  cases hold : s.stock.goHold with
  | none => cases (exec_goHoldExpiry_idle s hold).symm.trans h; exact inv
  | some due =>
    cases (exec_goHoldExpiry_due due s hold).symm.trans h
    refine LinkInv.setRestock ?_ _
    exact inv.of_linked rfl

theorem LinkInv.yieldExpiry (h : exec .yieldExpiry s = .next t) : LinkInv t := by
  cases yields : s.stock.yieldUntil with
  | none => cases (exec_yieldExpiry_idle s yields).symm.trans h; exact inv
  | some due =>
    cases (exec_yieldExpiry_due due s yields).symm.trans h
    refine LinkInv.evaluateRestock (LinkInv.ask ?_ _)
    exact inv.of_linked rfl

theorem LinkInv.scanExpiry (h : exec .scanExpiry s = .next t) : LinkInv t := by
  cases h
  split
  · exact inv
  · rename_i due _
    have reached : LinkInv (s.reach due) := inv.of_linked rfl
    dsimp only
    split_ifs
    · exact inv.of_linked rfl
    · exact reached.metrologyFault

/-! ## Every step -/

/-- A command keeps LinkInv if its body does. -/
theorem LinkInv.command {code tag : Byte} {body : Body} (keeps : ∀ u : State, LinkInv u → LinkInv (body u).1)
    (h : s.command code tag body = .next t) : LinkInv t := by
  cases h
  exact (keeps s.beginExchange (inv.of_linked rfl)).of_linked rfl

theorem LinkInv.exec {i : Instr} (h : exec i s = .next t) : LinkInv t := by
  cases moves : movesLink i with
  | false =>
    obtain ⟨u, step, linked⟩ := exec_linked i s moves
    cases step.symm.trans h
    exact inv.of_linked linked
  | true =>
    cases i
    case sealPart => exact inv.command (fun _ inv => inv.sealBody) h
    case restart => cases h; exact LinkInv.restart 2 s.beginExchange
    case powerUp => cases h; exact LinkInv.restart 0 s
    case resetnAssertion => cases h; exact LinkInv.restart 1 s
    case setDay => exact inv.command (fun _ inv => inv.setDayBody _) h
    case authorise => exact inv.command (fun _ inv => inv.authoriseBody _ _ _) h
    case stop => exact inv.command (fun _ inv => inv.stopBody _) h
    case setPreset => exact inv.command (fun _ inv => inv.setPresetBody _ _) h
    case setStock => exact inv.command (fun _ inv => inv.setStockBody _ _) h
    case receiptBegin => exact inv.command (fun _ inv => inv.receiptBeginBody _) h
    case unseatEvent n => cases h; exact LinkInv.unseat (s := s.setSeat n false) (inv.of_linked rfl) n
    case deadmanHeld n => exact inv.deadmanHeld n h
    case estopAssertion => exact inv.estopAssertion h
    case armExpiry n => exact inv.armExpiry n h
    case windowExpiry m => exact inv.windowExpiry m h
    case goHoldExpiry => exact inv.goHoldExpiry h
    case yieldExpiry => exact inv.yieldExpiry h
    case carrierEvent => exact inv.carrierEvent h
    case carrierRelease => exact inv.carrierRelease h
    case linkCharacter c => exact inv.linkCharacter c h
    case quietExpiry => exact inv.quietExpiry h
    case jamExpiry => exact inv.jamExpiry h
    case backoffExpiry => exact inv.backoffExpiry h
    case endOfTransmission => exact inv.endOfTransmission h
    case stalenessExpiry station => exact inv.stalenessExpiry station h
    case machineSweep => exact inv.machineSweep h
    case stockSweep => exact inv.stockSweep h
    case scanExpiry => exact inv.scanExpiry h
    all_goals cases moves

end

/-- Settles O9: a step is idle or executes the front of the queue, which keeps LinkInv. -/
theorem linkInvKept : Obligations.LinkInvKept := by
  unfold Obligations.LinkInvKept
  intro s t inv h
  unfold step at h
  split at h
  · cases h
    exact inv.of_linked (by unfold State.idle; split_ifs <;> rfl)
  · rename_i c rest _
    exact LinkInv.exec (s := { s with pending := rest }) (inv.of_linked rfl) h

end Sys2Proof.Machine
end
